-- ==== Sys2Proof/Word.lean ====
section
/-! DEFINITION. The word types of the Karril K7 and the sorted tables that hold sparse state.
Register contents, addresses under computation and encoded fields are bit vectors; counts, indices and
memory keys are natural numbers. -/

namespace Sys2Proof

/-- A 64-bit register or memory word. -/
abbrev Word := BitVec 64

/-- A byte of memory (all multi-byte values are little-endian, 00_scope.md). -/
abbrev Byte := BitVec 8

/-- One vector register, a row of an accumulator tile (R172). -/
abbrev Row := BitVec 2048

/-- Sparse data by key: the pairs stand in rising order of key, with no key twice. A key that is not
listed holds the default its reader names. -/
abbrev Table (α : Type) := List (Nat × α)

end Sys2Proof
end

