-- ==== Sys2Proof/Config.lean ====
section
/-! DEFINITION. What one implementation or one part fixes and the spec leaves open: constants of the package, and free
values, which are opaque: nothing can evaluate them or prove a value of them. Each is named in a log entry. -/

namespace Sys2Proof

namespace Config

/-- A free number for a choice the spec leaves open; the argument is the counter `State.fresh` (log 4, log 12). -/
opaque freeNat : Nat → Nat

/-- A free byte: the bytes of image sections whose layout the spec does not give (log 11). -/
opaque freeByte : Nat → Byte

/-- The hash of R84 that gives the home slice of a line over the live slices; not architectural (log 12). -/
opaque homeSlice : Nat → Nat

/-- The SFU's result for a function, a TYPE code, FTZ, DAZ and an operand, where R325 bounds it without fixing it
(log 14). -/
opaque sfuResult : Nat → Nat → Bool → Bool → Word → Word

/-- Signature checks of R42 over an image's bytes: ECDSA P-384 and HSS/LMS, against the fused hashes (log 7). -/
opaque ecdsaVerifies : List Byte → Bool
opaque hssVerifies : List Byte → Bool

/-- The security version an image carries, and its firmware version words (R42, R30; log 7). -/
opaque imageSecurity : List Byte → Nat
opaque imageVersions : List Byte → Word × Word

/-- The signed report of R44 over its contents (log 7). -/
opaque signedReport : List Byte → List Byte

/-- The part's 16 part-number bytes and 16 serial-number bytes (R46; log 7). -/
opaque partNumber : List Byte
opaque serialNumber : List Byte

/-- The fused security version (R42; log 7). -/
opaque fusedSecurity : BitVec 8

/-- The image installed when the part is made, and the three microcode images that an image carries (R43; log 7). -/
opaque factoryImage : List Byte
opaque microcode : Nat → List Byte → List Byte

/-- What a sensor reads: die temperatures, input voltage and module power (R46; log 6). -/
opaque sensorWord : Nat → BitVec 32

/-- Benches of the logical mesh: 32 columns of 16 numbers, rows 0 to 14 used (R1, R2). -/
def columns : Nat := 32
def rows : Nat := 15

/-- Full counts of HBM and LPDDR6 channels (R12). -/
def hbmChannels : Nat := 384
def lpChannels : Nat := 48

/-- One HBM channel holds 1.125 GB, and one LPDDR6 channel 32 GB (R12). -/
def hbmChannelBytes : Nat := 0x48000000
def lpChannelBytes : Nat := 0x800000000

/-- Sizes of the local spaces in bytes (R72). -/
def spadBytes : Nat := 0x30000
def benchMemBytes : Nat := 0x400000
def shelfBytes : Nat := 0x100000
def capBytes : Nat := 0x2108
def msgBytes : Nat := 0x100

/-- The barrier area at the end of bench memory (R293). -/
def barrierBase : Nat := 0x3FF800

/-- The device context (R47). -/
def deviceCtx : Nat := 0xFFF

/-- The module rating in W, the power cap before any PWRSET (R26; log 6). -/
def moduleRating : Nat := 2200

end Config

end Sys2Proof
end

