-- ==== Sys2Proof/Syntax.lean ====
section
/-! DEFINITION. The syntax of the Karril K7: operands, modifiers, the data that events carry, and `Instr`, one
constructor for each row of spec/opcode_table.json. Slot instructions carry the fields of R231; walker words carry
those of R246; events carry what comes from outside the device, or name the unit that acts. -/

namespace Sys2Proof

/-- An operand selector (R236). Selector 0 is x0, which also stands in a field that is unused or left out (R233). -/
inductive Sel where
  | x (n : Fin 64)
  | q (n : Fin 32)
  | k (n : Fin 8)
  | b (n : Fin 16)
  | acc (n : Fin 4)
  | ym (n : Fin 4)
  | v (n : Fin 64)
  | win (n : Fin 8)
  | msg
  | cap
  | xm (n : Fin 4)
  deriving DecidableEq, Repr

/-- The TYPE codes of R235, code 0 being "unused". ACAS writes `.b32` and `.b64` for `i32` and `i64`. -/
inductive Ty where
  | none | i8 | i16 | i32 | i64 | n8 | n16 | n32 | b128 | f16 | bf16 | f32 | f64 | e4m3 | e5m2 | f6e2
  deriving DecidableEq, Repr

/-- SPACE (R234). -/
inductive Space where
  | g | s | b
  deriving DecidableEq, Repr

/-- ORDER (R234, R101). -/
inductive Order where
  | rlx | acq | rel | ar | sc
  deriving DecidableEq, Repr

/-- SCOPE (R234, R100). -/
inductive Scope where
  | core | bench | region | pkg | sys
  deriving DecidableEq, Repr

/-- RND (R234): `dyn` takes the mode in force in the FCR. -/
inductive Rnd where
  | dyn | rne | rtz | rup | rdn
  deriving DecidableEq, Repr

/-- The fields of a 96-bit slot other than its opcode (R231, R234). `imm` is IMM32 zero-extended in the FN form, and
IMM48 in the wide form of LI and LIH, whose FN16 fields then stand at code 0. -/
structure Slot where
  /-- GN, guard negate (R232) -/
  gn : Bool
  /-- GK, guard predicate -/
  gk : Fin 8
  d : Sel
  a : Sel
  b : Sel
  c : Sel
  m : BitVec 4
  ty : Ty
  space : Space
  order : Order
  scope : Scope
  rnd : Rnd
  hint : Bool
  imm : BitVec 48
  deriving DecidableEq, Repr

/-- What the boot finds out about the package (R9, R11, R15, R43): the outside truth a boot reads. -/
structure BootTest where
  /-- benches that the fuse map or the boot-time test names, as (physical column, physical row) -/
  badBenches : List (Nat × Nat)
  /-- HBM and LPDDR6 channels withdrawn -/
  badHbm : Nat
  badLp : Nat
  /-- CXL capacity attached to each port, in bytes; 0 for none -/
  cxl0 : Nat
  cxl1 : Nat
  /-- a Type 1 or Type 2 device stands at the port (R15) -/
  cxl0Foreign : Bool
  cxl1Foreign : Bool
  /-- host link lanes and rate in GT/s -/
  hostLanes : Nat
  hostRate : Nat
  /-- lanes of each Trobin link that pass, by link -/
  linkLanes : List Nat
  deriving DecidableEq, Repr

/-- Where an uncorrectable error is detected (R95). -/
inductive ErrorUnit where
  /-- the LLC sector of 32 bytes at a virtual address -/
  | llc (va : Nat)
  /-- the memory sector of 32 bytes at a physical address -/
  | memory (pa : Nat)
  /-- a scratchpad word: bench, seat, offset -/
  | scratchpad (bench seat offset : Nat)
  /-- a bench-memory word: bench, offset -/
  | benchMemory (bench offset : Nat)
  /-- a shelf word: bench, seat, offset -/
  | shelf (bench seat offset : Nat)
  /-- a table word of a bench's network interface, whose parity is bad from then on (R128) -/
  | interface (bench : Nat)
  deriving DecidableEq, Repr

/-- The three rings of a function page (R31). -/
inductive RingKind where
  | cpl | fault | quar
  deriving DecidableEq, Repr

/-- A management request frame without its command code (R45): the transport, the sequence, the body as counted
by the header's length, and the tag that follows it over Ethernet. -/
structure MgmtFrame where
  ethernet : Bool
  seq : BitVec 8
  body : List (BitVec 8)
  tag : Option (BitVec 384)
  deriving DecidableEq, Repr

/-- One contribution to a collective step: the Trobin link of the peer, or `none` for this package, and its bytes
(R297). -/
structure Contribution where
  link : Option Nat
  bytes : List (BitVec 8)
  deriving DecidableEq, Repr

/-- The opcode table, one constructor for each row. -/
inductive Instr where
  -- power, parts and the outside world
  | standbyPowerOn (t : BootTest)
  | thermalTrip (die : Nat) (reading : BitVec 16)
  | undervoltageTrip (millivolts : BitVec 16)
  | cxlDeviceLoss (port : Fin 2)
  | uncorrectableError (u : ErrorUnit)
  | vfFunctionLevelReset (fn : Nat)
  -- host register and slot writes
  | commandSlotWrite (fn slot word : Nat) (value : Word)
  | ringControlWrite (fn : Nat) (ring : RingKind) (value : Word)
  | cplConsWrite (fn : Nat) (value : Word)
  | frConsWrite (fn : Nat) (value : Word)
  | qrConsWrite (fn : Nat) (value : Word)
  | registerWrite (fn offset size : Nat) (value : Word)
  -- host commands: the command held in a busy slot of a function is carried out
  | hostCtxnew (fn slot : Nat)
  | hostCtxgrant (fn slot : Nat)
  | hostCtxstart (fn slot : Nat)
  | hostCtxstop (fn slot : Nat)
  | hostCtxresume (fn slot : Nat)
  | hostCtxrevoke (fn slot : Nat)
  | hostCtxkill (fn slot : Nat)
  | hostCtxquery (fn slot : Nat)
  | partnew (fn slot : Nat)
  | partkill (fn slot : Nat)
  | mgmtkey (fn slot : Nat)
  | hostLinkup (fn slot : Nat)
  | hostLinkdown (fn slot : Nat)
  | ping (fn slot : Nat)
  | hostBadCommand (fn slot : Nat)
  | heldCompletionWrite (fn : Nat)
  | faultRecordDelivery (fn : Nat)
  | quarantineItemWrite (fn : Nat)
  -- management port
  | ident (f : MgmtFrame)
  | live (f : MgmtFrame)
  | sensors (f : MgmtFrame)
  | triplog (f : MgmtFrame)
  | pwrget (f : MgmtFrame)
  | pwrset (f : MgmtFrame)
  | mainon (f : MgmtFrame) (t : BootTest)
  | mainoff (f : MgmtFrame)
  | reset (f : MgmtFrame) (t : BootTest)
  | mgmtLinkup (f : MgmtFrame)
  | mgmtLinkdown (f : MgmtFrame)
  | attest (f : MgmtFrame)
  | fwstage (f : MgmtFrame)
  | fwactivate (f : MgmtFrame)
  | evlog (f : MgmtFrame)
  | mgmtBadCommand (code : BitVec 8) (f : MgmtFrame)
  -- Trobin links
  | flitReceived (link : Nat) (flit : BitVec 512)
  | retryRequest (link : Nat) (seq : BitVec 12)
  | linkRetrain (link : Nat) (passing : List Nat)
  | linkDown (link : Nat)
  -- scheduler
  | messageArrival (bench index : Nat)
  | taskEnd (launch task : Nat)
  | controlNodeEvaluation (launch : Nat)
  | launchComplete (launch : Nat)
  | stopComplete (ctx : Nat)
  | killComplete (ctx : Nat)
  | scrubLine (line : Nat)
  -- drawer controllers and engines
  | fetchSelection (launch region : Nat)
  | fillComplete (launch region block : Nat)
  | fillFault (launch region block : Nat)
  | evictionDone (launch region block : Nat)
  | copyComplete (bench index : Nat)
  | getxPlacexComplete (bench index : Nat)
  | engineLateFault (bench index : Nat)
  | streamBatch (bench session : Nat)
  | streamReadFault (bench session : Nat)
  | collectiveStepStart (launch step : Nat)
  | collectiveStepFinish (launch step status : Nat) (parts : List Contribution)
  -- slot instructions
  | add (f : Slot) | addi (f : Slot) | sub (f : Slot) | mul (f : Slot) | mulh (f : Slot) | mulhu (f : Slot)
  | div (f : Slot) | divu (f : Slot) | rem (f : Slot) | remu (f : Slot)
  | and (f : Slot) | andi (f : Slot) | or (f : Slot) | ori (f : Slot) | xor (f : Slot) | xori (f : Slot)
  | shl (f : Slot) | shli (f : Slot) | shr (f : Slot) | shri (f : Slot) | sra (f : Slot) | srai (f : Slot)
  | rol (f : Slot) | min (f : Slot) | minu (f : Slot) | max (f : Slot) | maxu (f : Slot)
  | clz (f : Slot) | ctz (f : Slot) | popc (f : Slot) | bfx (f : Slot) | bfi (f : Slot) | bswap (f : Slot)
  | sel (f : Slot) | cmp (f : Slot) | cmpi (f : Slot) | li (f : Slot) | lih (f : Slot) | lea (f : Slot)
  | mov (f : Slot) | klog (f : Slot)
  | fadd (f : Slot) | fsub (f : Slot) | fmul (f : Slot) | ffma (f : Slot) | fdiv (f : Slot) | fsqrt (f : Slot)
  | fmin (f : Slot) | fmax (f : Slot) | fcmp (f : Slot) | fcvt (f : Slot) | fclass (f : Slot)
  | nop (f : Slot) | br (f : Slot) | brx (f : Slot) | jmp (f : Slot) | call (f : Slot) | ret (f : Slot)
  | loop (f : Slot) | halt (f : Slot) | trapi (f : Slot)
  | ld (f : Slot) | st (f : Slot) | ldw (f : Slot) | stf (f : Slot) | pref (f : Slot) | fence (f : Slot)
  | cinv (f : Slot) | touch (f : Slot)
  | aadd (f : Slot) | aand (f : Slot) | aor (f : Slot) | axor (f : Slot) | amin (f : Slot) | amax (f : Slot)
  | axchg (f : Slot) | acas (f : Slot) | afadd (f : Slot) | afmin (f : Slot) | afmax (f : Slot)
  | send (f : Slot) | sendm (f : Slot) | migrate (f : Slot) | spawn (f : Slot) | signal (f : Slot) | qlen (f : Slot)
  | capnew (f : Slot) | capnext (f : Slot) | capins (f : Slot) | capdel (f : Slot) | capset (f : Slot)
  | capget (f : Slot) | capend (f : Slot)
  | chunk (f : Slot) | barinit (f : Slot) | bararrive (f : Slot) | barwait (f : Slot) | barexp (f : Slot)
  | clpost (f : Slot) | rankq (f : Slot)
  | ctxnew (f : Slot) | ctxgrant (f : Slot) | ctxstart (f : Slot) | ctxstop (f : Slot) | ctxresume (f : Slot)
  | ctxrevoke (f : Slot) | ctxkill (f : Slot) | ctxquery (f : Slot)
  | sysrd (f : Slot) | syswr (f : Slot) | perfrd (f : Slot) | fcrw (f : Slot)
  | vadd (f : Slot) | vsub (f : Slot) | vmul (f : Slot) | vfma (f : Slot) | vmin (f : Slot) | vmax (f : Slot)
  | vabs (f : Slot) | vcmp (f : Slot) | vsel (f : Slot) | vand (f : Slot) | vor (f : Slot) | vxor (f : Slot)
  | vshl (f : Slot) | vshr (f : Slot) | vcvt (f : Slot) | vq (f : Slot) | vdq (f : Slot) | vred (f : Slot)
  | vscan (f : Slot) | vnz (f : Slot) | vshuf (f : Slot) | vbcast (f : Slot) | vld (f : Slot) | vst (f : Slot)
  | vgath (f : Slot) | vscat (f : Slot) | vsfu (f : Slot) | vfence (f : Slot)
  | mma (f : Slot) | mmas (f : Slot) | mzero (f : Slot) | mpred (f : Slot) | msta (f : Slot) | mlnk (f : Slot)
  | mwait (f : Slot)
  | cpy (f : Slot) | cpyx (f : Slot) | cpymm (f : Slot) | cpysh (f : Slot) | getx (f : Slot) | placex (f : Slot)
  | ssopen (f : Slot) | ssisect (f : Slot) | ssunion (f : Slot) | sscount (f : Slot) | ssnext (f : Slot)
  | ssclose (f : Slot)
  | wload (f : Slot) | wrun (f : Slot) | wwait (f : Slot)
  -- walker words (R246, R247)
  | wldi (d : Fin 16) (i : BitVec 24)
  | wadd (d a b : Fin 16) (i : BitVec 16)
  | wld (d a w : Fin 16) (i : BitVec 16)
  | wcmp (d a b : Fin 16) (c : BitVec 16)
  | wbr (a : Fin 16) (t : BitVec 16)
  | wrow (a b : Fin 16) (i : BitVec 16)
  | wemit (a : Fin 16) (i : BitVec 16)
  | wmeta (a b : Fin 16)
  | wflush (k : BitVec 16)
  | wskip (a : Fin 16) (i : BitVec 16)
  | unassignedWalkerWord (w : BitVec 32)
  -- rows with no data of their own: of the package and its surroundings
  | thermalThrottle
  | benchFence
  | softErrorCorrected
  | hostLinkReset
  | inputPowerRemoved
  | issueGapsEnd
  -- of the unit, bench, port, core or hardware context that `State.cur` names
  | gangActivation
  | throttledActivation
  | issuePeriod
  | bandwidthPeriod
  | taskDispatch
  | watchdog
  | gangDeadlock
  | vectorCommandExecute
  | matrixCommandComplete
  | sfuRequestServed
  | walkerRunStart
  | walkerLoadStore
  | walkerStepLimit
  | ldwServed
  | queueWaitServed
  | barwaitRelease
  | claimHandover
  -- the slot of opcode 0x00 or of an unassigned opcode (R237, R238), and the walker words with no field
  | illegal
  | wnop
  | wend
  deriving DecidableEq, Repr

end Sys2Proof
end

