-- ==== Sys2Proof/WellFormed.lean ====
section
/-! DEFINITION. Which slots are instructions: the opcode of each constructor (R237), the fields each opcode uses and
the codes it accepts (the entries of files 12 to 15), and the decode checks of R238 and R239. Limits on the value of an
immediate that an entry calls a trap of the instruction are not decode checks: the meaning makes them (log 18). -/

namespace Sys2Proof

/-- Why the decoder rejects a slot (R238): the two causes of the decode checks. -/
inductive DecodeError where
  | illegalOp
  | illegalOperand
  deriving DecidableEq, Repr

/-- The slot fields and the opcode of a slot instruction (R237); `none` for ILLEGAL, walker words and events. -/
def slotParts : Instr → Option (Nat × Slot)
  | .add f => some (0x01, f) | .addi f => some (0x02, f) | .sub f => some (0x03, f) | .mul f => some (0x04, f)
  | .mulh f => some (0x05, f) | .mulhu f => some (0x06, f) | .div f => some (0x07, f) | .divu f => some (0x08, f)
  | .rem f => some (0x09, f) | .remu f => some (0x0A, f) | .and f => some (0x0B, f) | .andi f => some (0x0C, f)
  | .or f => some (0x0D, f) | .ori f => some (0x0E, f) | .xor f => some (0x0F, f) | .xori f => some (0x10, f)
  | .shl f => some (0x11, f) | .shli f => some (0x12, f) | .shr f => some (0x13, f) | .shri f => some (0x14, f)
  | .sra f => some (0x15, f) | .srai f => some (0x16, f) | .rol f => some (0x17, f) | .min f => some (0x18, f)
  | .minu f => some (0x19, f) | .max f => some (0x1A, f) | .maxu f => some (0x1B, f) | .clz f => some (0x1C, f)
  | .ctz f => some (0x1D, f) | .popc f => some (0x1E, f) | .bfx f => some (0x1F, f) | .bfi f => some (0x20, f)
  | .bswap f => some (0x21, f) | .sel f => some (0x22, f) | .cmp f => some (0x23, f) | .cmpi f => some (0x24, f)
  | .li f => some (0x25, f) | .lih f => some (0x26, f) | .lea f => some (0x27, f) | .mov f => some (0x28, f)
  | .klog f => some (0x29, f) | .fadd f => some (0x30, f) | .fsub f => some (0x31, f) | .fmul f => some (0x32, f)
  | .ffma f => some (0x33, f) | .fdiv f => some (0x34, f) | .fsqrt f => some (0x35, f) | .fmin f => some (0x36, f)
  | .fmax f => some (0x37, f) | .fcmp f => some (0x38, f) | .fcvt f => some (0x39, f) | .fclass f => some (0x3A, f)
  | .nop f => some (0x40, f) | .br f => some (0x41, f) | .brx f => some (0x42, f) | .jmp f => some (0x43, f)
  | .call f => some (0x44, f) | .ret f => some (0x45, f) | .loop f => some (0x46, f) | .halt f => some (0x47, f)
  | .trapi f => some (0x48, f) | .ld f => some (0x58, f) | .st f => some (0x59, f) | .ldw f => some (0x5A, f)
  | .stf f => some (0x5B, f) | .pref f => some (0x5C, f) | .fence f => some (0x5D, f) | .cinv f => some (0x5E, f)
  | .touch f => some (0x5F, f) | .aadd f => some (0x70, f) | .aand f => some (0x71, f) | .aor f => some (0x72, f)
  | .axor f => some (0x73, f) | .amin f => some (0x74, f) | .amax f => some (0x75, f) | .axchg f => some (0x76, f)
  | .acas f => some (0x77, f) | .afadd f => some (0x78, f) | .afmin f => some (0x79, f) | .afmax f => some (0x7A, f)
  | .send f => some (0x80, f) | .sendm f => some (0x81, f) | .migrate f => some (0x82, f) | .spawn f => some (0x83, f)
  | .signal f => some (0x84, f) | .qlen f => some (0x85, f) | .capnew f => some (0x86, f) | .capnext f => some (0x87, f)
  | .capins f => some (0x88, f) | .capdel f => some (0x89, f) | .capset f => some (0x8A, f) | .capget f => some (0x8B, f)
  | .capend f => some (0x8C, f) | .chunk f => some (0x8D, f) | .barinit f => some (0x8E, f)
  | .bararrive f => some (0x8F, f) | .barwait f => some (0x90, f) | .barexp f => some (0x91, f)
  | .clpost f => some (0x92, f) | .rankq f => some (0x93, f) | .ctxnew f => some (0x98, f) | .ctxgrant f => some (0x99, f)
  | .ctxstart f => some (0x9A, f) | .ctxstop f => some (0x9B, f) | .ctxresume f => some (0x9C, f)
  | .ctxrevoke f => some (0x9D, f) | .ctxkill f => some (0x9E, f) | .ctxquery f => some (0x9F, f)
  | .sysrd f => some (0xA0, f) | .syswr f => some (0xA1, f) | .perfrd f => some (0xA2, f) | .fcrw f => some (0xA3, f)
  | .vadd f => some (0xB0, f) | .vsub f => some (0xB1, f) | .vmul f => some (0xB2, f) | .vfma f => some (0xB3, f)
  | .vmin f => some (0xB4, f) | .vmax f => some (0xB5, f) | .vabs f => some (0xB6, f) | .vcmp f => some (0xB7, f)
  | .vsel f => some (0xB8, f) | .vand f => some (0xB9, f) | .vor f => some (0xBA, f) | .vxor f => some (0xBB, f)
  | .vshl f => some (0xBC, f) | .vshr f => some (0xBD, f) | .vcvt f => some (0xBE, f) | .vq f => some (0xBF, f)
  | .vdq f => some (0xC0, f) | .vred f => some (0xC1, f) | .vscan f => some (0xC2, f) | .vnz f => some (0xC3, f)
  | .vshuf f => some (0xC4, f) | .vbcast f => some (0xC5, f) | .vld f => some (0xC6, f) | .vst f => some (0xC7, f)
  | .vgath f => some (0xC8, f) | .vscat f => some (0xC9, f) | .vsfu f => some (0xCA, f) | .vfence f => some (0xCB, f)
  | .mma f => some (0xD0, f) | .mmas f => some (0xD1, f) | .mzero f => some (0xD2, f) | .mpred f => some (0xD3, f)
  | .msta f => some (0xD4, f) | .mlnk f => some (0xD5, f) | .mwait f => some (0xD6, f) | .cpy f => some (0xE0, f)
  | .cpyx f => some (0xE1, f) | .cpymm f => some (0xE2, f) | .cpysh f => some (0xE3, f) | .getx f => some (0xE4, f)
  | .placex f => some (0xE5, f) | .ssopen f => some (0xE8, f) | .ssisect f => some (0xE9, f)
  | .ssunion f => some (0xEA, f) | .sscount f => some (0xEB, f) | .ssnext f => some (0xEC, f)
  | .ssclose f => some (0xED, f) | .wload f => some (0xF0, f) | .wrun f => some (0xF1, f) | .wwait f => some (0xF2, f)
  | .illegal | .standbyPowerOn _ | .thermalThrottle | .thermalTrip _ _ | .undervoltageTrip _ | .benchFence
  | .cxlDeviceLoss _ | .uncorrectableError _ | .softErrorCorrected | .hostLinkReset | .vfFunctionLevelReset _
  | .commandSlotWrite _ _ _ _ | .ringControlWrite _ _ _ | .cplConsWrite _ _ | .frConsWrite _ _ | .qrConsWrite _ _
  | .registerWrite _ _ _ _ | .hostCtxnew _ _ | .hostCtxgrant _ _ | .hostCtxstart _ _ | .hostCtxstop _ _
  | .hostCtxresume _ _ | .hostCtxrevoke _ _ | .hostCtxkill _ _ | .hostCtxquery _ _ | .partnew _ _ | .partkill _ _
  | .mgmtkey _ _ | .hostLinkup _ _ | .hostLinkdown _ _ | .ping _ _ | .hostBadCommand _ _ | .heldCompletionWrite _
  | .faultRecordDelivery _ | .quarantineItemWrite _ | .ident _ | .live _ | .sensors _ | .triplog _ | .pwrget _
  | .pwrset _ | .mainon _ _ | .mainoff _ | .reset _ _ | .mgmtLinkup _ | .mgmtLinkdown _ | .attest _ | .fwstage _
  | .fwactivate _ | .evlog _ | .mgmtBadCommand _ _ | .flitReceived _ _ | .retryRequest _ _ | .linkRetrain _ _
  | .linkDown _ | .messageArrival _ _ | .taskDispatch | .gangActivation | .throttledActivation
  | .issuePeriod | .bandwidthPeriod | .watchdog | .gangDeadlock | .taskEnd _ _
  | .controlNodeEvaluation _ | .launchComplete _ | .stopComplete _ | .killComplete _ | .scrubLine _
  | .fetchSelection _ _ | .fillComplete _ _ _ | .fillFault _ _ _ | .evictionDone _ _ _ | .copyComplete _ _
  | .getxPlacexComplete _ _ | .engineLateFault _ _ | .vectorCommandExecute | .matrixCommandComplete
  | .sfuRequestServed | .streamBatch _ _ | .streamReadFault _ _ | .walkerRunStart | .walkerLoadStore
  | .walkerStepLimit | .collectiveStepStart _ _ | .collectiveStepFinish _ _ _ _ | .ldwServed
  | .queueWaitServed | .barwaitRelease | .claimHandover | .wnop | .wldi _ _ | .wadd _ _ _ _
  | .wld _ _ _ _ | .wcmp _ _ _ _ | .wbr _ _ | .wrow _ _ _ | .wemit _ _ | .wmeta _ _ | .wflush _ | .wskip _ _ | .wend
  | .unassignedWalkerWord _ | .inputPowerRemoved | .issueGapsEnd => none

/-- The opcode has the wide form: IMM48 in place of FN16 and IMM32 (R231). -/
def isWide (op : Nat) : Bool := op == 0x25 || op == 0x26

/-- What one opcode with one variant M makes of the slot's fields: which selectors, codes and immediate bits it
accepts. A field it does not use accepts only zero (R233). -/
structure FieldRule where
  d : Sel → Bool
  a : Sel → Bool
  b : Sel → Bool
  c : Sel → Bool
  ty : List Ty
  space : List Space
  order : List Order
  scope : Bool
  rnd : List Rnd
  hint : Bool
  imm : BitVec 48

/-- An unused selector field holds zero. -/
def selZero : Sel → Bool
  | .x n => n == 0
  | _ => false

/-- x0 to x63. -/
def selX : Sel → Bool
  | .x _ => true
  | _ => false

/-- An even register from x2 to x62, the first of a pair (R276, R292, R329). -/
def selPair : Sel → Bool
  | .x n => n.val % 2 == 0 && n.val != 0
  | _ => false

/-- A scalar source: x or a readable queue (R249, R179). -/
def selSrc : Sel → Bool
  | .x _ => true
  | .q n => n.val != 6 && n.val != 7
  | _ => false

/-- A scalar destination: x or a writable queue (R249, R179). -/
def selDst : Sel → Bool
  | .x _ => true
  | .q n => decide (8 ≤ n.val)
  | _ => false

/-- A predicate. -/
def selK : Sel → Bool
  | .k _ => true
  | _ => false

/-- A destination that may also be a predicate (R254, R255, R259). -/
def selDstK (s : Sel) : Bool := selDst s || selK s

/-- A source that may also be a predicate (R255). -/
def selSrcK (s : Sel) : Bool := selSrc s || selK s

/-- A readable queue (R285). -/
def selQueue : Sel → Bool
  | .q n => n.val != 6 && n.val != 7
  | _ => false

/-- A barrier handle (R294). -/
def selBar : Sel → Bool
  | .b _ => true
  | _ => false

/-- A vector register. -/
def selV : Sel → Bool
  | .v _ => true
  | _ => false

/-- "v or x" (R308). -/
def selVX (s : Sel) : Bool := selV s || selX s

/-- A window. -/
def selWin : Sel → Bool
  | .win _ => true
  | _ => false

/-- A vector destination that may be a window (R310). -/
def selVWin (s : Sel) : Bool := selV s || selWin s

/-- An accumulator tile. -/
def selAcc : Sel → Bool
  | .acc _ => true
  | _ => false

/-- A matrix mask (R335). -/
def selMask : Sel → Bool
  | .ym _ => true
  | .xm _ => true
  | _ => false

/-- No local selector, `msg` or `cap`. -/
def selMsgCap : Sel → Bool
  | .msg => true
  | .cap => true
  | s => selZero s

/-- No local selector, a window, `msg` or `cap`. -/
def selLocal (s : Sel) : Bool := selMsgCap s || selWin s

/-- A rule that uses no field. -/
def ruleNone : FieldRule :=
  { d := selZero, a := selZero, b := selZero, c := selZero, ty := [], space := [], order := [], scope := false,
    rnd := [], hint := false, imm := 0 }

/-- All of IMM32. -/
def imm32All : BitVec 48 := 0xFFFFFFFF

def tyScalarFloat : List Ty := [.f64, .f32, .bf16]
def tyVecFloat : List Ty := [.f64, .f32, .f16, .bf16]
def tyInt : List Ty := [.i8, .i16, .i32, .i64, .n8, .n16, .n32]
/-- Every TYPE that names a lane but `.b128`. -/
def tyLane : List Ty :=
  [.i8, .i16, .i32, .i64, .n8, .n16, .n32, .f16, .bf16, .f32, .f64, .e4m3, .e5m2, .f6e2]
def tyConvert : List Ty := [.i8, .i16, .i32, .i64, .n8, .n16, .n32, .f32, .f64, .bf16]
def tyMatrix : List Ty := [.bf16, .f16, .e4m3, .e5m2, .i8, .n8, .f32, .f64]
def rndAll : List Rnd := [.dyn, .rne, .rtz, .rup, .rdn]
def spaceAll : List Space := [.g, .s, .b]
def orderLoad : List Order := [.rlx, .acq, .sc]
def orderStore : List Order := [.rlx, .rel, .sc]
def orderAll : List Order := [.rlx, .acq, .rel, .ar, .sc]

/-- A three-operand scalar instruction (R250). -/
def ruleAlu3 : FieldRule := { ruleNone with d := selDst, a := selSrc, b := selSrc }

/-- A scalar instruction with an immediate (R251). -/
def ruleAluImm : FieldRule := { ruleNone with d := selDst, a := selSrc, imm := imm32All }

/-- A two-operand scalar instruction (R252). -/
def ruleAlu2 : FieldRule := { ruleNone with d := selDst, a := selSrc }

/-- The type has a rounding field only when it is a floating type. -/
def rndIfFloat (t : Ty) : List Rnd := if tyVecFloat.contains t then rndAll else []

/-- The TYPE code as a number (R235). -/
def tyCode : Ty → Nat
  | .none => 0 | .i8 => 1 | .i16 => 2 | .i32 => 3 | .i64 => 4 | .n8 => 5 | .n16 => 6 | .n32 => 7
  | .b128 => 8 | .f16 => 9 | .bf16 => 10 | .f32 => 11 | .f64 => 12 | .e4m3 => 13 | .e5m2 => 14 | .f6e2 => 15

/-- The TYPE of a code (R235). -/
def tyOfCode (n : Nat) : Ty :=
  match n with
  | 1 => .i8 | 2 => .i16 | 3 => .i32 | 4 => .i64 | 5 => .n8 | 6 => .n16 | 7 => .n32 | 8 => .b128 | 9 => .f16
  | 10 => .bf16 | 11 => .f32 | 12 => .f64 | 13 => .e4m3 | 14 => .e5m2 | 15 => .f6e2 | _ => .none

/-- The lane width of a TYPE in bits (R172, R214); 0 for "unused". -/
def tyBits : Ty → Nat
  | .none => 0 | .i8 => 8 | .i16 => 16 | .i32 => 32 | .i64 => 64 | .n8 => 8 | .n16 => 16 | .n32 => 32 | .b128 => 128
  | .f16 => 16 | .bf16 => 16 | .f32 => 32 | .f64 => 64 | .e4m3 => 8 | .e5m2 => 8 | .f6e2 => 8

/-- The M values that an opcode assigns, judged against TYPE where they depend on it (R238, R239). -/
def variantAssigned (op : Nat) (m : Nat) (t : Ty) : Bool :=
  let float := tyVecFloat.contains t
  match op with
  | 0x1F => decide (m ≤ 1)
  | 0x23 | 0x24 => decide (m ≤ 9)
  | 0x27 => decide (m ≤ 3)
  | 0x29 => decide (m ≤ 5)
  | 0x38 => decide (m ≤ 7)
  | 0x39 => tyConvert.contains (tyOfCode m)
  | 0x44 | 0x47 | 0x5C => decide (m ≤ 1)
  | 0x5E => decide (m ≤ 2)
  | 0x74 | 0x75 | 0x78 | 0x79 | 0x7A | 0x80 | 0x82 => decide (m ≤ 1)
  | 0x83 => decide (m ≤ 2)
  | 0x84 | 0x85 => decide (m ≤ 1)
  | 0x8A => decide (m ≤ 4) || (decide (8 ≤ m) && decide (m ≤ 11))
  | 0x8B => decide (m ≤ 4) || (decide (8 ≤ m) && decide (m ≤ 13))
  | 0x91 => decide (m ≤ 1)
  | 0xA3 => decide (m ≤ 4)
  | 0xB0 | 0xB1 | 0xB2 => m == 0 || (m == 1 && !float)
  | 0xB3 => decide (m ≤ 3)
  | 0xB6 => m == 0 || (m == 1 && !float)
  | 0xB7 => decide (m ≤ 7) || (decide (m ≤ 9) && !float)
  | 0xBD => decide (m ≤ 1)
  | 0xBE => m != 0 && m != 8
  | 0xC1 =>
    (decide (m ≤ 2) && (float || tyInt.contains t)) || (decide (3 ≤ m) && decide (m ≤ 5) && tyInt.contains t)
      || m == 6 || m == 7
  | 0xC2 => decide (m ≤ 2) || (decide (4 ≤ m) && decide (m ≤ 6))
  | 0xC4 | 0xC5 => decide (m ≤ 1)
  | 0xC6 | 0xC7 => decide (m ≤ 4)
  | 0xCA => decide (m ≤ 9)
  | 0xD0 => decide (m ≤ 1)
  | 0xD1 => decide (m ≤ 3)
  | 0xD3 => decide (m ≤ 1)
  | 0xD4 => m == 3 || m == 11 || m == 12
  | 0xE2 => decide (m ≤ 1)
  | 0xE9 => decide (m ≤ 1)
  | _ => m == 0

/-- The fields of a memory operand that takes a TYPE, a space and an order (R265). -/
def ruleMem (c : Sel → Bool) (orders : List Order) : FieldRule :=
  { ruleNone with a := selX, c := c, space := spaceAll, order := orders, scope := true, imm := imm32All }

/-- The fields of an atomic (R274): the destination is unused in the no-return form. -/
def ruleAtomic (types : List Ty) (hint : Bool) : FieldRule :=
  { ruleNone with
    d := if hint then selZero else selX, a := selX, b := selX, ty := types, space := [.g],
    order := if hint then [.rlx, .rel] else orderAll, scope := true, hint := true, imm := imm32All }

/-- An element-wise vector instruction with two sources (R313 to R315). -/
def ruleVec3 (types : List Ty) (f : Slot) : FieldRule :=
  { ruleNone with d := selVWin, a := selV, b := selVX, ty := types, imm := if selWin f.d then imm32All else 0 }

/-- The fields an opcode with variant `f.m` uses, with the codes it accepts. Where a field's use depends on another
field (a local selector in C, a window in D, the type), the slot itself says which rule holds. -/
def fieldRule (op : Nat) (f : Slot) : FieldRule :=
  let m := f.m.toNat
  match op with
  -- scalar integer
  | 0x01 | 0x03 | 0x04 | 0x05 | 0x06 | 0x07 | 0x08 | 0x09 | 0x0A | 0x0B | 0x0D | 0x0F | 0x11 | 0x13 | 0x15 | 0x17
  | 0x18 | 0x19 | 0x1A | 0x1B => ruleAlu3
  | 0x02 | 0x0C | 0x0E | 0x10 => ruleAluImm
  | 0x12 | 0x14 | 0x16 => { ruleAluImm with imm := 0x3F }
  | 0x1C | 0x1D | 0x1E | 0x21 => ruleAlu2
  | 0x1F => { ruleAlu2 with imm := 0xFFF }
  | 0x20 => { ruleAlu3 with imm := 0xFFF }
  | 0x22 => { ruleAlu3 with c := selK }
  | 0x23 => { ruleAlu3 with d := selDstK }
  | 0x24 => { ruleAluImm with d := selDstK }
  | 0x25 => { ruleNone with d := selX, imm := 0xFFFFFFFFFFFF }
  | 0x26 => { ruleNone with d := selX, imm := 0xFFFF }
  | 0x27 => { ruleNone with d := selX, a := selSrc, b := selSrc, imm := imm32All }
  | 0x28 => { ruleNone with d := selDstK, a := selSrcK }
  | 0x29 => { ruleNone with d := selK, a := selK, b := if m == 5 then selZero else selK }
  -- scalar floating point
  | 0x30 | 0x31 | 0x32 | 0x34 => { ruleAlu3 with ty := tyScalarFloat, rnd := rndAll }
  | 0x33 => { ruleAlu3 with c := selSrc, ty := tyScalarFloat, rnd := rndAll }
  | 0x35 => { ruleAlu2 with ty := tyScalarFloat, rnd := rndAll }
  | 0x36 | 0x37 => { ruleAlu3 with ty := tyScalarFloat }
  | 0x38 => { ruleAlu3 with d := selDstK, ty := tyScalarFloat }
  | 0x39 => { ruleAlu2 with ty := tyConvert, rnd := rndAll }
  | 0x3A => { ruleAlu2 with ty := tyScalarFloat }
  -- control
  | 0x41 => { ruleNone with imm := imm32All }
  | 0x42 => { ruleNone with a := selX, imm := imm32All }
  | 0x43 => { ruleNone with a := selX }
  | 0x44 => if m == 1 then { ruleNone with a := selX } else { ruleNone with imm := imm32All }
  | 0x46 => { ruleNone with d := selX, imm := imm32All }
  | 0x47 => if m == 1 then { ruleNone with imm := imm32All } else ruleNone
  -- memory
  | 0x58 => { ruleMem selMsgCap orderLoad with d := selX, ty := tyInt }
  | 0x59 => { ruleMem selLocal orderStore with b := selSrc, ty := tyInt }
  | 0x5A => { ruleNone with d := selX, a := selX, order := orderLoad, scope := true, hint := true, imm := imm32All }
  | 0x5B =>
    { ruleNone with
      a := selX, b := selX, c := fun s => selZero s || selWin s,
      space := if selWin f.c then [.g] else [.s], order := orderStore, scope := true, imm := imm32All }
  | 0x5C => { ruleNone with a := selX, space := [.g], imm := imm32All }
  | 0x5D => { ruleNone with order := [.acq, .rel, .ar, .sc], scope := true, imm := 0xF }
  | 0x5E => { ruleNone with a := selX, b := selX }
  | 0x5F => { ruleNone with a := selX, space := [.g], imm := imm32All }
  -- atomics
  | 0x70 | 0x71 | 0x72 | 0x73 | 0x74 | 0x75 | 0x76 => ruleAtomic [.i32, .i64] f.hint
  | 0x77 =>
    if f.ty = .b128 then
      { ruleAtomic [.b128] f.hint with d := if f.hint then selZero else selPair, b := selPair, c := selPair }
    else { ruleAtomic [.i32, .i64] f.hint with c := selX }
  | 0x78 | 0x79 | 0x7A => ruleAtomic (if m == 1 then [.bf16, .f32] else tyScalarFloat) f.hint
  -- messages, capsules, synchronisation
  | 0x80 =>
    if m == 1 then { ruleNone with a := selX, b := selX, imm := 0xFFF }
    else
      { ruleNone with
        a := selX, b := selX, c := selMsgCap, space := if selZero f.c then [.s, .b] else [.g], imm := 0xFFF }
  | 0x81 => { ruleNone with a := selX, b := selX, c := selX, space := [.s, .b], imm := 0xFFF }
  | 0x82 => if m == 1 then { ruleNone with a := selX, b := selX } else { ruleNone with a := selX, imm := imm32All }
  | 0x83 =>
    if m == 2 then { ruleNone with a := selX }
    else
      { ruleNone with
        a := selX, b := selX, c := selMsgCap, space := if selZero f.c then [.s, .b] else [.g], imm := 0xFFF }
  | 0x84 => if m == 1 then { ruleNone with b := selX } else { ruleNone with a := selX, b := selX, imm := 0xFF }
  | 0x85 => if m == 1 then { ruleNone with d := selX } else { ruleNone with d := selX, a := selQueue }
  | 0x86 =>
    { ruleNone with
      d := selX, a := selX, b := selX, c := selMsgCap, space := if selZero f.c then [.s, .b] else [.g],
      imm := 0x3FFFFF }
  | 0x88 => { ruleNone with a := selX, b := selX }
  | 0x89 => { ruleNone with a := selX }
  | 0x8A => { ruleNone with a := if decide (m ≤ 4) then selX else selZero, b := selX }
  | 0x8B => { ruleNone with d := selX, a := if decide (m ≤ 4) then selX else selZero }
  | 0x8D =>
    { ruleNone with d := selPair, a := selX, space := [.g], order := orderAll, scope := true, imm := imm32All }
  | 0x8E => { ruleNone with a := selBar, b := selX, c := selX }
  | 0x8F | 0x90 => { ruleNone with a := selBar }
  | 0x91 => { ruleNone with a := selBar, b := selX }
  | 0x92 => { ruleNone with a := selX }
  | 0x93 => { ruleNone with d := selX, a := selX }
  | 0x98 | 0x99 | 0x9A | 0x9B | 0x9C | 0x9D | 0x9E | 0x9F => { ruleNone with d := selX, a := selX, b := selX }
  | 0xA0 => { ruleNone with d := selX, imm := 0xFFF }
  | 0xA1 => { ruleNone with a := selX, imm := 0xFFF }
  | 0xA2 => { ruleNone with d := selX, c := selK, imm := 0x3F }
  | 0xA3 =>
    { ruleNone with d := if m == 0 || m == 2 then selX else selZero, a := if m == 0 then selZero else selX }
  -- vector
  | 0xB0 | 0xB1 | 0xB2 => { ruleVec3 (tyVecFloat ++ tyInt) f with rnd := rndIfFloat f.ty }
  | 0xB3 => { ruleVec3 tyVecFloat f with c := selVX, rnd := rndAll }
  | 0xB4 | 0xB5 => ruleVec3 (tyVecFloat ++ tyInt) f
  | 0xB6 => { ruleVec3 (tyVecFloat ++ [.i8, .i16, .i32, .i64]) f with b := selZero }
  | 0xB7 => ruleVec3 (tyVecFloat ++ tyInt) f
  | 0xB8 => { ruleVec3 tyLane f with c := selV }
  | 0xB9 | 0xBA | 0xBB | 0xBC | 0xBD => ruleVec3 tyLane f
  | 0xBE =>
    { ruleNone with
      d := if tyBits (tyOfCode m) == tyBits f.ty then selVWin else selV, a := selV, ty := tyLane, rnd := rndAll,
      imm := if selWin f.d then imm32All else 0x7 }
  | 0xBF => { ruleNone with d := selV, a := selV, ty := [.f32, .f16, .bf16] }
  | 0xC0 => { ruleNone with d := selV, a := selV, b := selX, ty := [.f32, .bf16, .f16, .e4m3] }
  | 0xC1 =>
    { ruleNone with
      a := selV, ty := if m == 6 || m == 7 then tyLane else tyVecFloat ++ tyInt,
      rnd := if m == 0 then rndIfFloat f.ty else [] }
  | 0xC2 =>
    { ruleNone with
      d := selV, a := selV, b := selX, ty := tyVecFloat ++ tyInt,
      rnd := if m == 0 || m == 4 then rndIfFloat f.ty else [] }
  | 0xC3 => { ruleNone with d := selV, a := selV, b := selX, ty := tyLane }
  | 0xC4 =>
    { ruleNone with d := selVWin, a := selV, b := selV, ty := tyLane, imm := if selWin f.d then imm32All else 0 }
  | 0xC5 =>
    if m == 1 then { ruleNone with d := selV, a := selV, ty := tyLane, imm := imm32All }
    else { ruleNone with d := selVWin, a := selX, ty := tyLane, imm := if selWin f.d then imm32All else 0 }
  | 0xC6 =>
    { ruleNone with
      d := selV, a := selX, b := selX, c := selMsgCap, space := if selZero f.c then spaceAll else [.g],
      order := [.rlx], scope := true, imm := imm32All }
  | 0xC7 =>
    { ruleNone with
      a := selX, b := selV, c := fun s => selX s || selWin s || s == .cap,
      space := if selX f.c then spaceAll else [.g], order := [.rlx], scope := true, imm := imm32All }
  | 0xC8 =>
    { ruleNone with
      d := selV, a := selX, b := selV, ty := tyLane, space := spaceAll, order := [.rlx], scope := true,
      imm := imm32All }
  | 0xC9 =>
    { ruleNone with
      a := selX, b := selV, c := selV, ty := tyLane, space := spaceAll, order := [.rlx], scope := true,
      imm := imm32All }
  | 0xCA =>
    { ruleNone with
      d := selVWin, a := selV, ty := [.f32, .f16, .bf16], rnd := if m == 4 then rndAll else [],
      imm := if selWin f.d then imm32All else 0 }
  -- matrix
  | 0xD0 =>
    { ruleNone with
      d := selAcc, a := if f.imm.extractLsb' 26 2 == 2#2 then selZero else selX, b := selX, ty := tyMatrix,
      imm := 0xFEFF1FFF }
  | 0xD1 =>
    { ruleNone with
      d := selAcc, a := if f.imm.extractLsb' 26 2 == 2#2 then selZero else selX, b := selX, c := selX,
      ty := [.bf16, .f16, .e4m3, .e5m2, .i8, .n8], imm := 0xFEFF1FFF }
  | 0xD2 => { ruleNone with d := selAcc, ty := [.i32, .f32, .f64], imm := 0xF0000000 }
  | 0xD3 => { ruleNone with d := selMask, a := selX }
  | 0xD4 =>
    { ruleNone with
      a := selX, b := selAcc, c := selX, space := spaceAll, imm := imm32All,
      ty := if m == 11 then [.f32, .bf16, .f16, .e4m3, .e5m2] else if m == 3 then [.i32, .i8, .n8] else [.f64, .f32] }
  | 0xD5 => { ruleNone with imm := 0x7 }
  | 0xD6 => { ruleNone with a := fun s => selZero s || selAcc s }
  -- copies
  | 0xE0 => { ruleNone with a := selX, b := selX, c := selX, imm := 0xFFFFF0FF }
  | 0xE1 => { ruleNone with a := selX, b := selX, c := selPair, imm := 0xFFFFF0FF }
  | 0xE2 =>
    { ruleNone with
      d := selAcc, a := selX, b := selX, c := selX, ty := tyMatrix, space := [.g, .b], imm := 0xF2FF1FFF }
  | 0xE3 => { ruleNone with a := selX, b := selX, c := selX, imm := 0xF9F7F0FF }
  | 0xE4 | 0xE5 => { ruleNone with a := selX, b := selX, c := selPair, imm := 0xFC37F0FF }
  -- streams and walker
  | 0xE8 => { ruleNone with a := selX, b := selX, space := [.s, .b] }
  | 0xE9 | 0xEA | 0xEB => { ruleNone with a := selX, b := selX, c := selX }
  | 0xEC | 0xED => { ruleNone with a := selX }
  | 0xF0 => { ruleNone with a := selX, b := selX, c := selX, space := [.s, .b] }
  | 0xF1 => { ruleNone with a := selX, b := selX, imm := 0x1FFF0FFF }
  | _ => ruleNone

/-- A code list accepts a code; an unused field accepts only code 0. -/
def codeOk {α : Type} [DecidableEq α] (accepted : List α) (zero code : α) : Bool :=
  if accepted.isEmpty then code == zero else accepted.contains code

/-- FCVT has no conversion between two integer types (R260). -/
def fcvtPair (op : Nat) (f : Slot) : Bool :=
  !(op == 0x39 && tyInt.contains (tyOfCode f.m.toNat) && tyInt.contains f.ty)

/-- ASRC 0b11 of a matrix command is no source; a CPYMM has ASRC 0b00, which its immediate bits enforce (R331, R340). -/
def asrcOk (op : Nat) (f : Slot) : Bool := !((op == 0xD0 || op == 0xD1) && f.imm.extractLsb' 26 2 == 3#2)

/-- The field that BFX and BFI name lies within 64 bits: position in bits [5:0], length less one in bits [11:6] (R253). -/
def bitFieldOk (op : Nat) (f : Slot) : Bool :=
  !(op == 0x1F || op == 0x20) || decide (f.imm.toNat % 64 + f.imm.toNat / 64 % 64 + 1 ≤ 64)

/-- SPACE stands at 0b00 where a local selector names the space (R265). -/
def localSpaceOk (op : Nat) (f : Slot) : Bool :=
  !((op == 0x58 || op == 0x59) && !selZero f.c && f.space != .g)

/-- The operand checks of R238 other than the variant. -/
def operandsOk (op : Nat) (f : Slot) : Bool :=
  let r := fieldRule op f
  !(f.gn && f.gk == 0) && r.d f.d && r.a f.a && r.b f.b && r.c f.c
    && codeOk r.ty .none f.ty && codeOk r.space .g f.space && codeOk r.order .rlx f.order
    && (r.scope || f.scope == .core) && codeOk r.rnd .dyn f.rnd && (r.hint || !f.hint)
    && (f.imm &&& ~~~ r.imm == 0) && fcvtPair op f && asrcOk op f && bitFieldOk op f && localSpaceOk op f

/-- The TYPE is one that the opcode accepts for some variant it assigns (R239). -/
def typeAccepted (op : Nat) (t : Ty) : Bool :=
  match op with
  | 0xB0 | 0xB1 | 0xB2 | 0xB7 => (tyVecFloat ++ tyInt).contains t
  | 0xB6 => (tyVecFloat ++ [Ty.i8, .i16, .i32, .i64]).contains t
  | 0xC1 => tyLane.contains t
  | _ => true

/-- ILLEGAL_OP by the variant: M is assigned for no TYPE, or TYPE is accepted and M is not assigned for it (R239). -/
def variantError (op : Nat) (m : Nat) (t : Ty) : Bool :=
  (!(variantAssigned op m .i32) && !(variantAssigned op m .f32)) || (typeAccepted op t && !(variantAssigned op m t))

/-- The decode checks of one slot that need no state, in their order (R239): ILLEGAL_OP, then ILLEGAL_OPERAND. -/
def slotError (op : Nat) (f : Slot) : Option DecodeError :=
  if variantError op f.m.toNat f.ty then some .illegalOp
  else if operandsOk op f then none
  else some .illegalOperand

/-- A walker instruction's register fields are bounded by their types; only an unassigned word has a condition: it is
not the word of an assigned walker instruction (R238, R247). -/
def walkerUnassigned (w : BitVec 32) : Bool :=
  let wop := (w.extractLsb' 28 4).toNat
  let wd := w.extractLsb' 24 4
  let wa := w.extractLsb' 20 4
  let wb := w.extractLsb' 16 4
  let im := w.extractLsb' 0 16
  match wop with
  | 0 | 11 => !(wd == 0 && wa == 0 && wb == 0 && im == 0)
  | 1 | 2 | 3 | 4 => false
  | 5 | 7 | 10 => !(wd == 0 && wb == 0)
  | 6 => !(wd == 0)
  | 8 => !(wd == 0 && im == 0)
  | 9 => !(wd == 0 && wa == 0 && wb == 0)
  | _ => true

/-- A well-formed instruction: a slot instruction that passes the decode checks, ILLEGAL, or a walker word read
as R247 reads it. Events have no encoding; they are well formed by their types. -/
def Instr.wf (i : Instr) : Bool :=
  match i with
  | .unassignedWalkerWord w => walkerUnassigned w
  | _ =>
    match slotParts i with
    | some (op, f) => (slotError op f).isNone
    | none => true

end Sys2Proof
end

