-- ==== Sys2Proof/Decode.lean ====
section
/-! DEFINITION. The decoder and the encoder of slots and walker words (R226 to R239, R246, R247). The decoder is total: an
opcode that is not assigned is ILLEGAL, a slot that fails a decode check is rejected with its cause, and a walker word that
is no walker instruction is an unassigned word. Fields are cut out of words here and nowhere else. -/

namespace Sys2Proof

/-- Bits [lo + n - 1 : lo] of a number. -/
def bitField (w lo n : Nat) : Nat := w / 2 ^ lo % 2 ^ n

/-- The operand an 8-bit selector names; a reserved selector names none (R236). -/
def selOfByte (n : Nat) : Option Sel :=
  if n < 0x40 then some (.x (Fin.ofNat 64 n))
  else if n < 0x60 then some (.q (Fin.ofNat 32 (n - 0x40)))
  else if n < 0x68 then some (.k (Fin.ofNat 8 (n - 0x60)))
  else if n < 0x78 then some (.b (Fin.ofNat 16 (n - 0x68)))
  else if n < 0x7C then some (.acc (Fin.ofNat 4 (n - 0x78)))
  else if n < 0x80 then some (.ym (Fin.ofNat 4 (n - 0x7C)))
  else if n < 0xC0 then some (.v (Fin.ofNat 64 (n - 0x80)))
  else if n < 0xC8 then some (.win (Fin.ofNat 8 (n - 0xC0)))
  else if n == 0xC8 then some .msg
  else if n == 0xC9 then some .cap
  else if n < 0xCE then some (.xm (Fin.ofNat 4 (n - 0xCA)))
  else none

/-- The selector of an operand (R236). -/
def selByte : Sel → Nat
  | .x n => n.val
  | .q n => 0x40 + n.val
  | .k n => 0x60 + n.val
  | .b n => 0x68 + n.val
  | .acc n => 0x78 + n.val
  | .ym n => 0x7C + n.val
  | .v n => 0x80 + n.val
  | .win n => 0xC0 + n.val
  | .msg => 0xC8
  | .cap => 0xC9
  | .xm n => 0xCA + n.val

/-- SPACE codes (R234). -/
def spaceOfCode : Nat → Option Space
  | 0 => some .g | 1 => some .s | 2 => some .b | _ => none
def spaceCode : Space → Nat
  | .g => 0 | .s => 1 | .b => 2

/-- ORDER codes (R234). -/
def orderOfCode : Nat → Option Order
  | 0 => some .rlx | 1 => some .acq | 2 => some .rel | 3 => some .ar | 4 => some .sc | _ => none
def orderCode : Order → Nat
  | .rlx => 0 | .acq => 1 | .rel => 2 | .ar => 3 | .sc => 4

/-- SCOPE codes (R234). -/
def scopeOfCode : Nat → Option Scope
  | 0 => some .core | 1 => some .bench | 2 => some .region | 3 => some .pkg | 4 => some .sys | _ => none
def scopeCode : Scope → Nat
  | .core => 0 | .bench => 1 | .region => 2 | .pkg => 3 | .sys => 4

/-- RND codes (R234). -/
def rndOfCode : Nat → Option Rnd
  | 0 => some .dyn | 1 => some .rne | 2 => some .rtz | 3 => some .rup | 4 => some .rdn | _ => none
def rndCode : Rnd → Nat
  | .dyn => 0 | .rne => 1 | .rtz => 2 | .rup => 3 | .rdn => 4

/-- The constructor of an assigned opcode (R237). -/
def slotInstr (op : Nat) : Option (Slot → Instr) :=
  match op with
  | 0x01 => some .add | 0x02 => some .addi | 0x03 => some .sub | 0x04 => some .mul | 0x05 => some .mulh
  | 0x06 => some .mulhu | 0x07 => some .div | 0x08 => some .divu | 0x09 => some .rem | 0x0A => some .remu
  | 0x0B => some .and | 0x0C => some .andi | 0x0D => some .or | 0x0E => some .ori | 0x0F => some .xor
  | 0x10 => some .xori | 0x11 => some .shl | 0x12 => some .shli | 0x13 => some .shr | 0x14 => some .shri
  | 0x15 => some .sra | 0x16 => some .srai | 0x17 => some .rol | 0x18 => some .min | 0x19 => some .minu
  | 0x1A => some .max | 0x1B => some .maxu | 0x1C => some .clz | 0x1D => some .ctz | 0x1E => some .popc
  | 0x1F => some .bfx | 0x20 => some .bfi | 0x21 => some .bswap | 0x22 => some .sel | 0x23 => some .cmp
  | 0x24 => some .cmpi | 0x25 => some .li | 0x26 => some .lih | 0x27 => some .lea | 0x28 => some .mov
  | 0x29 => some .klog | 0x30 => some .fadd | 0x31 => some .fsub | 0x32 => some .fmul | 0x33 => some .ffma
  | 0x34 => some .fdiv | 0x35 => some .fsqrt | 0x36 => some .fmin | 0x37 => some .fmax | 0x38 => some .fcmp
  | 0x39 => some .fcvt | 0x3A => some .fclass | 0x40 => some .nop | 0x41 => some .br | 0x42 => some .brx
  | 0x43 => some .jmp | 0x44 => some .call | 0x45 => some .ret | 0x46 => some .loop | 0x47 => some .halt
  | 0x48 => some .trapi | 0x58 => some .ld | 0x59 => some .st | 0x5A => some .ldw | 0x5B => some .stf
  | 0x5C => some .pref | 0x5D => some .fence | 0x5E => some .cinv | 0x5F => some .touch | 0x70 => some .aadd
  | 0x71 => some .aand | 0x72 => some .aor | 0x73 => some .axor | 0x74 => some .amin | 0x75 => some .amax
  | 0x76 => some .axchg | 0x77 => some .acas | 0x78 => some .afadd | 0x79 => some .afmin | 0x7A => some .afmax
  | 0x80 => some .send | 0x81 => some .sendm | 0x82 => some .migrate | 0x83 => some .spawn
  | 0x84 => some .signal | 0x85 => some .qlen | 0x86 => some .capnew | 0x87 => some .capnext
  | 0x88 => some .capins | 0x89 => some .capdel | 0x8A => some .capset | 0x8B => some .capget
  | 0x8C => some .capend | 0x8D => some .chunk | 0x8E => some .barinit | 0x8F => some .bararrive
  | 0x90 => some .barwait | 0x91 => some .barexp | 0x92 => some .clpost | 0x93 => some .rankq
  | 0x98 => some .ctxnew | 0x99 => some .ctxgrant | 0x9A => some .ctxstart | 0x9B => some .ctxstop
  | 0x9C => some .ctxresume | 0x9D => some .ctxrevoke | 0x9E => some .ctxkill | 0x9F => some .ctxquery
  | 0xA0 => some .sysrd | 0xA1 => some .syswr | 0xA2 => some .perfrd | 0xA3 => some .fcrw | 0xB0 => some .vadd
  | 0xB1 => some .vsub | 0xB2 => some .vmul | 0xB3 => some .vfma | 0xB4 => some .vmin | 0xB5 => some .vmax
  | 0xB6 => some .vabs | 0xB7 => some .vcmp | 0xB8 => some .vsel | 0xB9 => some .vand | 0xBA => some .vor
  | 0xBB => some .vxor | 0xBC => some .vshl | 0xBD => some .vshr | 0xBE => some .vcvt | 0xBF => some .vq
  | 0xC0 => some .vdq | 0xC1 => some .vred | 0xC2 => some .vscan | 0xC3 => some .vnz | 0xC4 => some .vshuf
  | 0xC5 => some .vbcast | 0xC6 => some .vld | 0xC7 => some .vst | 0xC8 => some .vgath | 0xC9 => some .vscat
  | 0xCA => some .vsfu | 0xCB => some .vfence | 0xD0 => some .mma | 0xD1 => some .mmas | 0xD2 => some .mzero
  | 0xD3 => some .mpred | 0xD4 => some .msta | 0xD5 => some .mlnk | 0xD6 => some .mwait | 0xE0 => some .cpy
  | 0xE1 => some .cpyx | 0xE2 => some .cpymm | 0xE3 => some .cpysh | 0xE4 => some .getx | 0xE5 => some .placex
  | 0xE8 => some .ssopen | 0xE9 => some .ssisect | 0xEA => some .ssunion | 0xEB => some .sscount
  | 0xEC => some .ssnext | 0xED => some .ssclose | 0xF0 => some .wload | 0xF1 => some .wrun
  | 0xF2 => some .wwait
  | _ => none

/-- TYPE as encoded; the wide form has none. -/
def rawType (op w : Nat) : Ty := if isWide op then .none else tyOfCode (bitField w 44 4)

/-- The fields of a slot (R231, R234); `none` where a selector or a code of FN16 is reserved. -/
def slotFields (op w : Nat) : Option Slot :=
  match selOfByte (bitField w 76 8), selOfByte (bitField w 68 8), selOfByte (bitField w 60 8),
      selOfByte (bitField w 52 8) with
  | some d, some a, some b, some c =>
    let base : Slot :=
      { gn := bitField w 87 1 == 1, gk := Fin.ofNat 8 (bitField w 84 3), d := d, a := a, b := b, c := c,
        m := BitVec.ofNat 4 (bitField w 48 4), ty := .none, space := .g, order := .rlx, scope := .core, rnd := .dyn,
        hint := false, imm := 0 }
    if isWide op then some { base with imm := BitVec.ofNat 48 (bitField w 0 48) }
    else
      match spaceOfCode (bitField w 42 2), orderOfCode (bitField w 39 3), scopeOfCode (bitField w 36 3),
          rndOfCode (bitField w 33 3) with
      | some sp, some o, some sc, some r =>
        some
          { base with
            ty := tyOfCode (bitField w 44 4), space := sp, order := o, scope := sc, rnd := r,
            hint := bitField w 32 1 == 1, imm := BitVec.ofNat 48 (bitField w 0 32) }
      | _, _, _, _ => none
  | _, _, _, _ => none

/-- The instruction of a 96-bit slot, or the cause of the decode check that fails (R238, R239). -/
def decodeSlot (w : Nat) : Except DecodeError Instr :=
  let op := bitField w 88 8
  match slotInstr op with
  | none => .ok .illegal
  | some mk =>
    if variantError op (bitField w 48 4) (rawType op w) then .error .illegalOp
    else
      match slotFields op w with
      | none => .error .illegalOperand
      | some f => if operandsOk op f then .ok (mk f) else .error .illegalOperand

/-- The 96 bits of a slot (R231). -/
def encodeSlot (op : Nat) (f : Slot) : Nat :=
  let low :=
    if isWide op then f.imm.toNat
    else
      tyCode f.ty * 2 ^ 44 + spaceCode f.space * 2 ^ 42 + orderCode f.order * 2 ^ 39 + scopeCode f.scope * 2 ^ 36
        + rndCode f.rnd * 2 ^ 33 + (if f.hint then 1 else 0) * 2 ^ 32 + f.imm.toNat
  op * 2 ^ 88 + (if f.gn then 1 else 0) * 2 ^ 87 + f.gk.val * 2 ^ 84 + selByte f.d * 2 ^ 76 + selByte f.a * 2 ^ 68
    + selByte f.b * 2 ^ 60 + selByte f.c * 2 ^ 52 + f.m.toNat * 2 ^ 48 + low

/-- The walker instruction of a 32-bit word (R246, R247); any other word is an unassigned one (R238). -/
def decodeWalker (n : Nat) : Instr :=
  let w := BitVec.ofNat 32 n
  let wd := Fin.ofNat 16 (bitField n 24 4)
  let wa := Fin.ofNat 16 (bitField n 20 4)
  let wb := Fin.ofNat 16 (bitField n 16 4)
  let im := BitVec.ofNat 16 (bitField n 0 16)
  if walkerUnassigned w then .unassignedWalkerWord w
  else
    match bitField n 28 4 with
    | 0 => .wnop
    | 1 => .wldi wd (BitVec.ofNat 24 (bitField n 0 24))
    | 2 => .wadd wd wa wb im
    | 3 => .wld wd wa wb im
    | 4 => .wcmp wd wa wb im
    | 5 => .wbr wa im
    | 6 => .wrow wa wb im
    | 7 => .wemit wa im
    | 8 => .wmeta wa wb
    | 9 => .wflush im
    | 10 => .wskip wa im
    | _ => .wend

/-- The register form of a walker word (R246). -/
def walkerReg (wop wd wa wb : Nat) (im : BitVec 16) : Nat :=
  wop * 2 ^ 28 + wd * 2 ^ 24 + wa * 2 ^ 20 + wb * 2 ^ 16 + im.toNat

/-- The word of a walker instruction (R246, R247). -/
def encodeWalker : Instr → Option Nat
  | .wnop => some 0
  | .wldi d i => some (1 * 2 ^ 28 + d.val * 2 ^ 24 + i.toNat)
  | .wadd d a b i => some (walkerReg 2 d.val a.val b.val i)
  | .wld d a w i => some (walkerReg 3 d.val a.val w.val i)
  | .wcmp d a b c => some (walkerReg 4 d.val a.val b.val c)
  | .wbr a t => some (walkerReg 5 0 a.val 0 t)
  | .wrow a b i => some (walkerReg 6 0 a.val b.val i)
  | .wemit a i => some (walkerReg 7 0 a.val 0 i)
  | .wmeta a b => some (walkerReg 8 0 a.val b.val 0)
  | .wflush k => some (walkerReg 9 0 0 0 k)
  | .wskip a i => some (walkerReg 10 0 a.val 0 i)
  | .wend => some (walkerReg 11 0 0 0 0)
  | .unassignedWalkerWord w => some w.toNat
  | _ => none

/-- The encoding of an instruction, as its number of bits and their value: 96 for a slot, 32 for a walker word. Events
have none. -/
def encode (i : Instr) : Option (Nat × Nat) :=
  match i with
  | .illegal => some (96, 0)
  | _ =>
    match slotParts i with
    | some (op, f) => some (96, encodeSlot op f)
    | none => (encodeWalker i).map fun w => (32, w)

/-- The decoder on a word of a given width: 32 bits hold a walker word, 96 bits a slot. -/
def decodeWord (nbits w : Nat) : Except DecodeError Instr :=
  if nbits ≤ 32 then .ok (decodeWalker (w % 2 ^ 32)) else decodeSlot (w % 2 ^ 96)

/-- The instruction the decoder reads from an instruction whose bits are `w`; walker words are 32-bit little-endian
words, and slots 96-bit little-endian ones, so bit 0 of `w` is bit 0 of the byte at the lowest address. -/
def decodeTableWord (nbits w : Nat) : Option Instr := (decodeWord nbits w).toOption

/-- Even parity of the low `n` bits of a number: true when the count of ones is odd. -/
def oddParity (n w : Nat) : Bool := (List.range n).foldl (fun p i => p != w.testBit i) false

/-- Slot `i` of a fetch line, as the 512-bit little-endian number of its 64 bytes (R226). -/
def lineSlot (line i : Nat) : Nat := bitField line (96 * i) 96

/-- The line word (R226). -/
def lineWord (line : Nat) : Nat := bitField line 480 32

/-- T bit of slot `i` (R227). -/
def lineT (line i : Nat) : Bool := (lineWord line).testBit (27 + i)

/-- P bit of slot `i` (R227); slot 4 has none. -/
def lineP (line i : Nat) : Bool := i < 4 && (lineWord line).testBit (23 + i)

/-- LP and the five SP bits agree with the line (R227, R228 check 1). -/
def lineParityOk (line : Nat) : Bool :=
  let w := lineWord line
  (oddParity 24 (w / 2 ^ 8) == w.testBit 5)
    && (List.range 5).all fun i => oddParity 96 (lineSlot line i) == w.testBit i

/-- The pairing classes of R229. -/
inductive PairClass where
  | scalar | control | memory | engine | solo
  deriving DecidableEq, Repr

/-- The pairing class of an opcode (R229). -/
def pairClass (op : Nat) : PairClass :=
  if (slotInstr op).isNone then .solo
  else if op ≤ 0x40 then .scalar
  else if op ≤ 0x57 then .control
  else if op ≤ 0x7F then .memory
  else if 0xB0 ≤ op then .engine
  else .solo

/-- The legal pairs of R229. -/
def legalPair (first second : PairClass) : Bool :=
  match first, second with
  | .scalar, .memory | .scalar, .engine | .scalar, .control => true
  | .memory, .scalar | .memory, .engine => true
  | .engine, .scalar | .engine, .memory => true
  | _, _ => false

/-- Checks 2 to 5 of R228: reserved bits zero, pairs do not chain, no target inside a pair, legal pairs. -/
def lineTemplateOk (line : Nat) : Bool :=
  let w := lineWord line
  bitField w 8 15 == 0 && bitField w 6 2 == 0
    && (List.range 3).all (fun i => !(lineP line i && lineP line (i + 1)))
    && (List.range 4).all fun i =>
      !lineP line i
        || (!lineT line (i + 1)
          && legalPair (pairClass (bitField (lineSlot line i) 88 8))
              (pairClass (bitField (lineSlot line (i + 1)) 88 8)))

end Sys2Proof
end

