-- ==== Sys2Proof/Machine/State.lean ====
section
/-! DEFINITION. The state of the Karril K7 as plain data, the outcomes of a step, and the state after reset. A table that
lists nothing for a key holds the value that the record's comment names. Every default written in a record below is the value
that State.reset, or the creation of the unit, gives the field. -/

namespace Sys2Proof.Machine

/-! ## Causes, results and turns -/

/-- Why a step stops. No meaning of this model stops; the types are the interface's. -/
inductive Fault where
  /-- raised by no meaning: every trap of the spec is taken as a next state. Safe: it never arises. -/
  | unreachable
  deriving DecidableEq, Repr

/-- Why an instruction has no meaning. -/
inductive Refusal where
  /-- raised by `exec` alone, for an instruction that is not modelled yet. Safe: the machine stops by name. -/
  | notModelled (mnemonic : String)
  deriving DecidableEq, Repr

/-- The fault causes of R39. -/
inductive Cause where
  | illegalOp | illegalOperand | badTemplate | badTarget | lineParity
  | prot | page | range | align | rangeLock | poison | atomicStraddle | scScope
  | sendDenied | rankInvalid | capItin
  | watchdog | gangAbort | gangDeadlock | sourceFaulted
  | sparseMeta | walkerFault
  | trapi
  | benchFenced | portDown
  | ctxOp
  deriving DecidableEq, Repr

/-- A hardware context, or the unit of a bench, seat or port that an event names. -/
structure Focus where
  bench : Nat := 0
  seat : Nat := 0
  hc : Nat := 0
  deriving DecidableEq, Repr

/-- What a fault tells the controller (R38, R65). -/
structure TrapInfo where
  cause : Cause
  /-- record word 3; ADDR is set when present -/
  addr : Option Word := none
  /-- record word 5 -/
  detail : Word := 0
  /-- OWNER of the last valid table entry read, for PAGE and PROT (R77) -/
  regionOwner : Option Nat := none
  /-- the context whose entries were searched, for RANGE (R65) -/
  searched : Option Nat := none
  /-- the range-lock entry that was hit, for RANGELOCK (R114) -/
  lock : Option Nat := none
  /-- FAILED is set in place of REQUEUED (R264, R201) -/
  fails : Bool := false
  /-- record word 2, where it is not the PC of the strand's issue group (R230) -/
  pc : Option Word := none
  /-- the recipient is the faulting context itself: a clean LLC sector whose memory is bad as well (R95) -/
  own : Bool := false
  /-- the stream and the element that a session was reading, in their places of record word 5 (R38, R189) -/
  element : Word := 0
  deriving DecidableEq, Repr

/-- The memory an access or a locked range lies in (R72, R112); `msg` and `cap` are never locked. -/
inductive LockSpace where
  | global
  | bench
  | spad (seat : Nat)
  | shelf (seat : Nat)
  | msg
  | cap
  deriving DecidableEq, Repr

/-- A range that an engine operation registers: bytes lo to hi inclusive, as a source or a destination (R112). -/
structure Span where
  space : LockSpace
  lo : Nat
  hi : Nat
  dest : Bool
  deriving DecidableEq, Repr

/-- What a waiting hardware context waits for (R139). -/
inductive WaitFor where
  /-- a read of an empty queue, or a write of a full one (R180) -/
  | queueRead (n : Nat)
  | queueWrite (n : Nat)
  /-- an LDW or LDW.k on a clear full bit of its own scratchpad (R268) -/
  | ldw (offset : Nat)
  /-- a BARWAIT on an object (R295) -/
  | barwait (object : Nat)
  /-- the vector claim (R168) -/
  | claim
  /-- a context operation that the controller has not completed (R51) -/
  | ctxOp (op : Nat)
  /-- the controller, which performs another operation to its end first (R51) -/
  | controller
  /-- its own task's range lock (R113) -/
  | rangeLock
  /-- registration of an engine operation's ranges, each in the table of a bench (R112) -/
  | register (wants : List (Nat × Span))
  /-- a full command queue or engine (R170, R173, R183, R190) -/
  | engineFull
  /-- older work of its own strand: a fence, HALT, MWAIT, VFENCE, WWAIT, FCRW, the store-hold rule -/
  | older
  /-- a session that is BUSY (R187, R344) -/
  | session
  /-- a rank IN_TRANSIT (R342), a full interface or completion ring (R200, R284), or the task pool (R134) -/
  | release
  /-- its own trap, which comes once its older vector memory commands are over (R309), and no sibling performs a context
  operation (R51) -/
  | trap (t : TrapInfo)
  /-- its own park on a block, which comes as a trap does (R156), with the blocks on which its slot has taken TOUCH holds -/
  | park (region block : Nat) (touched : List (Nat × Nat))
  deriving DecidableEq, Repr

/-- A wait, with the order in which it began. `served` is set when its turn has come. -/
structure Wait where
  why : WaitFor
  ticket : Nat
  /-- the core's clock when it began (R168) -/
  clock : Word := 0
  served : Bool := false
  /-- the slot that waits, where it issues alone -/
  slot : Option Slot := none
  deriving DecidableEq, Repr

/-- How the last slot that was executed ended (log 3). -/
inductive IssueResult where
  | none
  | retired
  | waiting (w : WaitFor)
  | trapped (t : TrapInfo)
  /-- with the blocks on which the slot took TOUCH holds on the way (R155) -/
  | parked (region block : Nat) (touched : List (Nat × Nat))
  | ended
  deriving DecidableEq, Repr

/-- One turn of the agenda: who moves (log 1). The turns that are no row of the opcode table are a core clock, one walker
instruction, and what units do of themselves in the background. -/
inductive Turn where
  /-- a row of the table that is an event, at the unit `at_` names -/
  | event (unit : Focus) (i : Instr)
  /-- one core clock: counts, then an issue group of the next context that can issue (R139) -/
  | core (bench seat : Nat)
  /-- one instruction of a walker's run -/
  | walker (bench : Nat)
  /-- the LLC writes back and drops the line with this index in its list -/
  | evictLine (index : Nat)
  /-- a core drops an L1 line, an instruction line or a PLB entry; a slice drops a translation -/
  | dropL1 (bench seat index : Nat)
  | dropFetch (bench seat index : Nat)
  | dropPlb (bench seat index : Nat)
  | dropTranslation (index : Nat)
  /-- the oldest accepted .nr atomic to a line is performed (R109) -/
  | performNr (index : Nat)
  /-- a copy engine moves one unit of a command (R339) -/
  | copyUnit (bench index : Nat)
  /-- a vector memory command makes one of its accesses (R323, R324, R328) -/
  | vectorPart (bench seat : Nat)
  /-- the controller has loaded and checked the tables of a resume of a context (R50, R70) -/
  | resumeLoaded (ctx : Nat)
  /-- the state-changing management command in execution ends (R45) -/
  | managementEnd
  deriving DecidableEq, Repr

/-! ## Messages and capsules -/

/-- A capsule body (R203): header word, itinerary entries, tile. -/
structure Capsule where
  header : Word := 0
  entries : List Word := []
  tile : List Byte := []
  deriving DecidableEq, Repr

/-- A hold carried by a parked message (R158): the strand index it goes back to, region and block. -/
structure CarriedHold where
  strand : Nat := 0
  region : Nat := 0
  block : Nat := 0
  deriving DecidableEq, Repr

/-- A message with its header fields (R192), payload and what travels with it. -/
structure Message where
  hidx : Nat := 0
  cls : Nat := 0
  plen : Nat := 0
  dest : Nat := 0
  defer : Bool := false
  req : Bool := false
  origin : Bool := false
  seq : BitVec 32 := 0
  sender : Nat := 0
  payload : List Byte := []
  expiry : Nat := 0
  holds : List CarriedHold := []
  capsule : Option Capsule := none
  /-- the owner of the message: the context that sent it, or the launch's -/
  ctx : Nat := 0
  /-- arrival number: a key that no two messages share -/
  key : Nat := 0
  /-- the region whose full park capacity deferred it (R157) -/
  deferRegion : Nat := 0
  /-- the block whose snapshot it belongs to (R160), as region and block -/
  snapshot : Option (Nat × Nat) := none
  /-- the descriptor it starts, for a ready task -/
  descriptor : Option Nat := none
  /-- it has been dispatched and its task has not ended (R135) -/
  active : Bool := false
  /-- it is attached to a lock entry and replays when that is released (R114) -/
  attached : Bool := false
  /-- the ticket at which it was made or first entered its mailbox, and its bench's clock then (R135, R138) -/
  entered : Nat := 0
  enteredClock : Nat := 0
  deriving DecidableEq, Repr

/-- One entry of a send buffer (R195). -/
inductive Send where
  | message (m : Message)
  /-- SENDM: first rank, stride, count (R281) -/
  | multicast (m : Message) (first stride count : Nat)
  /-- SPAWN of a task, with the entry it has reserved: of the pool, or of the queue behind it (R283) -/
  | spawn (m : Message) (spilled : Bool)
  | spawnTask (descriptor : Nat)
  | signalHost (value : Word)
  | forward
  deriving DecidableEq, Repr

/-- What a capsule step has said of its capsule (R287). -/
inductive CapsuleEnd where
  | open_ | forward | ended
  deriving DecidableEq, Repr

/-! ## Hardware contexts and cores -/

/-- A barrier handle (R294). -/
structure Handle where
  arr : Bool := false
  ph : Bool := false
  object : Nat := 0
  deriving DecidableEq, Repr

/-- An entry of q0 to q5: the word, and the global destination range of the operation it completes, empty when lo
exceeds hi (R110). -/
structure QEntry where
  word : Word
  lo : Nat := 1
  hi : Nat := 0
  /-- the session whose batch this status word commits (R187) -/
  session : Option Nat := none
  /-- the command whose completion it is, with its launch and the blocks that it holds: its entries in the range-lock tables and
  its holds last until the word is posted (R112, R155) -/
  op : Option Nat := none
  launch : Nat := 0
  blocks : List (Nat × Nat) := []
  deriving DecidableEq, Repr

/-- The strand on a hardware context: what lives for one activation (R123, R166). Unlisted x and k registers hold
zero and false; an unlisted handle n holds OBJ = n (R294). -/
structure Strand where
  launch : Nat := 0
  message : Message := {}
  rank : Nat := 0
  gangIndex : Nat := 0
  gangSize : Nat := 0
  xs : Table Word := []
  ks : Table Bool := []
  pc : Word := 0
  /-- the PC of the issue group in execution, which a record names (R229) -/
  group : Word := 0
  fcr : Word := 0x20
  /-- q0 to q5 -/
  qs : Table (List QEntry) := []
  /-- queues whose every read traps with SOURCE_FAULTED (R181) -/
  qFaulted : List Nat := []
  /-- the engine records of the faulted sessions for which q3 traps, each with its detail word, oldest first (R181, R189) -/
  q3Faults : List (Nat × Word) := []
  /-- completion words that wait for room in q0 to q5 (R179) -/
  qPending : Table (List QEntry) := []
  handles : Table Handle := []
  sends : List Send := []
  capsule : Option Capsule := none
  capsuleEnd : CapsuleEnd := .open_
  /-- TOUCH holds, as (region, block) -/
  touches : List (Nat × Nat) := []
  /-- acquire fences whose older loads are still to be performed: the kind mask, and the loads by the keys of their commands
  (R106) -/
  fences : List (Nat × List Nat) := []
  /-- tickets from here on are later than its activation (R202) -/
  born : Nat := 0
  /-- the line under execution, once its checks have passed (R228) -/
  line : Option Nat := none
  /-- the last change of PC was a transfer whose target's T bit is unchecked: the PC of the group that made it, or all
  ones for an entry (R230) -/
  transfer : Option Word := some (BitVec.allOnes 64)
  /-- the first fetch of a migrant or capsule entry is still to come (R201) -/
  firstFetch : Bool := true
  /-- core clocks since activation (R141) -/
  clocks : Nat := 0
  /-- core clocks in a gang-local wait without break (R144) -/
  gangWait : Nat := 0
  wait : Option Wait := none
  deriving DecidableEq, Repr

/-- A hardware context (R166). -/
structure Hc where
  cause : BitVec 8 := 0
  tval : Word := 0
  strand : Option Strand := none
  deriving DecidableEq, Repr

/-- A command of the vector command queue (R170): what was checked and read at issue. -/
structure VecCmd where
  key : Nat := 0
  hc : Nat := 0
  opcode : Nat := 0
  slot : Slot
  /-- register operands A, B, C as captured; for an MMAS, C is the metadata offset -/
  a : Word := 0
  b : Word := 0
  c : Word := 0
  /-- the effective address of a memory command -/
  ea : Word := 0
  /-- FCR at issue (R216) -/
  fcr : Word := 0
  launch : Nat := 0
  task : Nat := 0
  /-- the PC of its issue group -/
  pc : Word := 0
  /-- link words of the A operand that a matrix command has read so far, and whether one was poisoned (R177, R333) -/
  words : List (BitVec 256) := []
  poisoned : Bool := false
  /-- memory accesses made so far, in order, and the bytes that they have read (R323, R324) -/
  done : Nat := 0
  got : List Byte := []
  /-- blocks held until it is over, as (region, block) (R155) -/
  blocks : List (Nat × Nat) := []
  /-- its strand was aborted while it was in progress: its result is discarded (R142) -/
  aborted : Bool := false
  deriving DecidableEq, Repr

/-- A request of the SFU queue (R173): a VSFU command by its key, or a scalar FDIV or FSQRT. -/
structure SfuReq where
  hc : Nat := 0
  command : Option Nat := none
  deriving DecidableEq, Repr

/-- A line of the L1 (R82): 32 bytes by virtual address, with the ORD of its page. -/
structure L1Line where
  line : Nat
  part : Nat
  ord : Nat
  data : BitVec 256
  deriving DecidableEq, Repr

/-- A line of the instruction cache: 64 bytes by virtual address (R228). -/
structure FetchLine where
  line : Nat
  part : Nat
  data : BitVec 512
  deriving DecidableEq, Repr

/-- An entry of the PLB (R78). -/
structure PlbEntry where
  ctx : Nat
  base : Nat
  size : Nat
  read : Bool
  write : Bool
  execute : Bool
  atomic : Bool
  engine : Bool
  ord : Nat
  /-- whether the access rule of R77 admits the context -/
  admitted : Bool
  owner : Nat
  deriving DecidableEq, Repr

/-- Banks that HALT.R keeps for a handler (R202). -/
structure KeptBanks where
  handler : Nat
  banks : List Nat
  deriving DecidableEq, Repr

/-- Who has touched a scratchpad bank: the strand of a hardware context of the core, or an engine command by its key. -/
inductive Toucher where
  | strand (hc : Nat)
  | command (key : Nat)
  deriving DecidableEq, Repr

/-- The last touch of a bank by a strand or a command, by the ticket of that time (R202). -/
structure BankTouch where
  who : Toucher
  bank : Nat
  stamp : Nat
  deriving DecidableEq, Repr

/-- A core. Unlisted scratchpad and shelf bytes, rows of the accumulators and words of a cleared table read zero; an unlisted
ym or xm mask is all ones. -/
structure Core where
  cycle : Word := 0
  spad : List Host.Cell := []
  /-- scratchpad words whose full bit is set, by word number, rising -/
  full : List Nat := []
  spadPoison : List Nat := []
  shelf : List Host.Cell := []
  shelfPoison : List Nat := []
  /-- v0 to v63, the rows of acc0 to acc3 (R172) -/
  rows : Table Row := []
  ym : Table (BitVec 16) := []
  xm : Table Word := []
  linkIn : Bool := false
  linkFwd : Bool := false
  linkFeed : Bool := false
  linkQueue : List (BitVec 256) := []
  claim : Option Nat := none
  /-- the vector command queue, and the commands that the two units have taken from it and not finished -/
  commands : List VecCmd := []
  vector : Option VecCmd := none
  matrix : Option VecCmd := none
  sfu : List SfuReq := []
  /-- q8 to q15 -/
  queues : Table (List Word) := []
  l1 : List L1Line := []
  fetch : List FetchLine := []
  plb : List PlbEntry := []
  kept : List KeptBanks := []
  touches : List BankTouch := []
  /-- the hardware context that issued last (R139) -/
  lastIssued : Nat := 7
  deriving DecidableEq, Repr

/-! ## Benches and their engines -/

/-- A barrier object (R293). -/
structure Barrier where
  expect : Nat := 0
  arrived : Nat := 0
  under : Bool := false
  phase : Bool := false
  pend : Nat := 0
  /-- the task that last issued BARINIT on it: launch and message key -/
  initTask : Option (Nat × Nat) := none
  deriving DecidableEq, Repr

/-- The operation that holds a lock entry (R112). -/
inductive LockOp where
  /-- a copy-engine or matrix command, by its key -/
  | command (key : Nat)
  | session (n : Nat)
  | fill (launch region block : Nat)
  /-- the write-back of a block's frame (R161) -/
  | evict (launch region block : Nat)
  | step (launch step : Nat)
  deriving DecidableEq, Repr

/-- An entry of the range-lock table: bytes lo to hi inclusive (R112). -/
structure Lock where
  key : Nat
  space : LockSpace
  lo : Nat
  hi : Nat
  dest : Bool
  launch : Nat
  task : Nat
  op : LockOp
  /-- messages that replay when it is released, oldest first: launch, rank, message key (R114) -/
  attached : List (Nat × Nat × Nat) := []
  deriving DecidableEq, Repr

/-- What a copy-engine command does (R337 to R342). -/
inductive CopyKind where
  | cpy | cpyx | cpysh | cpymm | getx | placex
  deriving DecidableEq, Repr

/-- A command of the copy engine (R183, R339, R342). -/
structure CopyCmd where
  key : Nat
  kind : CopyKind
  issuer : Focus
  launch : Nat
  task : Nat
  ctx : Nat
  pc : Word
  /-- message identifier and rank of the strand, for its record -/
  msgId : Word := 0
  rank : Nat := 0
  src : LockSpace
  dst : LockSpace
  /-- the bench of the rank that a GETX or PLACEX names; else the issuing bench -/
  targetBench : Nat
  srcBase : Word
  dstBase : Word
  rowBytes : Nat
  rowCount : Nat
  srcStride : Int
  dstStride : Int
  full : Bool
  ncpl : Bool
  x6 : Bool
  barrier : Option Nat
  tag : Nat
  /-- destination bytes done -/
  done : Nat := 0
  cancelled : Bool := false
  /-- the completion status it has reached, once all its units are over (R181) -/
  status : Option Nat := none
  /-- index list offset, element size and element count of a GETX or PLACEX, whose target base is the base of its side -/
  indexBase : Nat := 0
  elemBytes : Nat := 0
  elements : Nat := 0
  /-- the follow-on matrix command of a CPYMM (R340) -/
  follow : Option VecCmd := none
  /-- blocks held, as (region, block) (R155) -/
  blocks : List (Nat × Nat) := []
  /-- the bench's clock at its issue (R185) -/
  issued : Nat := 0
  /-- the merge that it belongs to, by the key of its first command: one read of the source serves every command of it (R185) -/
  merge : Option Nat := none
  deriving DecidableEq, Repr

/-- The states of a stream session (R188). -/
inductive SessionState where
  | closed | idle | busy | done | faulted
  deriving DecidableEq, Repr

/-- What a session has reached (R186). -/
structure StreamPos where
  ca : Nat := 0
  cb : Nat := 0
  partA : List Word := []
  partB : List Word := []
  window : List (Word × Word) := []
  count : Nat := 0
  deriving DecidableEq, Repr

/-- A session of the stream engine (R186). -/
structure Session where
  st : SessionState := .closed
  mode : Nat := 0
  wide : Bool := false
  baseA : Nat := 0
  baseB : Nat := 0
  benchA : Bool := false
  benchB : Bool := false
  lenA : Nat := 0
  lenB : Nat := 0
  pos : StreamPos := {}
  committed : StreamPos := {}
  launch : Nat := 0
  /-- the strand that asked for the batch in progress -/
  requester : Option Focus := none
  task : Nat := 0
  pc : Word := 0
  msgId : Word := 0
  rank : Nat := 0
  /-- blocks held while a batch is in progress, as (region, block) (R155) -/
  blocks : List (Nat × Nat) := []
  /-- the batch has been produced and its status word posted -/
  posted : Bool := false
  /-- the engine's record that must be consumed (R189) -/
  faultRecord : Option Nat := none
  faultDetail : Word := 0
  deriving DecidableEq, Repr

/-- The walker's run in execution (R349). Unlisted emit and metadata entries hold zero. -/
structure WalkerRun where
  key : Nat
  issuer : Focus
  launch : Nat
  task : Nat
  ctx : Nat
  strandPc : Word
  msgId : Word := 0
  rank : Nat := 0
  seat : Nat
  sparsity : Nat
  elem : Nat
  tag : Nat
  regs : Table Word := []
  pc : Nat := 0
  emit : Table (BitVec 64) := []
  groups : Table (BitVec 4) := []
  row : Nat := 0
  col : Nat := 0
  /-- the output offset at the start of the run, and now -/
  start : Nat := 0
  out : Nat := 0
  tiles : Nat := 0
  steps : Nat := 0
  /-- set when an instruction ends the run: the completion status -/
  ended : Option Nat := none
  deriving DecidableEq, Repr

/-- An entry of the walker's queue (R190, R348). -/
inductive WalkerJob where
  | load (issuer : Focus) (offset : Nat) (words : List (BitVec 32)) (launch task : Nat)
  | run (r : WalkerRun)
  deriving DecidableEq, Repr

/-- A message held in an interface's holding buffer (R200). -/
structure HeldMessage where
  launch : Nat
  message : Message
  deriving DecidableEq, Repr

/-- An L1 miss at a bench's mesh port: its 256-byte block, its core, its partition, and the bench's clock at the first miss of the
burst that it has been merged into (R83). -/
structure MissNote where
  block : Nat
  seat : Nat
  part : Nat
  clock : Nat
  deriving DecidableEq, Repr

/-- A user queue in bench memory: the place of its oldest entry, and how many entries it holds (R126, R180). -/
structure UserQueue where
  head : Nat := 0
  count : Nat := 0
  deriving DecidableEq, Repr

/-- A bench. Unlisted bench-memory bytes read zero. -/
structure Bench where
  mem : List Host.Cell := []
  poison : List Nat := []
  barriers : Table Barrier := []
  /-- q16 to q31, whose entries stand in `mem` -/
  queues : Table UserQueue := []
  locks : List Lock := []
  copies : List CopyCmd := []
  sessions : Table Session := []
  store : Table (BitVec 32) := []
  jobs : List WalkerJob := []
  run : Option WalkerRun := none
  /-- the gang start that holds the reservation: launch and message key (R138) -/
  gang : Option (Nat × Nat) := none
  held : List HeldMessage := []
  /-- corrected soft errors (R306, event 13) -/
  softErrors : Word := 0
  /-- core clocks since the last activation beyond allowance and loans (R136) -/
  idleClocks : Nat := 0
  /-- core clocks of the bench since it came into service, and in its present issue period (R60) -/
  clocks : Nat := 0
  periodClocks : Nat := 0
  /-- L1 misses that a later one may be merged with -/
  misses : List MissNote := []
  /-- a word of its network interface's tables fails its parity whenever it is loaded (R128) -/
  badTable : Bool := false
  /-- capsule bodies in the store (R203) -/
  capsules : Nat := 0
  deriving DecidableEq, Repr

/-! ## Launches -/

/-- Who is told of a launch or context operation (R302, R34). -/
inductive Issuer where
  | nobody
  /-- a strand's launch, and its hardware context while the operation lasts -/
  | strand (launch : Nat) (unit : Focus)
  /-- a host command: function, slot, tag -/
  | host (fn slot : Nat) (tag : BitVec 32)
  deriving DecidableEq, Repr

/-- A rank-table entry with its counters (R194, R198, R288). -/
structure RankEntry where
  st : Nat := 0
  bx : Nat := 0
  bY : Nat := 0
  seat : Nat := 0
  strandSeq : BitVec 32 := 0
  deviceSeq : BitVec 32 := 0
  capsules : Nat := 0
  deriving DecidableEq, Repr

/-- A hold of a rank by a record (R66). -/
structure RankHold where
  rank : Nat
  record : Nat
  deriving DecidableEq, Repr

/-- How a task that is over left its message (R142). -/
inductive TaskFate where
  | live | halted | requeued | failed | parked | attached
  deriving DecidableEq, Repr

/-- A task in progress: its message's key is the table key (R124). -/
structure Task where
  rank : Nat := 0
  bench : Nat := 0
  seat : Nat := 0
  live : Nat := 0
  gang : Bool := false
  descriptor : Option Nat := none
  snapshot : Option (Nat × Nat) := none
  fate : TaskFate := .live
  deriving DecidableEq, Repr

/-- The states of a block (R154). -/
inductive BlockState where
  | absent | waiting | filling | resident | evicting
  deriving DecidableEq, Repr

/-- A block of a block region (R154). -/
structure Block where
  st : BlockState := .absent
  queue : List Message := []
  /-- messages of the snapshot of the fill in progress, in park order -/
  snapshot : List Message := []
  age : Nat := 0
  snap : Nat := 0
  hold : Nat := 0
  /-- the record that holds the queue out (R162) -/
  heldOut : Option Nat := none
  /-- when it became evictable -/
  since : Nat := 0
  /-- the victim whose write-back the fill waits for (R159) -/
  waitsFor : Option Nat := none
  /-- the write-back of its last frame is not done; the block may be selected again meanwhile (R159) -/
  leaving : Bool := false
  deriving DecidableEq, Repr

/-- An entry of the block-region table (R150). -/
structure Region where
  thr : Nat
  base : Nat
  bsz : Nat
  frames : Nat
  pcap : Nat
  blocks : Nat
  deriving DecidableEq, Repr

/-- An entry of the queue table (R126). -/
structure QueueDecl where
  reg : Nat
  depth : Nat
  offset : Nat
  deriving DecidableEq, Repr

/-- An entry of the retained-region table (R126). -/
structure Retained where
  benchMem : Bool
  offset : Nat
  length : Nat
  deriving DecidableEq, Repr

/-- A task descriptor, as its four words (R131), and its successor arms. -/
structure Descriptor where
  w0 : Word
  w1 : Word
  w2 : Word
  w3 : Word
  arms : List (List Nat) := []
  deriving DecidableEq, Repr

/-- A ready task whose payload or control word is not read yet, with the record it waits for (R132). -/
structure Unread where
  task : Nat
  record : Option Nat := none
  /-- when it became ready -/
  since : Nat := 0
  deriving DecidableEq, Repr

/-- An instance of a collective step (R298). -/
structure Collective where
  running : Bool := false
  started : Bool := false
  instance_ : Nat := 0
  counted : List (Nat × BitVec 32) := []
  previous : List (Nat × BitVec 32) := []
  /-- posts that wait: the strand's unit, its message identifier and its message key -/
  waiting : List (Focus × (Nat × BitVec 32) × Nat) := []
  /-- local posts that open the step, and its links, as the last post found them in the operand block -/
  count : Nat := 0
  links : List Nat := []
  /-- the operand block read at the start, word by word -/
  operands : List Word := []
  /-- this package's contribution, read at the start -/
  source : List Byte := []
  /-- links that went down or peers that failed the step: status 1 or 2 (R148) -/
  failed : Nat := 0
  /-- its start waits for the range-lock tables: when it began, and its ranges (R112) -/
  waitsLock : Option (Nat × List (Nat × Span)) := none
  deriving DecidableEq, Repr

/-- A message on its way (R196): where it left and where it goes. -/
structure Flight where
  launch : Nat
  /-- the bench whose interface sent it; none when the device made it -/
  source : Option Nat
  message : Message
  deriving DecidableEq, Repr

/-- A launch: one task graph on one region (R122, R125). -/
structure Launch where
  ctx : Nat := 0
  number : BitVec 32 := 0
  issuer : Issuer := .nobody
  notify : Word := 0
  /-- the sixteen words of the kernel header (R125) -/
  header : List Word := []
  handlers : List Word := []
  queues : List QueueDecl := []
  retained : List Retained := []
  regions : List Region := []
  descriptors : List Descriptor := []
  /-- the step table, four words each (R147) -/
  steps : List (List Word) := []
  ox : Nat := 0
  oy : Nat := 0
  width : Nat := 1
  height : Nat := 1
  ranks : Table RankEntry := []
  deps : Table Nat := []
  /-- descriptors whose counter has reached zero (R130) -/
  reached : List Nat := []
  unread : List Unread := []
  /-- task pool and memory-backed task queue, oldest first (R134), with entries reserved by spawns -/
  pool : List Message := []
  spill : List Message := []
  /-- ready tasks that neither takes yet, in the order in which they became ready -/
  waiting : List Message := []
  poolReserved : Nat := 0
  spillReserved : Nat := 0
  mailboxes : Table (List Message) := []
  overflow : Table (List Message) := []
  /-- device-made messages held where they were made, oldest first (R135) -/
  deviceHeld : List Message := []
  rankHolds : List RankHold := []
  tasks : Table Task := []
  /-- blocks by region × 2^28 + block -/
  blocks : Table Block := []
  collectives : Table Collective := []
  /-- performance counters by bench × 64 + event (R306) -/
  counters : Table Word := []
  /-- own bandwidth tokens that it has spent at each port in the present period (R125) -/
  portSpent : Table Nat := []
  reserve : Nat := 0
  failed : Bool := false
  /-- a bench of the launch has been fenced: it starts no new task (R145) -/
  fenced : Bool := false
  /-- its context is stopped: it holds no bench (R67) -/
  stopped : Bool := false
  deriving DecidableEq, Repr

/-! ## Contexts -/

/-- The states of a context (R50). -/
inductive CtxState where
  | idle | running | stopping | stopped | resuming | killing
  deriving DecidableEq, Repr

/-- A rectangle of benches: origin and size. -/
structure Rect where
  x : Nat
  y : Nat
  w : Nat
  h : Nat
  deriving DecidableEq, Repr

/-- A context descriptor (R49) and what the controller keeps beside it. -/
structure Ctx where
  parent : Nat := 0xFFF
  depth : Nat := 0
  part : Nat := 0
  st : CtxState := .idle
  claim : BitVec 8 := 0
  benches : Option Rect := none
  issue : Nat := 0
  bw : Nat := 0
  issueCh : Nat := 0
  bwCh : Nat := 0
  image : Word := 0
  imageSize : Nat := 0
  qres : Nat := 0
  vf : Nat := 0
  spares : List Nat := []
  allow : Word := 0
  /-- launches started so far (R300) -/
  launchCount : BitVec 32 := 0
  /-- the image is held on chip after a refused stop (R67) -/
  onChip : Bool := false
  /-- it was stopped with an ancestor, in whose image it is a nested section (R68) -/
  nested : Bool := false
  deriving DecidableEq, Repr

/-- A range entry (R54), in 64 KiB units; the offset is physical − intermediate. -/
structure RangeEntry where
  derived : Bool
  src : Nat
  base : Nat
  owner : Nat
  limit : Nat
  attr : BitVec 5
  offset : Int
  deriving DecidableEq, Repr

/-- What a context operation that is not complete waits to do (R50, R57, R67, R71). -/
inductive CtxOpKind where
  | stop
  /-- a resume by a displacement, until the tables are loaded (R70, R199) -/
  | resume (dx dy : Int)
  /-- a revocation with its operands A, B and C -/
  | revoke (a b c : Word)
  | kill
  deriving DecidableEq, Repr

/-- The physical bytes of a revoked range entry, to be written back, dropped and perhaps scrubbed (R57). -/
structure RangeDrop where
  part : Nat
  lo : Nat
  hi : Nat
  scrub : Bool
  /-- the entry's owner and its ATTR, by which a line that is still cached is accessed until then -/
  owner : Nat
  attr : BitVec 5
  deriving DecidableEq, Repr

/-- A context operation in progress. -/
structure CtxOp where
  key : Nat
  kind : CtxOpKind
  target : Nat
  issuerCtx : Nat
  issuer : Issuer
  /-- it has begun to act on its target -/
  begun : Bool := false
  /-- quarantined items counted, and their keys while unwritten -/
  items : Nat := 0
  /-- physical ranges of revoked entries, which are dropped once the accesses that had passed their checks are performed (R57) -/
  drops : List RangeDrop := []
  /-- the contexts that lose them -/
  losers : List Nat := []
  /-- its result, once complete -/
  result : Option (Option Word) := none
  deriving DecidableEq, Repr

/-- A loan of issue or bandwidth tokens on one bench or port (R61). -/
structure Loan where
  port : Bool
  unit : Nat
  parent : Nat
  borrower : Nat
  lender : Nat
  amount : Nat
  deriving DecidableEq, Repr

/-- What a context has spent and lent of a period's tokens on one bench or port, its credits and deductions, and what a
revocation in the period has still to take from it or give it (R59 to R61). -/
structure Spending where
  spent : Nat := 0
  /-- tokens that siblings have borrowed -/
  lent : Nat := 0
  /-- activations left of the token taken last (R136) -/
  activations : Nat := 0
  credit : Nat := 0
  deduct : Nat := 0
  late : Int := 0
  deriving DecidableEq, Repr

/-- A mailbox, barrier, region or session saved when a context stopped (R69): the benches' contents. -/
structure SavedBench where
  launch : Nat
  dx : Nat
  dy : Nat
  barriers : Table Barrier := []
  queues : Table (List Word) := []
  sessions : Table Session := []
  /-- retained bytes of bench memory and of each seat's scratchpad, with full words -/
  mem : List Host.Cell := []
  spads : Table (List Host.Cell) := []
  fulls : Table (List Nat) := []
  deriving DecidableEq, Repr

/-- The context controller (R47 to R71). -/
structure Controller where
  ctxs : Table Ctx := []
  nextId : Nat := 0
  freed : List Nat := []
  /-- range entries by partition × 64 + index -/
  ranges : Table RangeEntry := []
  /-- unassigned VFs (R30) -/
  vfFree : List Nat := []
  /-- bandwidth tokens carved from the device context (R60) -/
  bwCh : Nat := 0
  ops : List CtxOp := []
  /-- spending by (port bit × 1024 + unit) × 4096 + context -/
  spending : Table Spending := []
  loans : List Loan := []
  /-- places taken in each partition's order S (R107) -/
  desk : Table Nat := []
  /-- bench contents saved with stopped contexts -/
  saved : List SavedBench := []
  deriving DecidableEq, Repr

/-! ## Global memory -/

/-- A line of the LLC (R84): 256 bytes with a bit per 32-byte sector. -/
structure LlcLine where
  line : Nat
  phys : Nat
  owner : Nat
  valid : BitVec 8
  dirty : BitVec 8
  poison : BitVec 8
  data : BitVec 2048
  /-- it is a line of a block frame (R152) -/
  frame : Bool := false
  /-- it was decoded from a view (R93) -/
  view : Bool := false
  /-- the intermediate address of its first byte, in its owner's space (R54, R79) -/
  inter : Nat := 0
  /-- sectors that met an uncorrectable error while clean, and are read from memory again (R95) -/
  again : BitVec 8 := 0
  /-- the walk of the fill that wrote this frame line met an uncorrectable error: the line holds poison (R162) -/
  lost : Bool := false
  deriving DecidableEq, Repr

/-- A cached translation of one 64 KiB page (R79): its owner, its intermediate address, and whether the leaf is
block-mapped. -/
structure Translation where
  page : Nat
  part : Nat
  owner : Nat
  inter : Nat
  blk : Bool
  deriving DecidableEq, Repr

/-- A scrub in progress over physical lines lo to hi, the next line to zero, and the lines a write has touched (R58). -/
structure Scrub where
  lo : Nat
  hi : Nat
  next : Nat
  touched : List Nat := []
  deriving DecidableEq, Repr

/-- A no-return atomic that has been accepted at its line and not performed (R109). -/
structure NrAtomic where
  issuer : Focus
  launch : Nat
  task : Nat
  va : Nat
  /-- the line at which it was accepted -/
  at_ : LlcLine
  opcode : Nat
  /-- M, TYPE and the operands B and C as read at issue -/
  variant : Nat
  ty : Ty
  operand : Nat
  compare : Nat
  /-- what a release waits for before it is performed: vector memory commands by their keys, and at .sys the traffic of the
  launch's links (R103) -/
  after : List Nat := []
  sys : Bool := false
  deriving DecidableEq, Repr

/-- A decode range register (R91). -/
structure View where
  w0 : Word
  w1 : Word
  w2 : Word
  w3 : Word
  deriving DecidableEq, Repr

/-- Global memory and its caches. Unlisted bytes read zero; an unlisted L3 entry is V = 0 with OWNER 0xFFF. -/
structure Memory where
  bytes : List Host.Cell := []
  /-- poisoned 32-byte sectors of memory, by physical sector -/
  poison : List Nat := []
  scrubs : List Scrub := []
  /-- views by tier × 16 + register -/
  views : Table View := []
  l3 : Table Word := []
  llc : List LlcLine := []
  translations : List Translation := []
  nr : List NrAtomic := []
  deriving DecidableEq, Repr

/-! ## The host interface -/

/-- One ring of a function page (R31, R32). -/
structure Ring where
  base : Word := 0
  en : Bool := false
  ie : Bool := false
  err : Bool := false
  log2n : Nat := 0
  prod : BitVec 32 := 0
  cons : BitVec 32 := 0
  /-- the next record sequence (R37) -/
  seq : Word := 1
  /-- the next entry sends a message at once (R41, log 8) -/
  armed : Bool := true
  deriving DecidableEq, Repr

/-- A fault record before its sequence (R38). -/
structure Record where
  key : Nat
  w0 : Word
  w1 : Word
  w2 : Word
  w3 : Word
  w4 : Word
  w5 : Word
  w6 : Word := 0
  deriving DecidableEq, Repr

/-- A quarantine item: entry words 0 to 2, 5 and 6, its body, and the operation that waits for it (R40). -/
structure QuarItem where
  w0 : Word
  w1 : Word
  w2 : Word
  w5 : Word
  w6 : Word
  body : List Byte
  op : Option Nat := none
  deriving DecidableEq, Repr

/-- A completion (R34): its two words, and whether it is a SIGNAL.host completion (R41); the slot whose busy bit it
clears. -/
structure Completion where
  w0 : Word
  w1 : Word
  signal : Bool := false
  frees : Option Nat := none
  deriving DecidableEq, Repr

/-- A command accepted and not yet carried out: its slot and the eight words copied (R34). -/
structure HostCmd where
  slot : Nat
  words : List Word
  deriving DecidableEq, Repr

/-- A function of the host interface (R27 to R41). Unlisted slot words and MSI-X words are zero. -/
structure HostFn where
  ctx : Nat := 0xFFF
  status : BitVec 3 := 0
  slots : Table Word := []
  busy : BitVec 64 := 0
  accepted : List HostCmd := []
  cpl : Ring := {}
  fr : Ring := {}
  qr : Ring := {}
  qbBase : Word := 0
  qbSize : Word := 0
  heldCpl : List Completion := []
  heldFr : List Record := []
  heldQr : List QuarItem := []
  /-- for each unconsumed completion, oldest first: it is a SIGNAL.host one -/
  cplKinds : List Bool := []
  /-- keys of the fault records not yet consumed, oldest first -/
  frKeys : List Nat := []
  /-- for each unconsumed quarantine entry, oldest first: the first byte after its body's space -/
  bodies : List (Nat × Nat) := []
  bodyNext : Nat := 0
  msix : Table Word := []
  pending : BitVec 64 := 0
  /-- completions of commands accepted before a function-level reset are discarded (R28) -/
  discard : List Nat := []
  deriving DecidableEq, Repr

/-! ## The package and the MGC -/

/-- How far the boot has come (R43). -/
inductive BootStage where
  | off | recovery | operational
  deriving DecidableEq, Repr

/-- A trip record (R26, R46). -/
structure Trip where
  cause : Byte
  die : Byte
  reading : BitVec 16
  entry : BitVec 32
  deriving DecidableEq, Repr

/-- An event-log entry (R46). -/
structure LogEntry where
  code : BitVec 16
  result : BitVec 16
  detail : Word
  deriving DecidableEq, Repr

/-- The MGC and the standby domain (R25, R26, R42 to R46). -/
structure Mgc where
  inputPower : Bool := false
  standby : Bool := false
  mainOn : Bool := false
  boot : BootStage := .off
  throttled : Bool := false
  powerCap : Nat := Config.moduleRating
  key : Option (BitVec 384) := none
  /-- the highest counter accepted under each key, newest key first (R45) -/
  counters : List (BitVec 384 × Word) := []
  trips : List Trip := []
  log : List LogEntry := []
  staging : List Host.Cell := []
  /-- the image that a boot verifies, and the image marked for the next RESET -/
  image : List Byte := []
  marked : Option (List Byte) := none
  reports : Nat := 0
  hssUsed : Nat := 0
  responses : List (List Byte) := []
  /-- the answer to the state-changing command in execution, which goes out when it ends (R45) -/
  executing : Option (List Byte) := none
  /-- sensor readings in force, by die; an unlisted one is read from the part -/
  readings : Table (BitVec 16) := []
  deriving DecidableEq, Repr

/-- A live logical column: its physical column and the physical rows of its fifteen benches (R9). -/
structure Column where
  phys : Nat
  rows : List Nat
  deriving DecidableEq, Repr

/-- The package's units in this reset period (R9 to R17, R30). -/
structure Package where
  columns : List Column := []
  /-- fenced benches by 32 × y + x, and the slices that have left service, in the order in which they did (R85) -/
  fenced : List Nat := []
  retired : List Nat := []
  hbm : Nat := 0
  lp : Nat := 0
  cxl0 : Nat := 0
  cxl1 : Nat := 0
  cxl0Down : Bool := false
  cxl1Down : Bool := false
  hostUp : Bool := false
  hostLanes : Nat := 0
  hostRate : Nat := 0
  /-- lanes of each Trobin link that the boot has not withdrawn: 8, 4, 2 or 0 (R11) -/
  linkLanes : List Nat := []
  change : Word := 0
  published : Bool := false
  deriving DecidableEq, Repr

/-- One end of a Trobin link (R18 to R22). -/
structure TrobinLink where
  up : Bool := false
  lanes : Nat := 0
  txSeq : BitVec 12 := 0
  rxSeq : BitVec 12 := 0
  /-- flits not acknowledged, oldest first, by sequence number -/
  replay : List (BitVec 12 × BitVec 512) := []
  credits : Table Nat := []
  /-- successive retries of one sequence number -/
  retrySeq : BitVec 12 := 0
  retries : Nat := 0
  retraining : Bool := false
  /-- successive retry requests of this end for the flit that it expects (R22) -/
  asked : Nat := 0
  /-- flits that wait for a credit of their channel: channel and payload, oldest first (R18) -/
  outbox : List (Nat × BitVec 448) := []
  /-- the step instance that each control flit given to the link spoke of, oldest first: launch, step and instance; the last of
  them are those of the control flits not acknowledged (R22) -/
  told : List (Nat × Nat × Nat) := []
  /-- flits sent on the wire, newest first -/
  sent : List (BitVec 512) := []
  /-- retry requests sent, newest first, by the sequence number that each names (R21) -/
  requests : List (BitVec 12) := []
  /-- payloads delivered to the collective engine or the MGC, by channel, newest first -/
  delivered : List (Nat × BitVec 448) := []
  deriving DecidableEq, Repr

/-- An MSI-X message: function, vector, address and data (R41). -/
structure Msix where
  fn : Nat
  vector : Nat
  address : Word
  data : BitVec 32
  deriving DecidableEq, Repr

/-! ## The machine -/

/-- The whole package. Tables: functions by number, launches by the order of their starts, benches by 32 × y + x, cores
by bench × 8 + seat, hardware contexts by core × 8 + number, links by number. -/
structure State where
  agenda : List Turn
  cur : Focus
  issue : IssueResult
  fresh : Nat
  ticket : Nat
  mgc : Mgc
  pkg : Package
  fns : Table HostFn
  hostMem : List Host.Cell
  msix : List Msix
  ctl : Controller
  mem : Memory
  launches : Table Launch
  flights : List Flight
  benches : Table Bench
  cores : Table Core
  hcs : Table Hc
  links : Table TrobinLink
  deriving DecidableEq, Repr

/-- The package with no input power (log 2): every unit stands at the reset values of its record above. -/
def State.reset : State :=
  { agenda := [], cur := {}, issue := .none, fresh := 0, ticket := 0, mgc := {}, pkg := {}, fns := [], hostMem := [],
    msix := [], ctl := {}, mem := {}, launches := [], flights := [], benches := [], cores := [], hcs := [], links := [] }

end Sys2Proof.Machine
end

