-- ==== Sys2Proof/Machine/Tables.lean ====
section
/-! DEFINITION. Tables, sparse byte memories and the accessors of State: every read and write of a unit goes through here. -/

namespace Sys2Proof

/-- What a table lists for a key. -/
def Table.find {α : Type} (k : Nat) : Table α → Option α
  | [] => none
  | (j, v) :: t => if j = k then some v else Table.find k t

/-- What a table holds for a key, with the value of an unlisted key. -/
def Table.get {α : Type} (t : Table α) (k : Nat) (d : α) : α := (t.find k).getD d

/-- A table with a value put at a key, in rising order of keys. -/
def Table.put {α : Type} (k : Nat) (v : α) : Table α → Table α
  | [] => [(k, v)]
  | (j, w) :: t => if k < j then (k, v) :: (j, w) :: t else if j = k then (k, v) :: t else (j, w) :: Table.put k v t

/-- A table without a key. -/
def Table.drop {α : Type} (k : Nat) : Table α → Table α
  | [] => []
  | (j, w) :: t => if j = k then Table.drop k t else (j, w) :: Table.drop k t

/-- A table with one value changed. -/
def Table.change {α : Type} (t : Table α) (k : Nat) (d : α) (f : α → α) : Table α := t.put k (f (t.get k d))

/-- Every value of a table changed. -/
def Table.mapAll {α : Type} (t : Table α) (f : Nat → α → α) : Table α := t.map fun e => (e.1, f e.1 e.2)

/-- One byte of a sparse memory whose unlisted bytes read zero. -/
def cellRead (m : List Host.Cell) (a : Nat) : Byte :=
  match m with
  | [] => 0
  | (j, v) :: t => if j = a then v else if a < j then 0 else cellRead t a

/-- A sparse memory without an address. -/
def cellDrop (a : Nat) : List Host.Cell → List Host.Cell
  | [] => []
  | (j, w) :: t => if a < j then (j, w) :: t else if j = a then t else (j, w) :: cellDrop a t

/-- A sparse memory with a byte put at an address. -/
def cellPut (a : Nat) (v : Byte) : List Host.Cell → List Host.Cell
  | [] => [(a, v)]
  | (j, w) :: t => if a < j then (a, v) :: (j, w) :: t else if j = a then (a, v) :: t else (j, w) :: cellPut a v t

/-- Writing a byte keeps the canonical form: a zero is not listed. -/
def cellWrite (m : List Host.Cell) (a : Nat) (v : Byte) : List Host.Cell := if v = 0 then cellDrop a m else cellPut a v m

/-- The canonical form of a sparse memory: addresses rise strictly, and no listed byte is zero. -/
def cellsWf : List Host.Cell → Bool
  | [] => true
  | [(_, v)] => v != 0
  | (a, v) :: (b, w) :: t => v != 0 && decide (a < b) && cellsWf ((b, w) :: t)

/-- Bytes from an address up. -/
def cellBytes (m : List Host.Cell) (a : Nat) : Nat → List Byte
  | 0 => []
  | n + 1 => cellRead m a :: cellBytes m (a + 1) n

/-- Bytes written from an address up. -/
def cellWrites (m : List Host.Cell) (a : Nat) : List Byte → List Host.Cell
  | [] => m
  | b :: bs => cellWrites (cellWrite m a b) (a + 1) bs

/-- A little-endian number of bytes. -/
def bytesToNat : List Byte → Nat
  | [] => 0
  | b :: bs => b.toNat + 256 * bytesToNat bs

/-- The little-endian bytes of a number. -/
def natToBytes (w : Nat) : Nat → List Byte
  | 0 => []
  | n + 1 => BitVec.ofNat 8 w :: natToBytes (w / 256) n

/-- Little-endian bytes of 64-bit words. -/
def wordsToBytes (ws : List Word) : List Byte := ws.flatMap fun w => natToBytes w.toNat 8

/-- The 64-bit word at index `i` of a list of bytes. -/
def byteWord (bs : List Byte) (i : Nat) : Word := BitVec.ofNat 64 (bytesToNat ((bs.drop (8 * i)).take 8))

/-- A member of a rising list, added once. -/
def addRising (a : Nat) : List Nat → List Nat
  | [] => [a]
  | b :: t => if a < b then a :: b :: t else if a = b then b :: t else b :: addRising a t

/-- Numbers from `a` up. -/
def upFrom (a : Nat) : Nat → List Nat
  | 0 => []
  | n + 1 => a :: upFrom (a + 1) n

/-- The first index whose element a test accepts. -/
def indexWhere {α : Type} (p : α → Bool) : List α → Option Nat
  | [] => none
  | a :: t => if p a then some 0 else (indexWhere p t).map (· + 1)

/-- A list with one element changed. -/
def changeAt {α : Type} (n : Nat) (f : α → α) : List α → List α
  | [] => []
  | a :: t =>
    match n with
    | 0 => f a :: t
    | k + 1 => a :: changeAt k f t

/-- A list without one element. -/
def removeAt {α : Type} (n : Nat) : List α → List α
  | [] => []
  | a :: t =>
    match n with
    | 0 => t
    | k + 1 => a :: removeAt k t

/-- A bit field of a word as a number. -/
def field (w : Word) (lo n : Nat) : Nat := w.toNat / 2 ^ lo % 2 ^ n

/-- A word whose field from bit `lo` holds a number. -/
def place (lo n : Nat) (v : Nat) : Word := BitVec.ofNat 64 (v % 2 ^ n * 2 ^ lo)

namespace Machine

/-- Keys of cores and hardware contexts. -/
def Focus.core (f : Focus) : Nat := f.bench * 8 + f.seat
def Focus.key (f : Focus) : Nat := (f.bench * 8 + f.seat) * 8 + f.hc

def State.core (s : State) (k : Nat) : Core := s.cores.get k {}
def State.setCore (s : State) (k : Nat) (c : Core) : State := { s with cores := s.cores.put k c }
def State.bench (s : State) (b : Nat) : Bench := s.benches.get b {}
def State.setBench (s : State) (b : Nat) (x : Bench) : State := { s with benches := s.benches.put b x }
def State.hc (s : State) (k : Nat) : Hc := s.hcs.get k {}
def State.setHc (s : State) (k : Nat) (h : Hc) : State := { s with hcs := s.hcs.put k h }
def State.launch (s : State) (k : Nat) : Launch := s.launches.get k {}
/-- A launch changed; one that is over stays over. -/
def State.setLaunch (s : State) (k : Nat) (l : Launch) : State :=
  { s with launches := if (s.launches.find k).isSome then s.launches.put k l else s.launches }
def State.fn (s : State) (k : Nat) : HostFn := s.fns.get k {}
def State.setFn (s : State) (k : Nat) (f : HostFn) : State := { s with fns := s.fns.put k f }
def State.link (s : State) (k : Nat) : TrobinLink := s.links.get k {}
def State.setLink (s : State) (k : Nat) (l : TrobinLink) : State := { s with links := s.links.put k l }
def State.setIssue (s : State) (r : IssueResult) : State := { s with issue := r }
def State.setMem (s : State) (m : Memory) : State := { s with mem := m }
def State.setCtl (s : State) (c : Controller) : State := { s with ctl := c }
def State.setMgc (s : State) (m : Mgc) : State := { s with mgc := m }
def State.setPkg (s : State) (p : Package) : State := { s with pkg := p }
def State.setAgenda (s : State) (a : List Turn) : State := { s with agenda := a }
def State.setCur (s : State) (f : Focus) : State := { s with cur := f }

/-- The strand on a hardware context. -/
def State.strandAt (s : State) (f : Focus) : Option Strand := (s.hc f.key).strand

/-- The strand whose instruction this is. -/
def State.strand (s : State) : Option Strand := s.strandAt s.cur

/-- A strand put on a hardware context, or taken off it. -/
def State.setStrandAt (s : State) (f : Focus) (t : Option Strand) : State :=
  s.setHc f.key { s.hc f.key with strand := t }

/-- The present strand changed. -/
def State.setStrand (s : State) (t : Strand) : State := s.setStrandAt s.cur (some t)

/-- The present core and its bench. -/
def State.curCore (s : State) : Core := s.core s.cur.core
def State.setCurCore (s : State) (c : Core) : State := s.setCore s.cur.core c
def State.curBench (s : State) : Bench := s.bench s.cur.bench
def State.setCurBench (s : State) (b : Bench) : State := s.setBench s.cur.bench b

/-- A fresh ticket: the present count, which the state then passes. -/
def State.nextTicket (s : State) : State := { s with ticket := s.ticket + 1 }

/-- The next free value's number is used up. -/
def State.nextFresh (s : State) : State := { s with fresh := s.fresh + 1 }

/-- Contexts. -/
def State.ctx (s : State) (c : Nat) : Option Ctx := s.ctl.ctxs.find c
def State.setCtx (s : State) (c : Nat) (x : Ctx) : State :=
  s.setCtl { s.ctl with ctxs := s.ctl.ctxs.put c x }

/-- The parent of a context; the device context above every root and above what does not exist. -/
def State.parentOf (s : State) (c : Nat) : Nat :=
  match s.ctx c with
  | some x => x.parent
  | none => Config.deviceCtx

/-- `a` is a proper ancestor of `c`, walking up at most `n` levels; the device context is above every other. -/
def State.isAncestorIn (s : State) (a : Nat) : Nat → Nat → Bool
  | 0, _ => false
  | n + 1, c => c != Config.deviceCtx && (s.parentOf c == a || s.isAncestorIn a n (s.parentOf c))

/-- `a` is a proper ancestor of `c` (R47: the depth is at most 7). -/
def State.isAncestor (s : State) (a c : Nat) : Bool := s.isAncestorIn a 9 c

/-- `c` and its descendants that exist. -/
def State.subtree (s : State) (c : Nat) : List Nat :=
  (s.ctl.ctxs.map (·.1)).filter fun k => k == c || s.isAncestor c k

/-- Children of a context, in increasing identifier. -/
def State.childrenOf (s : State) (c : Nat) : List Nat :=
  (s.ctl.ctxs.filter fun e => e.2.parent == c).map (·.1)

/-- The partition of a context. -/
def State.partOf (s : State) (c : Nat) : Nat :=
  match s.ctx c with
  | some x => x.part
  | none => 32

/-- Outcomes of an operation that the present instruction makes: it goes on with a value, traps, waits with the state
unchanged, or parks. -/
inductive Res (α : Type) where
  | ok (a : α) (s : State)
  | trap (t : TrapInfo) (s : State)
  | wait (w : WaitFor)
  | park (region block : Nat) (s : State)

/-- One operation after another. -/
def Res.andThen {α β : Type} (r : Res α) (f : α → State → Res β) : Res β :=
  match r with
  | .ok a s => f a s
  | .trap t s => .trap t s
  | .wait w => .wait w
  | .park g b s => .park g b s

/-- An operation for each element in turn. -/
def Res.each {α : Type} (xs : List α) (s : State) (f : α → State → Res Unit) : Res Unit :=
  match xs with
  | [] => .ok () s
  | x :: t => (f x s).andThen fun _ s1 => Res.each t s1 f

/-- An operation for each element in turn, keeping what each gives. -/
def Res.collect {α β : Type} (xs : List α) (s : State) (f : α → State → Res β) : Res (List β) :=
  match xs with
  | [] => .ok [] s
  | x :: t => (f x s).andThen fun b s1 => (Res.collect t s1 f).andThen fun bs s2 => .ok (b :: bs) s2

/-- A trap with no more than a cause. -/
def Res.fail {α : Type} (c : Cause) (s : State) : Res α := .trap { cause := c } s

/-- A trap with ADDR set. -/
def Res.failAt {α : Type} (c : Cause) (a : Word) (s : State) : Res α := .trap { cause := c, addr := some a } s

end Machine

end Sys2Proof
end

