-- ==== Sys2Proof/Machine/Hash.lean ====
section
/-! DEFINITION. SHA-384 and HMAC-SHA-384, which R44 and R45 name; the spec does not write the functions out, and they are those of the
public standards FIPS 180-4 and RFC 2104 (log 7). -/

namespace Sys2Proof.Machine

/-- The eight working words of SHA-384. -/
structure HashWords where
  a : Word
  b : Word
  c : Word
  d : Word
  e : Word
  f : Word
  g : Word
  h : Word
  deriving DecidableEq, Repr

/-- The words before the first block. -/
def hashStart : HashWords :=
  ⟨0xCBBB9D5DC1059ED8#64, 0x629A292A367CD507#64, 0x9159015A3070DD17#64, 0x152FECD8F70E5939#64,
    0x67332667FFC00B31#64, 0x8EB44A8768581511#64, 0xDB0C2E0D64F98FA7#64, 0x47B5481DBEFA4FA4#64⟩

/-- The constants of the eighty rounds. -/
def hashRounds : List Word :=
  [0x428A2F98D728AE22#64, 0x7137449123EF65CD#64, 0xB5C0FBCFEC4D3B2F#64, 0xE9B5DBA58189DBBC#64,
    0x3956C25BF348B538#64, 0x59F111F1B605D019#64, 0x923F82A4AF194F9B#64, 0xAB1C5ED5DA6D8118#64,
    0xD807AA98A3030242#64, 0x12835B0145706FBE#64, 0x243185BE4EE4B28C#64, 0x550C7DC3D5FFB4E2#64,
    0x72BE5D74F27B896F#64, 0x80DEB1FE3B1696B1#64, 0x9BDC06A725C71235#64, 0xC19BF174CF692694#64,
    0xE49B69C19EF14AD2#64, 0xEFBE4786384F25E3#64, 0x0FC19DC68B8CD5B5#64, 0x240CA1CC77AC9C65#64] ++
  [0x2DE92C6F592B0275#64, 0x4A7484AA6EA6E483#64, 0x5CB0A9DCBD41FBD4#64, 0x76F988DA831153B5#64,
    0x983E5152EE66DFAB#64, 0xA831C66D2DB43210#64, 0xB00327C898FB213F#64, 0xBF597FC7BEEF0EE4#64,
    0xC6E00BF33DA88FC2#64, 0xD5A79147930AA725#64, 0x06CA6351E003826F#64, 0x142929670A0E6E70#64,
    0x27B70A8546D22FFC#64, 0x2E1B21385C26C926#64, 0x4D2C6DFC5AC42AED#64, 0x53380D139D95B3DF#64,
    0x650A73548BAF63DE#64, 0x766A0ABB3C77B2A8#64, 0x81C2C92E47EDAEE6#64, 0x92722C851482353B#64] ++
  [0xA2BFE8A14CF10364#64, 0xA81A664BBC423001#64, 0xC24B8B70D0F89791#64, 0xC76C51A30654BE30#64,
    0xD192E819D6EF5218#64, 0xD69906245565A910#64, 0xF40E35855771202A#64, 0x106AA07032BBD1B8#64,
    0x19A4C116B8D2D0C8#64, 0x1E376C085141AB53#64, 0x2748774CDF8EEB99#64, 0x34B0BCB5E19B48A8#64,
    0x391C0CB3C5C95A63#64, 0x4ED8AA4AE3418ACB#64, 0x5B9CCA4F7763E373#64, 0x682E6FF3D6B2B8A3#64,
    0x748F82EE5DEFB2FC#64, 0x78A5636F43172F60#64, 0x84C87814A1F0AB72#64, 0x8CC702081A6439EC#64] ++
  [0x90BEFFFA23631E28#64, 0xA4506CEBDE82BDE9#64, 0xBEF9A3F7B2C67915#64, 0xC67178F2E372532B#64,
    0xCA273ECEEA26619C#64, 0xD186B8C721C0C207#64, 0xEADA7DD6CDE0EB1E#64, 0xF57D4F7FEE6ED178#64,
    0x06F067AA72176FBA#64, 0x0A637DC5A2C898A6#64, 0x113F9804BEF90DAE#64, 0x1B710B35131C471B#64,
    0x28DB77F523047D84#64, 0x32CAAB7B40C72493#64, 0x3C9EBE0A15C9BEBC#64, 0x431D67C49C100D4C#64,
    0x4CC5D4BECB3E42B6#64, 0x597F299CFC657E2A#64, 0x5FCB6FAB3AD6FAEC#64, 0x6C44198C4A475817#64]

/-- Sums of the standard: three rotations, or two and a shift. -/
def hashSum (x : Word) (i j k : Nat) : Word := x.rotateRight i ^^^ x.rotateRight j ^^^ x.rotateRight k
def hashMix (x : Word) (i j k : Nat) : Word := x.rotateRight i ^^^ x.rotateRight j ^^^ (x >>> k)

/-- One round: a constant, and the word at the head of the schedule. -/
def hashRound (v : HashWords) (k w : Word) : HashWords :=
  let t1 := v.h + hashSum v.e 14 18 41 + ((v.e &&& v.f) ^^^ (~~~v.e &&& v.g)) + k + w
  let t2 := hashSum v.a 28 34 39 + ((v.a &&& v.b) ^^^ (v.a &&& v.c) ^^^ (v.b &&& v.c))
  { a := t1 + t2, b := v.a, c := v.b, d := v.c, e := v.d + t1, f := v.e, g := v.f, h := v.g }

/-- The schedule holds sixteen words: its first is used, and one made of four of them joins at its end. -/
def hashSchedule (ws : List Word) : List Word :=
  ws.drop 1 ++ [hashMix (ws.getD 14 0) 19 61 6 + ws.getD 9 0 + hashMix (ws.getD 1 0) 1 8 7 + ws.getD 0 0]

/-- One block of sixteen words. -/
def hashBlock (v : HashWords) (block : List Word) : HashWords :=
  let r := (hashRounds.foldl (fun (p : HashWords × List Word) k => (hashRound p.1 k (p.2.getD 0 0), hashSchedule p.2)) (v, block)).1
  { a := v.a + r.a, b := v.b + r.b, c := v.c + r.c, d := v.d + r.d, e := v.e + r.e, f := v.f + r.f, g := v.g + r.g, h := v.h + r.h }

/-- The big-endian word at an index of a list of bytes. -/
def bigWord (bs : List Byte) (i : Nat) : Word := BitVec.ofNat 64 (bytesToNat ((bs.drop (8 * i)).take 8).reverse)

/-- The big-endian bytes of a number. -/
def bigBytes (w n : Nat) : List Byte := (natToBytes w n).reverse

/-- A message with its padding: a bit 1, zeros, and its length in bits in 16 bytes. -/
def hashPadded (bs : List Byte) : List Byte :=
  bs ++ [0x80] ++ List.replicate ((239 - bs.length % 128) % 128) 0 ++ bigBytes (8 * bs.length) 16

/-- SHA-384 of a list of bytes: 48 bytes. -/
def sha384 (bs : List Byte) : List Byte :=
  let m := hashPadded bs
  let v := (List.range (m.length / 128)).foldl
    (fun v i => hashBlock v ((List.range 16).map fun j => bigWord m (16 * i + j))) hashStart
  [v.a, v.b, v.c, v.d, v.e, v.f].flatMap fun w => bigBytes w.toNat 8

/-- HMAC-SHA-384 under a key of 48 bytes; the first byte of a key and of a tag is its least significant. -/
def hmac384 (key : BitVec 384) (bs : List Byte) : BitVec 384 :=
  let k := natToBytes key.toNat 48 ++ List.replicate 80 0
  let inner := sha384 (k.map (fun b => b ^^^ 0x36#8) ++ bs)
  BitVec.ofNat 384 (bytesToNat (sha384 (k.map (fun b => b ^^^ 0x5C#8) ++ inner)))

end Sys2Proof.Machine
end

