-- ==== Sys2Proof/Machine/Rings.lean ====
section
/-! DEFINITION. What the device writes to the host: MSI-X messages, completions, fault records and quarantine entries
(R34 to R41), the records themselves (R38, R39, R65), and message headers (R192). -/

namespace Sys2Proof.Machine

/-- Cause codes (R39). -/
def causeCode : Cause → Nat
  | .illegalOp => 0x01 | .illegalOperand => 0x02 | .badTemplate => 0x03 | .badTarget => 0x04 | .lineParity => 0x05
  | .prot => 0x10 | .page => 0x11 | .range => 0x12 | .align => 0x13 | .rangeLock => 0x14 | .poison => 0x15
  | .atomicStraddle => 0x16 | .scScope => 0x17
  | .sendDenied => 0x20 | .rankInvalid => 0x21 | .capItin => 0x22
  | .watchdog => 0x30 | .gangAbort => 0x31 | .gangDeadlock => 0x32 | .sourceFaulted => 0x33
  | .sparseMeta => 0x40 | .walkerFault => 0x41 | .trapi => 0x50
  | .benchFenced => 0x60 | .portDown => 0x61 | .ctxOp => 0x70

/-- The class of a cause (R38, R39). -/
def causeClass (c : Cause) : Nat := causeCode c / 16

/-! ## Interrupts -/

/-- A function sends the MSI-X message of a vector, or marks it pending while its table entry is masked (R29, R41). -/
def sendMsix (s : State) (fn vector : Nat) : State :=
  let f := s.fn fn
  let w0 := f.msix.get (2 * vector) 0
  let w1 := f.msix.get (2 * vector + 1) 0
  if w1.getLsbD 32 then s.setFn fn { f with pending := f.pending ||| BitVec.ofNat 64 (2 ^ vector) }
  else { s with msix := s.msix ++ [{ fn := fn, vector := vector, address := w0, data := w1.setWidth 32 }] }

/-- The device information page changed: the change count rises, and the PF's vector 2 announces it (R30, R37). -/
def pageChanged (s : State) : State := sendMsix (s.setPkg { s.pkg with change := s.pkg.change + 1 }) 0 2

/-- A ring is full (R32). -/
def Ring.full (r : Ring) : Bool := (r.prod - r.cons).toNat == 2 ^ r.log2n

/-- The ring holds something. -/
def Ring.nonempty (r : Ring) : Bool := r.prod != r.cons

/-- The device may write an entry now. -/
def Ring.room (r : Ring) : Bool := r.en && !r.full

/-- Free entries. -/
def Ring.free (r : Ring) : Nat := 2 ^ r.log2n - (r.prod - r.cons).toNat

/-- The host address of the entry that PROD names. -/
def Ring.slotAt (r : Ring) (bytes : Nat) : Nat := r.base.toNat / 4096 * 4096 + r.prod.toNat % 2 ^ r.log2n * bytes

/-- One ring of a function. -/
def HostFn.ring (f : HostFn) : RingKind → Ring
  | .cpl => f.cpl | .fault => f.fr | .quar => f.qr
def HostFn.setRing (f : HostFn) (k : RingKind) (r : Ring) : HostFn :=
  match k with
  | .cpl => { f with cpl := r } | .fault => { f with fr := r } | .quar => { f with qr := r }

/-- The vector that announces a ring: of the completion ring, by its oldest entry (R41). -/
def ringVector (fn : Nat) (f : HostFn) : RingKind → Nat
  | .cpl => if f.cplKinds.head? == some true then (if fn == 0 then 4 else 3) else 0
  | .fault => 1
  | .quar => if fn == 0 then 3 else 2

/-- A ring's message is sent if interrupts are enabled and none is pending for it (R41). -/
def announce (s : State) (fn : Nat) (k : RingKind) : State :=
  let f := s.fn fn
  let r := f.ring k
  if r.ie && r.armed then sendMsix (s.setFn fn (f.setRing k { r with armed := false })) fn (ringVector fn f k)
  else s

/-- After a CONS write: a ring still nonempty sends the next message, and otherwise the next entry will (R41). -/
def rearm (s : State) (fn : Nat) (k : RingKind) : State :=
  let f := s.fn fn
  let s1 := s.setFn fn (f.setRing k { f.ring k with armed := true })
  if (f.ring k).nonempty then announce s1 fn k else s1

/-! ## Completions -/

/-- A completion is written into its ring, then announced, and its slot's busy bit is cleared (R34). -/
def writeCompletion (s : State) (fn : Nat) (c : Completion) : State :=
  let f := s.fn fn
  let r := f.cpl
  let f1 : HostFn :=
    { f with
      cpl := { r with prod := r.prod + 1 }
      cplKinds := f.cplKinds ++ [c.signal]
      busy := match c.frees with
        | some n => f.busy &&& ~~~ BitVec.ofNat 64 (2 ^ n)
        | none => f.busy }
  let s1 := { s.setFn fn f1 with hostMem := cellWrites s.hostMem (r.slotAt 16) (wordsToBytes [c.w0, c.w1]) }
  announce s1 fn .cpl

/-- A completion is posted, or held until there is space (R34). -/
def postCompletion (s : State) (fn : Nat) (c : Completion) : State :=
  let f := s.fn fn
  if f.heldCpl.isEmpty && f.cpl.room then writeCompletion s fn c
  else s.setFn fn { f with heldCpl := f.heldCpl ++ [c] }

/-- Completion word 0 (R34). -/
def completionWord (tag : BitVec 32) (status slot : Nat) : Word :=
  BitVec.ofNat 64 (tag.toNat * 2 ^ 32 + status * 2 ^ 24 + slot * 2 ^ 18)

/-- The completion of a command held in a slot, unless a function-level reset has come between (R28, R34). -/
def completeSlot (s : State) (fn slot : Nat) (tag : BitVec 32) (status : Nat) (result : Word) : State :=
  let f := s.fn fn
  if f.discard.contains slot then
    s.setFn fn { f with discard := f.discard.filter (· != slot), busy := f.busy &&& ~~~ BitVec.ofNat 64 (2 ^ slot) }
  else postCompletion s fn { w0 := completionWord tag status slot, w1 := result, frees := some slot }

/-! ## Choosing a ring -/

/-- The function whose rings serve a context: its VF, or that of the nearest ancestor that has one, or the PF (R35). -/
def fnForIn (s : State) : Nat → Nat → Nat
  | 0, _ => 0
  | n + 1, c =>
    match s.ctx c with
    | some x => if x.vf != 0 then x.vf else fnForIn s n x.parent
    | none => 0

def fnFor (s : State) (c : Nat) : Nat := fnForIn s 9 c

/-- `Covers(p, ia)` (R65). -/
def State.covers (s : State) (p ia : Nat) : Bool :=
  s.ctl.ranges.any fun e => e.2.owner == p && decide (e.2.base ≤ ia / 65536) && decide (ia / 65536 ≤ e.2.limit)

/-- The ancestors of R65's RANGE step. -/
def rangeRecipientIn (s : State) (ia : Nat) : Nat → Nat → Nat
  | 0, _ => Config.deviceCtx
  | n + 1, p =>
    if p == Config.deviceCtx || s.covers p ia then p else rangeRecipientIn s ia n (s.parentOf p)

/-- The claims of R65. -/
def claimRecipientIn (s : State) (cls : Nat) : Nat → Nat → Nat
  | 0, _ => Config.deviceCtx
  | n + 1, k =>
    match s.ctx k with
    | some x => if x.claim.getLsbD cls then k else claimRecipientIn s cls n x.parent
    | none => Config.deviceCtx

/-- The partition root of a context. -/
def rootOfIn (s : State) : Nat → Nat → Nat
  | 0, c => c
  | n + 1, c => if s.parentOf c == Config.deviceCtx then c else rootOfIn s n (s.parentOf c)

def State.rootOf (s : State) (c : Nat) : Nat := rootOfIn s 9 c

/-- The recipient of a record (R65). -/
def recipientOf (s : State) (t : TrapInfo) (c : Nat) : Nat :=
  match t.cause, t.regionOwner, t.searched with
  | .poison, _, _ => if t.own then c else claimRecipientIn s (causeClass t.cause) 9 c
  | .page, some o, _ => o
  | .prot, some o, _ => o
  | .range, _, some own => rangeRecipientIn s t.detail.toNat 9 (s.parentOf own)
  | .benchFenced, _, _ => s.rootOf c
  | cause, _, _ => claimRecipientIn s (causeClass cause) 9 c

/-! ## Fault records -/

/-- Where a record's strand stood (R38, word 4). -/
def placementWord (recipient rank : Nat) (f : Focus) : Word :=
  place 52 12 recipient ||| place 32 12 rank ||| place 16 5 (f.bench % 32) ||| place 8 4 (f.bench / 32)
    ||| place 4 3 f.hc ||| place 0 3 f.seat

/-- The flags of a record (R38). -/
structure RecFlags where
  requeued : Bool := false
  sibling : Bool := false
  item : Bool := false
  failed : Bool := false
  expiry : Nat := 0
  deriving DecidableEq, Repr

/-- A fault record (R38): of context `c`, for the recipient, with the message identifier or all ones, the PC or all
ones, and the placement. Word 3 has 56 bits, and shows the low 56 of an address above them (log 80). Word 6, the image reference, is
zero in every record (log 114). -/
def mkRecord (s : State) (key : Nat) (t : TrapInfo) (c recipient : Nat) (fl : RecFlags) (msgId pc place4 : Word) :
    Record :=
  let depth := match s.ctx c with
    | some x => x.depth
    | none => 0
  { key := key
    w0 := place 56 8 (causeCode t.cause) ||| place 52 4 (causeClass t.cause) ||| place 40 12 c ||| place 37 3 depth
      ||| place 31 1 fl.requeued.toNat ||| place 30 1 fl.sibling.toNat ||| place 29 1 (recipient != c).toNat
      ||| place 28 1 fl.item.toNat ||| place 27 1 fl.failed.toNat ||| place 26 1 t.addr.isSome.toNat
      ||| place 22 4 fl.expiry
    w1 := msgId, w2 := pc, w3 := place 0 56 (t.addr.getD 0).toNat, w4 := place4, w5 := t.detail }

/-- A record is written: 64 bytes, then FR_PROD, then vector 1 (R35, R37). -/
def writeRecord (s : State) (fn : Nat) (r : Record) : State :=
  let f := s.fn fn
  let g := f.fr
  let s1 := s.setFn fn { f with fr := { g with prod := g.prod + 1, seq := g.seq + 1 }, frKeys := f.frKeys ++ [r.key] }
  let s2 := { s1 with
    hostMem := cellWrites s1.hostMem (g.slotAt 64)
      (wordsToBytes [r.w0, r.w1, r.w2, r.w3, r.w4, r.w5, r.w6, g.seq]) }
  announce s2 fn .fault

/-- A record is delivered to its ring, or held on chip with FN_STATUS bit 0 set while the ring is full or disabled; a ring that
becomes held full is announced (R31, R35, R41). -/
def deliverRecord (s : State) (fn : Nat) (r : Record) : State :=
  let f := s.fn fn
  if f.heldFr.isEmpty && f.fr.room then writeRecord s fn r
  else
    let s1 := s.setFn fn { f with heldFr := f.heldFr ++ [r], status := f.status ||| 1 }
    if f.heldFr.isEmpty then announce s1 fn .fault else s1

/-- All ones: no message, or no instruction (R38). -/
def noId : Word := BitVec.allOnes 64

/-- A record of the device for a context that no strand's instruction gave rise to: words 1 and 2 all ones. -/
def postDeviceRecord (s : State) (t : TrapInfo) (c : Nat) (fl : RecFlags) : State × Nat :=
  let recipient := recipientOf s t c
  let key := s.ticket
  (deliverRecord s.nextTicket (fnFor s recipient)
    (mkRecord s key t c recipient fl noId noId (place 52 12 recipient)), key)

/-- A class-6 record to each root the event touches and to the PF, with the root as faulting context (R39). The PF has one record:
it names the first root touched, or the device context where there is none (log 89). -/
def postClass6 (s : State) (t : TrapInfo) (roots : List Nat) (place4 : Word) : State :=
  let one (s : State) (c recipient fn : Nat) : State :=
    deliverRecord s.nextTicket fn
      (mkRecord s s.ticket t c recipient {} noId noId (place 52 12 recipient ||| place4))
  let s1 := roots.foldl (fun s r => one s r r (fnFor s r)) s
  one s1 (roots.head?.getD Config.deviceCtx) Config.deviceCtx 0

/-! ## Messages and quarantine -/

/-- A message header (R192). -/
def headerWord (m : Message) : Word :=
  place 56 8 m.hidx ||| place 52 4 m.cls ||| place 48 4 m.plen ||| place 36 12 m.dest ||| place 34 1 m.defer.toNat
    ||| place 33 1 m.req.toNat ||| place 32 1 m.origin.toNat ||| place 0 32 m.seq.toNat

/-- A message identifier (R194). -/
def msgIdWord (m : Message) : Word := place 32 12 m.sender ||| place 0 32 m.seq.toNat

/-- A body as it would have been delivered (R40). -/
def messageBody (m : Message) : List Byte :=
  match m.capsule with
  | some c => wordsToBytes ([headerWord m, c.header] ++ c.entries) ++ c.tile
  | none => wordsToBytes [headerWord m] ++ m.payload.take (32 * m.plen)

/-- The kind of a quarantined item (R40). -/
def quarKind (m : Message) : Nat := if m.cls == 1 then 2 else if m.cls == 2 then 3 else 1

/-- The capsule id and the cursor of a capsule, as word 5 of a record and word 6 of an entry carry them (R38, R40, R207). -/
def capsuleWord (c : Capsule) : Word := place 40 24 (field c.header 40 24) ||| place 0 6 (field c.header 16 6)

/-- A quarantine item for a message of a launch: status 1 IN_TRANSIT, 2 DESTINATION_REVOKED, 3 OWNER_KILLED (R40). -/
def quarItem (s : State) (launch : Nat) (m : Message) (status : Nat) (op : Option Nat) : QuarItem :=
  let l := s.launch launch
  let r := l.ranks.get m.dest {}
  let cap := match m.capsule with
    | some c => capsuleWord c
    | none => 0
  { w0 := place 56 8 (quarKind m) ||| place 48 8 status ||| place 36 12 m.ctx
    w1 := msgIdWord m, w2 := headerWord m
    w5 := placementWord 0 m.dest { bench := 32 * r.bY + r.bx, seat := r.seat, hc := 0 }
    w6 := cap, body := messageBody m, op := op }

/-- Where a body of a length goes in the body area, with the first byte of its space, or none while there is no room
(R40). The next place and the bodies that stand there outlive a disabled ring and a new QB_BASE or QB_SIZE (log 81). -/
def placeBody (f : HostFn) (len : Nat) : Option (Nat × Nat) :=
  let size := f.qbSize.toNat
  let next := (f.bodyNext + 63) / 64 * 64
  match f.bodies.head? with
  | none => if size < len then none else if next + len ≤ size then some (next, next) else some (0, next)
  | some (oldest, _) =>
    if oldest < f.bodyNext then
      if next + len ≤ size then some (next, next)
      else if len ≤ oldest then some (0, next) else none
    else if next + len ≤ oldest then some (next, next) else none

/-- A quarantine item is written, if there is room for its entry and its body (R40). -/
def tryWriteQuar (s : State) (fn : Nat) (q : QuarItem) : Option State :=
  let f := s.fn fn
  if !f.qr.room then none
  else
    match placeBody f q.body.length with
    | none => none
    | some (at_, start) =>
      let g := f.qr
      let hostBody := f.qbBase.toNat / 4096 * 4096 + at_
      let words : List Word :=
        [q.w0, q.w1, q.w2, BitVec.ofNat 64 at_, BitVec.ofNat 64 q.body.length, q.w5, q.w6, g.seq]
      let s1 := s.setFn fn
        { f with
          qr := { g with prod := g.prod + 1, seq := g.seq + 1 }
          bodies := f.bodies ++ [(start, at_ + q.body.length)], bodyNext := at_ + q.body.length }
      let s2 := { s1 with
        hostMem := cellWrites (cellWrites s1.hostMem hostBody q.body) (g.slotAt 64) (wordsToBytes words) }
      some (announce s2 fn .quar)

/-- A quarantine item is written, or held on chip in order with FN_STATUS bit 1 set (R40). -/
def postQuar (s : State) (owner : Nat) (q : QuarItem) : State :=
  let fn := fnFor s owner
  let f := s.fn fn
  let held := s.setFn fn { f with heldQr := f.heldQr ++ [q], status := f.status ||| 2 }
  if f.heldQr.isEmpty then (tryWriteQuar s fn q).getD held else held

/-- A message is placed in quarantine. -/
def quarantine (s : State) (launch : Nat) (m : Message) (status : Nat) (op : Option Nat) : State :=
  postQuar s m.ctx (quarItem s launch m status op)

/-- Items of an operation that are not yet written. -/
def unwrittenItems (s : State) (op : Nat) : Nat :=
  s.fns.foldl (fun n e => n + (e.2.heldQr.filter fun q => q.op == some op).length) 0

end Sys2Proof.Machine
end

