-- ==== Sys2Proof/Machine/Budgets.lean ====
section
/-! DEFINITION. Issue and bandwidth tokens: what a context holds and spends on a bench or a port, loans between siblings, and the
slice that homes a line (R59 to R61, R84, R87). -/

namespace Sys2Proof.Machine

/-- A bench of the logical mesh in service. -/
def benchLive (p : Package) (b : Nat) : Bool :=
  decide (b % 32 < p.columns.length) && decide (b / 32 < Config.rows) && !p.fenced.contains b

/-- A line's home after slices have left service in turn: the share of each one is spread over those that remain (R85). -/
def homeAfter (line : Nat) : List Nat → Nat → List Nat → Nat → Nat
  | [], _, _, home => home
  | b :: rest, round, live, home =>
    let left := live.filter (· != b)
    homeAfter line rest (round + 1) left
      (if home = b then left.getD (Config.homeSlice (line + round * 2 ^ 64) % left.length) 0 else home)

/-- The slice that homes a line: by the hash chosen at reset over the benches live then, and after each slice that has left
service since by a new place for its share (R84, R85, log 12). -/
def homeOf (p : Package) (line : Nat) : Nat :=
  let live := (List.range 512).filter fun b => decide (b % 32 < p.columns.length) && decide (b / 32 < Config.rows)
  homeAfter line p.retired 1 live (live.getD (Config.homeSlice line % live.length) 0)

/-- What a context has spent on a bench or a port in the present period. -/
def spendKey (port : Bool) (unit ctx : Nat) : Nat := (port.toNat * 1024 + unit) * 4096 + ctx
def State.spending (s : State) (port : Bool) (unit ctx : Nat) : Spending := s.ctl.spending.get (spendKey port unit ctx) {}
def State.setSpending (s : State) (port : Bool) (unit ctx : Nat) (x : Spending) : State :=
  s.setCtl { s.ctl with spending := s.ctl.spending.put (spendKey port unit ctx) x }

/-- A context's own tokens: what it holds less what it has carved out (R60). -/
def heldTokens (s : State) (port : Bool) (ctx : Nat) : Nat :=
  match s.ctx ctx with
  | some c => if port then c.bw - c.bwCh else c.issue - c.issueCh
  | none => 0

/-- Its own tokens on a unit in the present period, with credits, deductions and a revocation still to come (R59, R61). -/
def ownTokens (s : State) (port : Bool) (unit ctx : Nat) : Nat :=
  let x := s.spending port unit ctx
  ((heldTokens s port ctx : Int) + x.late).toNat + x.credit - x.deduct

/-- A context's debt on a unit. -/
def debtOn (s : State) (port : Bool) (unit ctx : Nat) : Nat :=
  s.ctl.loans.foldl (fun n l => if l.port == port && l.unit == unit && l.borrower == ctx then n + l.amount else n) 0

/-- A context has an own token left on a unit. -/
def hasToken (s : State) (port : Bool) (unit ctx : Nat) : Bool :=
  decide ((s.spending port unit ctx).spent + (s.spending port unit ctx).lent < ownTokens s port unit ctx)

/-- One token borrowed from the first sibling that has one left, unless the loan records of the parent are full (R61). -/
def borrowToken (s : State) (port : Bool) (unit ctx : Nat) : Option State :=
  let parent := s.parentOf ctx
  let here := s.ctl.loans.filter fun l => l.port == port && l.unit == unit && l.parent == parent
  let known (lender : Nat) : Bool := here.any fun l => l.borrower == ctx && l.lender == lender
  if parent == Config.deviceCtx || hasToken s port unit ctx || decide (heldTokens s port ctx ≤ debtOn s port unit ctx)
      || decide (16 ≤ here.length) then none
  else
    match (s.childrenOf parent).find? fun c => c != ctx && hasToken s port unit c with
    | none => none
    | some lender =>
      let x := s.spending port unit lender
      let s1 := s.setSpending port unit lender { x with lent := x.lent + 1 }
      let mine (l : Loan) : Bool :=
        l.port == port && l.unit == unit && l.parent == parent && l.borrower == ctx && l.lender == lender
      let loans :=
        if known lender then s1.ctl.loans.map fun l => if mine l then { l with amount := l.amount + 1 } else l
        else s1.ctl.loans ++
          [{ port := port, unit := unit, parent := parent, borrower := ctx, lender := lender, amount := 1 }]
      some (s1.setCtl { s1.ctl with loans := loans })

end Sys2Proof.Machine
end

