-- ==== Sys2Proof/Machine/Float.lean ====
section
/-! DEFINITION. Number formats and arithmetic (R208 to R225): values are decoded to exact dyadic numbers, the operation
is exact, and one rounding narrows the result to the destination format. A quotient or root that is not dyadic is kept to
enough places with a sticky last bit, which rounds as the exact value does. -/

namespace Sys2Proof.Machine

/-- A floating-point format (R208). -/
structure Fmt where
  /-- exponent and fraction bits, and the bias -/
  eb : Nat
  fb : Nat
  bias : Nat
  deriving DecidableEq, Repr

def fmtF64 : Fmt := ⟨11, 52, 1023⟩
def fmtF32 : Fmt := ⟨8, 23, 127⟩
def fmtF16 : Fmt := ⟨5, 10, 15⟩
def fmtBf16 : Fmt := ⟨8, 7, 127⟩
def fmtE4m3 : Fmt := ⟨4, 3, 7⟩
def fmtE5m2 : Fmt := ⟨5, 2, 15⟩
def fmtF6e2 : Fmt := ⟨2, 3, 1⟩

/-- The format of a floating TYPE. -/
def fmtOf : Ty → Option Fmt
  | .f64 => some fmtF64 | .f32 => some fmtF32 | .f16 => some fmtF16 | .bf16 => some fmtBf16
  | .e4m3 => some fmtE4m3 | .e5m2 => some fmtE5m2 | .f6e2 => some fmtF6e2
  | _ => none

/-- Bits of a format. -/
def Fmt.bits (f : Fmt) : Nat := 1 + f.eb + f.fb

/-- What a code stands for: a NaN, an infinity, or (−1)^neg × m × 2^e. -/
inductive Fv where
  | nan (signalling : Bool)
  | inf (neg : Bool)
  | fin (neg : Bool) (m : Nat) (e : Int)
  deriving DecidableEq, Repr

/-- The flags of R215. -/
structure Flags where
  nv : Bool := false
  dz : Bool := false
  ovf : Bool := false
  uf : Bool := false
  nx : Bool := false
  deriving DecidableEq, Repr

/-- Both sets of flags. -/
def Flags.or (a b : Flags) : Flags :=
  { nv := a.nv || b.nv, dz := a.dz || b.dz, ovf := a.ovf || b.ovf, uf := a.uf || b.uf, nx := a.nx || b.nx }

/-- The flags in the FCR's bits [12:8] (R215). -/
def Flags.bits (f : Flags) : Word :=
  (if f.nv then 0x1000 else 0) ||| (if f.dz then 0x800 else 0) ||| (if f.ovf then 0x400 else 0)
    ||| (if f.uf then 0x200 else 0) ||| (if f.nx then 0x100 else 0)

/-- The controls of an operation (R216). -/
structure FpCtl where
  rm : Rnd := .rne
  ftz : Bool := false
  daz : Bool := false
  satn : Bool := true
  deriving DecidableEq, Repr

/-- The rounding mode in force in an FCR (R215). -/
def fcrMode (fcr : Word) : Rnd :=
  match (fcr.extractLsb' 1 2).toNat with
  | 0 => .rne | 1 => .rtz | 2 => .rup | _ => .rdn

/-- The controls of an instruction that names a rounding modifier (R216). -/
def fpCtl (fcr : Word) (r : Rnd) : FpCtl :=
  { rm := if r = .dyn then fcrMode fcr else r, ftz := fcr.getLsbD 3, daz := fcr.getLsbD 4, satn := fcr.getLsbD 5 }

/-- The canonical NaN of a format (R208); F6E2 has none, and a NaN becomes +0 there (R209). -/
def canonicalNan (f : Fmt) : Nat :=
  if f = fmtE4m3 then 0x7F
  else if f = fmtF6e2 then 0
  else (2 ^ f.eb - 1) * 2 ^ f.fb + 2 ^ (f.fb - 1)

/-- The code of the largest finite value (R208). -/
def maxCode (f : Fmt) : Nat :=
  if f = fmtE4m3 then 0x7E
  else if f = fmtF6e2 then 0x1F
  else (2 ^ f.eb - 1) * 2 ^ f.fb - 1

/-- The code of +infinity in a format that has it. -/
def infCode (f : Fmt) : Nat := (2 ^ f.eb - 1) * 2 ^ f.fb

/-- The sign bit of a code. -/
def signBit (f : Fmt) (neg : Bool) : Nat := if neg then 2 ^ (f.eb + f.fb) else 0

/-- Decoding a code (R208, R209). -/
def decodeFp (f : Fmt) (w : Nat) : Fv :=
  let frac := w % 2 ^ f.fb
  let ex := w / 2 ^ f.fb % 2 ^ f.eb
  let neg := w / 2 ^ (f.eb + f.fb) % 2 == 1
  let top := 2 ^ f.eb - 1
  if ex == 0 then .fin neg frac (1 - (f.bias : Int) - f.fb)
  else if ex == top && f = fmtE4m3 && frac == 7 then .nan false
  else if ex == top && !(f = fmtE4m3 || f = fmtF6e2) then
    if frac == 0 then .inf neg
    else .nan (!(f = fmtE5m2) && frac < 2 ^ (f.fb - 1))
  else .fin neg (2 ^ f.fb + frac) ((ex : Int) - f.bias - f.fb)

/-- Bit length of a number. -/
def bitLen (m : Nat) : Nat := if m = 0 then 0 else m.log2 + 1

/-- A subnormal of a format. -/
def isSubnormal (f : Fmt) (w : Nat) : Bool := w / 2 ^ f.fb % 2 ^ f.eb == 0 && w % 2 ^ f.fb != 0

/-- Reading an operand under DAZ (R219); F6E2 subnormals are never flushed. -/
def readFp (f : Fmt) (daz : Bool) (w : Nat) : Fv :=
  match decodeFp f w with
  | .fin neg m e => if daz && isSubnormal f w && !(f = fmtF6e2) then .fin neg 0 e else .fin neg m e
  | v => v

/-- m × 2^e as a multiple of 2^q, rounded by a mode, and whether that was inexact (R218). -/
def roundAt (rm : Rnd) (neg : Bool) (m : Nat) (e q : Int) : Nat × Bool :=
  if q ≤ e then (m * 2 ^ (e - q).toNat, false)
  else
    let s := (q - e).toNat
    let hi := m / 2 ^ s
    let rem := m % 2 ^ s
    let half := 2 ^ (s - 1)
    let up : Bool :=
      match rm with
      | .rtz => false
      | .rup => rem != 0 && !neg
      | .rdn => rem != 0 && neg
      | _ => decide (half < rem) || (rem == half && hi % 2 == 1)
    (if up then hi + 1 else hi, rem != 0)

/-- m1 × 2^e1 > m2 × 2^e2. -/
def dyadicGt (m1 : Nat) (e1 : Int) (m2 : Nat) (e2 : Int) : Bool :=
  let e := min e1 e2
  decide (m2 * 2 ^ (e2 - e).toNat < m1 * 2 ^ (e1 - e).toNat)

/-- What a result past the largest finite value becomes (R218, R220, R209). -/
def overflowCode (f : Fmt) (c : FpCtl) (neg : Bool) : Nat :=
  let big := signBit f neg + maxCode f
  if f = fmtF6e2 then big
  else if f = fmtE4m3 then if c.satn then big else signBit f neg + 0x7F
  else if f = fmtE5m2 && c.satn then big
  else
    match c.rm with
    | .rtz => big
    | .rup => if neg then big else infCode f
    | .rdn => if neg then signBit f neg + infCode f else big
    | _ => signBit f neg + infCode f

/-- Rounding an exact finite value once to a format, with its flags (R218, R219, R220). -/
def roundFin (f : Fmt) (c : FpCtl) (neg : Bool) (m : Nat) (e : Int) : Nat × Flags :=
  if m = 0 then (signBit f neg, {})
  else
    let p := f.fb + 1
    let q := e + bitLen m - p
    let r := roundAt c.rm neg m e q
    let top : Int := bitLen r.1 + q
    if top ≤ 1 - (f.bias : Int) then
      if c.ftz && !(f = fmtF6e2) then (signBit f neg, { uf := true, nx := true })
      else
        let t := roundAt c.rm neg m e (1 - (f.bias : Int) - f.fb)
        (signBit f neg + t.1, { uf := t.2, nx := t.2 })
    else
      match decodeFp f (maxCode f) with
      | .fin _ mm me =>
        if dyadicGt r.1 q mm me then (overflowCode f c neg, { ovf := true, nx := true })
        else
          let len := bitLen r.1
          let sig := if len ≤ p then r.1 * 2 ^ (p - len) else r.1 / 2 ^ (len - p)
          let ex := (top - 1 + f.bias).toNat
          (signBit f neg + ex * 2 ^ f.fb + (sig - 2 ^ f.fb), { nx := r.2 })
      | _ => (0, {})

/-- Rounding any value to a format: an arithmetic result or a conversion (R218 to R221, R209). -/
def roundFp (f : Fmt) (c : FpCtl) (v : Fv) : Nat × Flags :=
  match v with
  | .fin neg m e => roundFin f c neg m e
  | .inf neg =>
    if f = fmtF6e2 || ((f = fmtE4m3 || f = fmtE5m2) && c.satn) then (signBit f neg + maxCode f, {})
    else if f = fmtE4m3 then (canonicalNan f, { nv := true })
    else (signBit f neg + infCode f, {})
  | .nan sig => (canonicalNan f, { nv := sig || f = fmtF6e2 })

/-- A quiet NaN result; the flag of an invalid operation goes beside it. -/
def quietNan : Fv := .nan false

/-- A value is a signalling NaN. -/
def Fv.signals : Fv → Bool
  | .nan s => s
  | _ => false

/-- A value is a NaN. -/
def Fv.isNan : Fv → Bool
  | .nan _ => true
  | _ => false

/-- The negation of a value that is no NaN. -/
def Fv.negate : Fv → Fv
  | .nan s => .nan s
  | .inf n => .inf (!n)
  | .fin n m e => .fin (!n) m e

/-- The sign of an exact zero sum (R218). -/
def zeroSumSign (rm : Rnd) (n1 n2 : Bool) : Bool := if n1 == n2 then n1 else decide (rm = .rdn)

/-- Exact sum (R218, R221). -/
def addFv (rm : Rnd) (a b : Fv) : Fv × Flags :=
  let nv : Flags := { nv := a.signals || b.signals }
  match a, b with
  | .nan _, _ => (quietNan, nv)
  | _, .nan _ => (quietNan, nv)
  | .inf n1, .inf n2 => if n1 == n2 then (.inf n1, {}) else (quietNan, { nv := true })
  | .inf n, .fin _ _ _ => (.inf n, {})
  | .fin _ _ _, .inf n => (.inf n, {})
  | .fin n1 m1 e1, .fin n2 m2 e2 =>
    let e := min e1 e2
    let x1 : Nat := m1 * 2 ^ (e1 - e).toNat
    let x2 : Nat := m2 * 2 ^ (e2 - e).toNat
    let sum : Int := (if n1 then -(x1 : Int) else x1) + (if n2 then -(x2 : Int) else x2)
    if sum = 0 then (.fin (zeroSumSign rm n1 n2) 0 e, {}) else (.fin (decide (sum < 0)) sum.natAbs e, {})

/-- Exact product (R221). -/
def mulFv (a b : Fv) : Fv × Flags :=
  let nv : Flags := { nv := a.signals || b.signals }
  match a, b with
  | .nan _, _ => (quietNan, nv)
  | _, .nan _ => (quietNan, nv)
  | .inf n1, .inf n2 => (.inf (n1 != n2), {})
  | .inf n1, .fin n2 m _ => if m = 0 then (quietNan, { nv := true }) else (.inf (n1 != n2), {})
  | .fin n1 m _, .inf n2 => if m = 0 then (quietNan, { nv := true }) else (.inf (n1 != n2), {})
  | .fin n1 m1 e1, .fin n2 m2 e2 => (.fin (n1 != n2) (m1 * m2) (e1 + e2), {})

/-- Quotient of two positive numbers with a sticky last bit: m and e. -/
def divNat (m1 : Nat) (e1 : Int) (m2 : Nat) (e2 : Int) : Nat × Int :=
  let k := 70 + bitLen m2 - bitLen m1
  let num := m1 * 2 ^ k
  (2 * (num / m2) + (if num % m2 = 0 then 0 else 1), e1 - e2 - k - 1)

/-- Quotient (R221). -/
def divFv (a b : Fv) : Fv × Flags :=
  let nv : Flags := { nv := a.signals || b.signals }
  match a, b with
  | .nan _, _ => (quietNan, nv)
  | _, .nan _ => (quietNan, nv)
  | .inf _, .inf _ => (quietNan, { nv := true })
  | .inf n1, .fin n2 _ _ => (.inf (n1 != n2), {})
  | .fin n1 _ e, .inf n2 => (.fin (n1 != n2) 0 e, {})
  | .fin n1 m1 e1, .fin n2 m2 e2 =>
    if m2 = 0 then
      if m1 = 0 then (quietNan, { nv := true }) else (.inf (n1 != n2), { dz := true })
    else if m1 = 0 then (.fin (n1 != n2) 0 e1, {})
    else
      let r := divNat m1 e1 m2 e2
      (.fin (n1 != n2) r.1 r.2, {})

/-- The integer square root, one bit at a time from bit `i` down. -/
def isqrtFrom (n : Nat) : Nat → Nat → Nat
  | 0, r => if (r + 1) * (r + 1) ≤ n then r + 1 else r
  | i + 1, r =>
    let t := r + 2 ^ (i + 1)
    isqrtFrom n i (if t * t ≤ n then t else r)

/-- The integer square root. -/
def isqrt (n : Nat) : Nat := isqrtFrom n (bitLen n / 2 + 1) 0

/-- Square root (R221). -/
def sqrtFv (a : Fv) : Fv × Flags :=
  match a with
  | .nan s => (quietNan, { nv := s })
  | .inf n => if n then (quietNan, { nv := true }) else (.inf false, {})
  | .fin n m e =>
    if m = 0 then (.fin n 0 e, {})
    else if n then (quietNan, { nv := true })
    else
      let k : Nat := 140 + (if (e - 140) % 2 = 0 then 0 else 1)
      let x := m * 2 ^ k
      let r := isqrt x
      (.fin false (2 * r + (if r * r = x then 0 else 1)) ((e - k) / 2 - 1), {})

/-- The order of two values, none when a NaN is among them; the zeros are equal (R208, R221). -/
def compareFv (a b : Fv) : Option Ordering :=
  match a, b with
  | .nan _, _ => none
  | _, .nan _ => none
  | .inf n1, .inf n2 => some (if n1 == n2 then .eq else if n1 then .lt else .gt)
  | .inf n, .fin _ _ _ => some (if n then .lt else .gt)
  | .fin _ _ _, .inf n => some (if n then .gt else .lt)
  | .fin n1 m1 e1, .fin n2 m2 e2 =>
    let e := min e1 e2
    let x1 : Int := (m1 * 2 ^ (e1 - e).toNat : Nat)
    let x2 : Int := (m2 * 2 ^ (e2 - e).toNat : Nat)
    some (compare (if n1 then -x1 else x1) (if n2 then -x2 else x2))

/-- A value's sign counts as negative: orders −0 before +0 in minimum and maximum (R221). -/
def Fv.neg : Fv → Bool
  | .nan _ => false
  | .inf n => n
  | .fin n _ _ => n

/-- `a` is below `b` for minimumNumber, with −0 below +0. -/
def belowFv (a b : Fv) : Bool :=
  match compareFv a b with
  | some .lt => true
  | some .eq => a.neg && !b.neg
  | _ => false

/-- The code of an operand as a minimum or maximum returns it: a subnormal read as zero under DAZ (R219). -/
def readCode (f : Fmt) (daz : Bool) (w : Nat) : Nat :=
  if daz && isSubnormal f w then signBit f (w / 2 ^ (f.eb + f.fb) % 2 == 1) else w

/-- minimumNumber, or maximumNumber, on codes (R221). -/
def minMaxFp (f : Fmt) (isMax daz : Bool) (a b : Nat) : Nat × Flags :=
  let x := readFp f daz a
  let y := readFp f daz b
  let nv : Flags := { nv := x.signals || y.signals }
  if x.isNan && y.isNan then (canonicalNan f, nv)
  else if x.isNan then (readCode f daz b, nv)
  else if y.isNan then (readCode f daz a, nv)
  else
    let first := if isMax then belowFv y x else belowFv x y
    (if first then readCode f daz a else readCode f daz b, nv)

/-- Binary operations on codes of one format, rounded once (R218). -/
def fpAdd (f : Fmt) (c : FpCtl) (a b : Nat) : Nat × Flags :=
  let r := addFv c.rm (readFp f c.daz a) (readFp f c.daz b)
  let w := roundFp f c r.1
  (w.1, r.2.or w.2)

def fpSub (f : Fmt) (c : FpCtl) (a b : Nat) : Nat × Flags :=
  let r := addFv c.rm (readFp f c.daz a) (readFp f c.daz b).negate
  let w := roundFp f c r.1
  (w.1, r.2.or w.2)

def fpMul (f : Fmt) (c : FpCtl) (a b : Nat) : Nat × Flags :=
  let r := mulFv (readFp f c.daz a) (readFp f c.daz b)
  let w := roundFp f c r.1
  (w.1, r.2.or w.2)

/-- a × b + x on values, exactly (R218). -/
def fmaFv (rm : Rnd) (a b x : Fv) : Fv × Flags :=
  let p := mulFv a b
  let r := addFv rm p.1 x
  (r.1, p.2.or r.2)

def fpFma (f : Fmt) (c : FpCtl) (a b x : Nat) : Nat × Flags :=
  let r := fmaFv c.rm (readFp f c.daz a) (readFp f c.daz b) (readFp f c.daz x)
  let w := roundFp f c r.1
  (w.1, r.2.or w.2)

def fpDiv (f : Fmt) (c : FpCtl) (a b : Nat) : Nat × Flags :=
  let r := divFv (readFp f c.daz a) (readFp f c.daz b)
  let w := roundFp f c r.1
  (w.1, r.2.or w.2)

def fpSqrt (f : Fmt) (c : FpCtl) (a : Nat) : Nat × Flags :=
  let r := sqrtFv (readFp f c.daz a)
  let w := roundFp f c r.1
  (w.1, r.2.or w.2)

/-- A conversion between floating formats (R218, R220, R209). From F6E2 to E5M2, which has fewer fraction bits, it rounds by the
captured mode, with NX (log 106). -/
def fpConvert (src dst : Fmt) (c : FpCtl) (a : Nat) : Nat × Flags := roundFp dst c (readFp src (c.daz && dst != fmtF6e2) a)

/-- An integer as a value. -/
def fvOfInt (x : Int) : Fv := .fin (decide (x < 0)) x.natAbs 0

/-- A conversion from an integer (R222). -/
def fpOfInt (dst : Fmt) (c : FpCtl) (x : Int) : Nat × Flags := roundFp dst c (fvOfInt x)

/-- A number kept within bounds. -/
def clampInt (lo hi x : Int) : Int := if x < lo then lo else if hi < x then hi else x

/-- A conversion to an integer between `lo` and `hi` (R222). -/
def intOfFp (src : Fmt) (c : FpCtl) (lo hi : Int) (a : Nat) : Int × Flags :=
  match readFp src c.daz a with
  | .nan _ => (0, { nv := true })
  | .inf n => (if n then lo else hi, { nv := true })
  | .fin n m e =>
    let r := roundAt c.rm n m e 0
    let x : Int := if n then -(r.1 : Int) else r.1
    if x < lo || hi < x then (clampInt lo hi x, { nv := true }) else (x, { nx := r.2 })

/-- The conditions of a floating comparison (R221): ordered equal, unequal, less, less or equal, greater, greater or
equal, ordered, unordered. -/
inductive FpCond where
  | eq | ne | lt | le | gt | ge | ord | uno
  deriving DecidableEq, Repr

/-- A comparison's outcome and its NV flag (R221). -/
def fpCompare (cc : FpCond) (a b : Fv) : Bool × Flags :=
  let o := compareFv a b
  let nanIn := a.isNan || b.isNan
  let sig := a.signals || b.signals
  match cc with
  | .eq => (o == some .eq, { nv := sig })
  | .ne => (o != some .eq, { nv := sig })
  | .lt => (o == some .lt, { nv := nanIn })
  | .le => (o == some .lt || o == some .eq, { nv := nanIn })
  | .gt => (o == some .gt, { nv := nanIn })
  | .ge => (o == some .gt || o == some .eq, { nv := nanIn })
  | .ord => (!nanIn, { nv := sig })
  | .uno => (nanIn, { nv := sig })

/-- The sixteen levels of the QC4 codebook, in 256ths (R211). -/
def qc4Level (code : Nat) : Int :=
  match code with
  | 0 => -256 | 1 => -181 | 2 => -139 | 3 => -107 | 4 => -80 | 5 => -55 | 6 => -33 | 7 => 0
  | 8 => 11 | 9 => 33 | 10 => 55 | 11 => 80 | 12 => 107 | 13 => 139 | 14 => 181 | _ => 256

/-- A QC4 element: level × (S ÷ 255) × G, rounded once; the canonical NaN where G is not finite (R92, R212). An infinite G raises no
NV, beside a zero level or S either (log 106). -/
def qc4Value (dst : Fmt) (c : FpCtl) (code s g : Nat) : Nat × Flags :=
  match readFp fmtF32 c.daz g with
  | .fin gn gm ge =>
    let l := qc4Level code
    let neg := (decide (l < 0)) != gn
    let m := l.natAbs * s * gm
    if m = 0 then (signBit dst neg, {})
    else
      let r := divNat m (ge - 8) 255 0
      roundFin dst c neg r.1 r.2
  | .nan sig => (canonicalNan dst, { nv := sig })
  | _ => (canonicalNan dst, {})

/-- Numbers in a given number of bits, as signed. -/
def signedOf (n w : Nat) : Int := if w % 2 ^ n < 2 ^ (n - 1) then ((w % 2 ^ n : Nat) : Int) else ((w % 2 ^ n : Nat) : Int) - 2 ^ n

/-- The low `n` bits of an integer in two's complement. -/
def wrapInt (n : Nat) (x : Int) : Nat := (x % (2 ^ n : Int)).toNat

/-- The least and greatest value of an integer TYPE (R210). -/
def intBounds : Ty → Int × Int
  | .i8 => (-2 ^ 7, 2 ^ 7 - 1) | .i16 => (-2 ^ 15, 2 ^ 15 - 1) | .i32 => (-2 ^ 31, 2 ^ 31 - 1)
  | .i64 => (-2 ^ 63, 2 ^ 63 - 1) | .n8 => (0, 2 ^ 8 - 1) | .n16 => (0, 2 ^ 16 - 1) | .n32 => (0, 2 ^ 32 - 1)
  | _ => (0, 0)

/-- A signed integer TYPE. -/
def isSigned : Ty → Bool
  | .i8 | .i16 | .i32 | .i64 => true
  | _ => false

/-- An integer lane of a TYPE as a number. -/
def intLane (t : Ty) (w : Nat) : Int := if isSigned t then signedOf (tyBits t) w else ((w % 2 ^ tyBits t : Nat) : Int)

end Sys2Proof.Machine
end

