-- ==== Sys2Proof/Machine/Memory.lean ====
section
/-! DEFINITION. Memory as programs see it (R72 to R96): physical memory with scrubs, views and poison; the second stage
(R54); the PLB walk (R78) and the walk at LLC misses (R79); LLC and L1; the local spaces; the range-lock check (R113). -/

namespace Sys2Proof.Machine

/-! ## Fields of wide data -/

/-- Bytes of a line from a byte offset. -/
def lineBytes {w : Nat} (d : BitVec w) (off n : Nat) : List Byte := natToBytes (d.toNat / 2 ^ (8 * off)) n

/-- A line with bytes replaced from a byte offset. -/
def lineSet {w : Nat} (d : BitVec w) (off : Nat) (bs : List Byte) : BitVec w :=
  let n := 8 * bs.length
  let keep := d &&& ~~~ (BitVec.ofNat w ((2 ^ n - 1) * 2 ^ (8 * off)))
  keep ||| BitVec.ofNat w (bytesToNat bs * 2 ^ (8 * off))

/-- A bit set or cleared. -/
def setBit {w : Nat} (d : BitVec w) (i : Nat) (v : Bool) : BitVec w :=
  if v then d ||| BitVec.ofNat w (2 ^ i) else d &&& ~~~ BitVec.ofNat w (2 ^ i)

/-! ## Physical memory -/

/-- The bases of the CXL windows (R13). -/
def cxlBase (port : Nat) : Nat := if port == 0 then 0x40000000000 else 0x80000000000

/-- A physical address lies in the window of a CXL port that is down (R16). -/
def cxlDown (s : State) (pa : Nat) : Bool :=
  (s.pkg.cxl0Down && decide (0x40000000000 ≤ pa) && decide (pa < 0x80000000000))
    || (s.pkg.cxl1Down && decide (0x80000000000 ≤ pa) && decide (pa < 0xC0000000000))

/-- The scrub that still owes a physical line its zeros (R58): the line is unscrubbed. -/
def unscrubbed (m : Memory) (line : Nat) : Bool :=
  m.scrubs.any fun c => decide (c.next ≤ line) && decide (line ≤ c.hi) && !c.touched.contains line

/-- A byte of memory, below the views. -/
def memByte (m : Memory) (pa : Nat) : Byte := if unscrubbed m (pa / 256) then 0 else cellRead m.bytes pa

/-- Bytes of memory as a number. -/
def memNat (m : Memory) (pa n : Nat) : Nat := bytesToNat ((upFrom pa n).map (memByte m))

/-- Fields of a decode range register (R91). -/
def View.en (v : View) : Bool := v.w0.getLsbD 63
def View.f6e2 (v : View) : Bool := field v.w0 60 3 == 1
def View.toE4m3 (v : View) : Bool := field v.w0 57 3 == 1
def View.count (v : View) : Nat := field v.w0 0 40
def View.stor (v : View) : Nat := field v.w1 8 40 * 256
def View.scale (v : View) : Nat := field v.w2 6 42 * 64
def View.base (v : View) : Nat := field v.w3 16 32 * 65536
def View.elem (v : View) : Nat := if v.toE4m3 then 1 else 2
/-- The view's bytes, and their end rounded up to a page (R92). -/
def View.bytes (v : View) : Nat := v.count * 256 * v.elem
def View.span (v : View) : Nat := (v.bytes + 65535) / 65536 * 65536

/-- The active view that a physical address lies in. -/
def viewAt (m : Memory) (pa : Nat) : Option View :=
  (m.views.find? fun e => e.2.en && decide (e.2.base ≤ pa) && decide (pa < e.2.base + e.2.span)).map (·.2)

/-- One byte of a view (R92): the element is decoded with RNE, no FCR control, and saturation into E4M3. -/
def viewByte (m : Memory) (v : View) (pa : Nat) : Byte :=
  let off := pa - v.base
  if v.bytes ≤ off then 0
  else
    let i := off / v.elem
    let dst := if v.toE4m3 then fmtE4m3 else fmtBf16
    let code :=
      if v.f6e2 then
        let bit := 6 * i
        let raw := memNat m (v.stor + bit / 8) 2 / 2 ^ (bit % 8) % 64
        (fpConvert fmtF6e2 dst {} raw).1
      else
        let byte := (memByte m (v.stor + i / 2)).toNat
        let q := if i % 2 == 0 then byte % 16 else byte / 16
        let rec_ := v.scale + i / 256 * 8
        (qc4Value dst {} q (memByte m (rec_ + i / 64 % 4)).toNat (memNat m (rec_ + 4) 4)).1
    BitVec.ofNat 8 (code / 256 ^ (off % v.elem))

/-- A byte as the LLC reads it from a memory controller. -/
def physByte (m : Memory) (pa : Nat) : Byte :=
  match viewAt m pa with
  | some v => viewByte m v pa
  | none => memByte m pa

/-- A 32-byte sector read from memory. -/
def physSector (m : Memory) (pa : Nat) : List Byte := (upFrom (pa / 32 * 32) 32).map (physByte m)

/-- A physical sector is poisoned, and no scrub has cleared it (R95, R96). -/
def memPoisoned (m : Memory) (pa : Nat) : Bool := m.poison.contains (pa / 32) && !unscrubbed m (pa / 256)

/-- A byte of memory cannot be read: it is poisoned, or below a CXL port that is down (R95, R16). -/
def memLost (s : State) (pa : Nat) : Bool := cxlDown s pa || memPoisoned s.mem pa

/-- The codes and scales that decode the 256-byte line of a view cannot all be read (R93, R16). -/
def viewPoisoned (s : State) (v : View) (pa : Nat) : Bool :=
  let i := (pa / 256 * 256 - v.base) / v.elem
  let n := if v.bytes ≤ pa - v.base then 0 else 256 / v.elem
  let codes := if v.f6e2 then upFrom (v.stor + 6 * i / 8) (6 * n / 8) else upFrom (v.stor + i / 2) (n / 2)
  codes.any (memLost s) || (!v.f6e2 && n != 0 && (upFrom (v.scale + i / 256 * 8) 8).any (memLost s))

/-- A fill of a sector meets an uncorrectable error (R95, R93, R16). -/
def fillPoisoned (s : State) (pa : Nat) : Bool :=
  match viewAt s.mem pa with
  | some v => viewPoisoned s v pa
  | none => memLost s pa

/-- Bytes written to memory; an unscrubbed line is zeroed first and becomes touched (R58). -/
def memWrite (m : Memory) (pa : Nat) (bs : List Byte) : Memory :=
  let line := pa / 256
  if unscrubbed m line then
    let zeroed := cellWrites m.bytes (line * 256) (List.replicate 256 0)
    { m with
      bytes := cellWrites zeroed pa bs
      poison := m.poison.filter fun q => q / 8 != line
      scrubs := m.scrubs.map fun c =>
        if decide (c.next ≤ line) && decide (line ≤ c.hi) then { c with touched := addRising line c.touched } else c }
  else { m with bytes := cellWrites m.bytes pa bs }

/-- A sector written back: its bytes, or a poison marker (R95). -/
def memWriteSector (m : Memory) (pa : Nat) (bs : List Byte) (poisoned : Bool) : Memory :=
  let m1 := memWrite m pa bs
  let rest := m1.poison.filter (· != pa / 32)
  { m1 with poison := if poisoned then addRising (pa / 32) rest else rest }

/-! ## The second stage -/

/-- Access kinds as the five bits R W X A E of an ATTR (R54) and of RWXAE (R76). -/
abbrev Kind := BitVec 5
def kRead : Kind := 0b10000
def kWrite : Kind := 0b01000
def kFetch : Kind := 0b00100
def kAtomic : Kind := 0b00010
def kEngineRead : Kind := 0b10001
def kEngineWrite : Kind := 0b01001

/-- The kinds in `need` are all granted. -/
def grants (have_ need : Kind) : Bool := have_ &&& need == need

/-- The second stage for an owner (R54): the physical address, unless no entry matches or its ATTR lacks the kind. -/
def stage2 (s : State) (owner ia : Nat) (need : Kind) : Option Nat :=
  let part := s.partOf owner
  match s.ctl.ranges.find? fun e =>
      e.1 / 64 == part && e.2.owner == owner && decide (e.2.base ≤ ia / 65536) && decide (ia / 65536 ≤ e.2.limit) with
  | some e => if grants e.2.attr need then some ((ia : Int) + e.2.offset * 65536).toNat else none
  | none => none

/-! ## The first-stage tree (R75 to R77) -/

/-- Fields of page-table entries (R76). -/
def pteV (e : Word) : Bool := e.getLsbD 63
def pteLeaf (e : Word) : Bool := e.getLsbD 62
def pteRights (e : Word) : Kind := e.extractLsb' 57 5
def pteDom (e : Word) : Bool := e.getLsbD 56
def pteDl (e : Word) : Nat := field e 51 5
def pteOwner (e : Word) : Nat := field e 39 12
def pteSh (e : Word) : Bool := e.getLsbD 38
def pteDord (e : Word) : Nat := field e 36 2
def pteNext (e : Word) : Nat := field e 0 35
def pteOrd (e : Word) : Nat := field e 55 2
def pteBlk (e : Word) : Bool := e.getLsbD 54
def ptePage (e : Word) : Nat := field e 0 40

/-- Index of an address at a level, and the span of a leaf there (R75). -/
def levelIndex (va lvl : Nat) : Nat := va / 2 ^ (16 + 10 * lvl) % 1024
def levelSpan (lvl : Nat) : Nat := 2 ^ (16 + 10 * lvl)

/-- What a walk finds. -/
structure Leaf where
  owner : Nat
  /-- intermediate address of the 64 KiB page -/
  inter : Nat
  rights : Kind
  ord : Nat
  blk : Bool
  base : Nat
  size : Nat
  admitted : Bool
  deriving DecidableEq, Repr

inductive Walk where
  | leaf (l : Leaf)
  /-- an invalid entry, with the OWNER of the last valid table entry read -/
  | invalid (last : Option Nat)
  /-- a second-stage miss: whose entries were searched, and the address -/
  | miss (searched ia : Nat)
  /-- the node's memory is poisoned, which R95 does not speak of: the access ends with POISON (log 87) -/
  | poisoned
  deriving DecidableEq, Repr

/-- What a walk carries from level to level. -/
structure WalkAt where
  own : Nat := 0xFFF
  node : Nat := 0
  rights : Kind := 0b11111
  shared : Bool := false
  dords : List Nat := []
  last : Option Nat := none
  deriving DecidableEq, Repr

/-- The leaf's fields are legal at its level, and its ORD is that of every DOM entry above it (R76). -/
def leafValid (e : Word) (lvl : Nat) (dords : List Nat) : Bool :=
  field e 40 14 == 0 && pteOrd e != 3 && ptePage e % 2 ^ (10 * lvl) == 0 && dords.all (pteOrd e == ·)

/-- A walk from level `n` − 1 down (R78, R79); the PLB walker stops at a DOM entry. -/
def walkFrom (s : State) (c va : Nat) (plb : Bool) : Nat → WalkAt → Walk
  | 0, w => .invalid w.last
  | lvl + 1, w =>
    let index := levelIndex va lvl
    let entry : Except Walk Word :=
      if lvl == 3 then .ok (s.mem.l3.get index (place 39 12 0xFFF))
      else
        match stage2 s w.own w.node kRead with
        | none => .error (.miss w.own w.node)
        | some pa =>
          let a := pa + 8 * index
          if fillPoisoned s a then .error .poisoned
          else .ok (BitVec.ofNat 64 (bytesToNat ((upFrom a 8).map (physByte s.mem))))
    match entry with
    | .error r => r
    | .ok e =>
      let access (o : Nat) (sh : Bool) : Bool := c == o || s.isAncestor c o || sh
      if !pteV e then .invalid w.last
      else if pteLeaf e then
        if lvl == 3 || !leafValid e lvl w.dords then .invalid w.last
        else
          let span := levelSpan lvl
          .leaf
            { owner := w.own, inter := ptePage e * 65536 + va % span / 65536 * 65536, rights := w.rights &&& pteRights e
              ord := pteOrd e, blk := pteBlk e, base := va / span * span, size := span
              admitted := access w.own w.shared }
      else if lvl == 0 || e.getLsbD 35 || (pteDom e && decide (25 ≤ pteDl e)) then .invalid w.last
      else if !(pteOwner e == w.own || s.isAncestor w.own (pteOwner e)) then .invalid w.last
      else
        let o := pteOwner e
        let sh := w.shared || (pteSh e && (o == c || s.isAncestor o c))
        if plb && pteDom e then
          let size := min (2 ^ (pteDl e + 16)) (levelSpan lvl)
          .leaf
            { owner := o, inter := 0, rights := w.rights &&& pteRights e, ord := pteDord e, blk := false
              base := va / size * size, size := size, admitted := access o sh }
        else
          walkFrom s c va plb lvl
            { own := o, node := pteNext e * 8192, rights := w.rights &&& pteRights e, shared := sh
              dords := if pteDom e then pteDord e :: w.dords else w.dords, last := some o }

/-- The PLB walk (R78) and the walk at the home slice (R79). -/
def plbWalk (s : State) (c va : Nat) : Walk := walkFrom s c va true 4 {}
def sliceWalk (s : State) (va : Nat) : Walk := walkFrom s Config.deviceCtx va false 4 {}

/-- A failed walk as a trap at an address (R65, R78, R79). -/
def walkTrap (r : Walk) (va : Nat) : TrapInfo :=
  match r with
  | .miss o ia => { cause := .range, addr := some (BitVec.ofNat 64 va), detail := BitVec.ofNat 64 ia, searched := some o }
  | .poisoned => { cause := .poison, addr := some (BitVec.ofNat 64 va) }
  | .invalid last => { cause := .page, addr := some (BitVec.ofNat 64 va), regionOwner := last }
  | .leaf l => { cause := .prot, addr := some (BitVec.ofNat 64 va), regionOwner := some l.owner }

/-! ## Rights at the core (R78) -/

/-- Who accesses memory: context, launch, bench, and seat whose PLB and L1 are used. -/
structure Who where
  ctx : Nat
  launch : Nat
  task : Nat
  unit : Focus
  deriving DecidableEq, Repr

def PlbEntry.rights (p : PlbEntry) : Kind :=
  (if p.read then kRead else 0) ||| (if p.write then kWrite else 0) ||| (if p.execute then kFetch else 0)
    ||| (if p.atomic then kAtomic else 0) ||| (if p.engine then 1 else 0)

/-- A PLB entry of a walk's leaf or domain. -/
def plbOf (c : Nat) (l : Leaf) : PlbEntry :=
  { ctx := c, base := l.base, size := l.size, read := grants l.rights kRead, write := grants l.rights kWrite
    execute := grants l.rights kFetch, atomic := grants l.rights kAtomic, engine := grants l.rights 1, ord := l.ord
    admitted := l.admitted, owner := l.owner }

/-- The PLB's entry for an address, walked for on a miss (R78). -/
def plbEntry (w : Who) (va : Nat) (s : State) : Res PlbEntry :=
  let k := w.unit.core
  let c := s.core k
  match c.plb.find? fun p => p.ctx == w.ctx && decide (p.base ≤ va) && decide (va < p.base + p.size) with
  | some p => .ok p s
  | none =>
    match plbWalk s w.ctx va with
    | .leaf l => .ok (plbOf w.ctx l) (s.setCore k { c with plb := plbOf w.ctx l :: c.plb })
    | r => .trap (walkTrap r va) s

/-- The rights check of an access (R78): the ORD of the page, or PROT or PAGE at the core. -/
def checkRights (w : Who) (va : Nat) (need : Kind) (s : State) : Res Nat :=
  if 2 ^ 56 ≤ va then .failAt .prot (BitVec.ofNat 64 va) s
  else
    (plbEntry w va s).andThen fun p s1 =>
      if grants p.rights need && p.admitted then .ok p.ord s1
      else .trap { cause := .prot, addr := some (BitVec.ofNat 64 va), regionOwner := some p.owner } s1

/-! ## Block regions (R150 to R155) -/

/-- The table key of a block. -/
def blockKey (region block : Nat) : Nat := region * 2 ^ 28 + block

/-- The region and block of a launch that an address lies in. -/
def blockOf (l : Launch) (va : Nat) : Option (Nat × Nat) :=
  (indexWhere (fun (g : Region) => decide (g.base ≤ va) && decide (va < g.base + g.blocks * 2 ^ (g.bsz + 14))) l.regions).map
    fun i =>
      match l.regions[i]? with
      | some g => (i, (va - g.base) / 2 ^ (g.bsz + 14))
      | none => (i, 0)

/-- A block of a launch. -/
def Launch.block (l : Launch) (gb : Nat × Nat) : Block := l.blocks.get (blockKey gb.1 gb.2) {}

/-- A block changed. -/
def State.changeBlock (s : State) (k : Nat) (gb : Nat × Nat) (f : Block → Block) : State :=
  let l := s.launch k
  s.setLaunch k { l with blocks := l.blocks.put (blockKey gb.1 gb.2) (f (l.block gb)) }

/-! ## The LLC (R79, R84) -/

/-- The LLC line that holds an address. -/
def llcFind (s : State) (va : Nat) : Option LlcLine := s.mem.llc.find? fun l => l.line == va / 256

/-- An LLC line put in place of the one with its tag, or added. -/
def llcPut (m : Memory) (l : LlcLine) : Memory :=
  if m.llc.any fun x => x.line == l.line then { m with llc := m.llc.map fun x => if x.line == l.line then l else x }
  else { m with llc := l :: m.llc }

/-- The dirty sectors of a line written to memory, poisoned ones as markers (R84, R95). -/
def writeSectors (m : Memory) (l : LlcLine) : Memory :=
  (List.range 8).foldl
    (fun m i =>
      if l.dirty.getLsbD i then
        memWriteSector m (l.phys * 256 + 32 * i) (lineBytes l.data (32 * i) 32) (l.poison.getLsbD i)
      else m) m

/-- The one record of a page owner for a sector (R95). -/
def ownerRecord (s : State) (owner va : Nat) : State :=
  let t : TrapInfo := { cause := .poison, addr := some (BitVec.ofNat 64 va) }
  deliverRecord s.nextTicket (fnFor s owner) (mkRecord s s.ticket t owner owner {} noId noId (place 52 12 owner))

/-- The first sector of a mask. -/
def firstSector (m : BitVec 8) : Nat := ((List.range 8).find? fun i => m.getLsbD i).getD 0

/-- The dirty sectors of a line that are to be written to a CXL port that is down, and are not poisoned yet (R16). -/
def stranded (s : State) (l : LlcLine) : BitVec 8 := if cxlDown s (l.phys * 256) then l.dirty &&& ~~~l.poison else 0

/-- A line's dirty sectors are written back. Where they cannot be, their owner receives one record (R16). -/
def writeBack (s : State) (l : LlcLine) : State :=
  if cxlDown s (l.phys * 256) then
    if stranded s l = 0 then s else ownerRecord s l.owner (l.line * 256 + 32 * firstSector (stranded s l))
  else s.setMem (writeSectors s.mem l)

/-- A line dropped after write-back of its dirty sectors; a line of a view holds none (R93). -/
def dropLine (s : State) (l : LlcLine) : State :=
  let s1 := writeBack s l
  s1.setMem { s1.mem with llc := s1.mem.llc.filter fun x => x.line != l.line }

/-- A running launch of a page's owner has declared the region that an address lies in: else a BLK leaf is invalid (R79). -/
def regionDeclared (s : State) (owner va : Nat) : Bool :=
  s.launches.any fun e => e.2.ctx == owner && !e.2.stopped && (blockOf e.2 va).isSome

/-- The slice's walk; a BLK leaf in a region that no running launch of its owner has declared is invalid (R79). -/
def leafWalk (s : State) (va : Nat) : Walk :=
  match sliceWalk s va with
  | .leaf l => if l.blk && !regionDeclared s l.owner va then .invalid (some l.owner) else .leaf l
  | r => r

/-- The cached translation of a page, or the slice's walk (R79). Only valid leaves are cached. -/
def translate (va : Nat) (s : State) : Res Translation :=
  match s.mem.translations.find? fun t => t.page == va / 65536 with
  | some t => .ok t s
  | none =>
    match leafWalk s va with
    | .leaf l =>
      let t : Translation :=
        { page := va / 65536, part := s.partOf l.owner, owner := l.owner, inter := l.inter, blk := l.blk }
      .ok t (s.setMem { s.mem with translations := t :: s.mem.translations })
    | r => .trap (walkTrap r va) s

/-- A RANGE fault of a page access (R79). -/
def rangeTrap (t : Translation) (va : Nat) : TrapInfo :=
  { cause := .range, addr := some (BitVec.ofNat 64 va), detail := BitVec.ofNat 64 (t.inter + va % 65536)
    searched := some t.owner }

/-- The block-mapped page admits only the launch that declared its region, a launch of the page's owner (R153, R79), and
only while the block is RESIDENT (R155). -/
def admitBlock (w : Who) (owner va : Nat) (s : State) : Res Unit :=
  let l := s.launch w.launch
  let invalid : TrapInfo := { cause := .page, addr := some (BitVec.ofNat 64 va), regionOwner := some owner }
  if l.ctx != owner then .trap invalid s
  else
    match blockOf l va with
    | none => .trap invalid s
    | some gb => if (l.block gb).st = .resident then .ok () s else .park gb.1 gb.2 s

/-- A sector of a line is still cached whose entry a revocation has taken out and not yet dropped, and that entry allowed the kind
of access: a hit is performed (R57). -/
def hitBeforeDrop (s : State) (l : LlcLine) (va : Nat) (need : Kind) : Bool :=
  l.valid.getLsbD (va % 256 / 32) && s.ctl.ops.any fun o => o.drops.any fun d =>
    d.owner == l.owner && decide (d.lo ≤ l.phys * 256) && decide (l.phys * 256 ≤ d.hi) && grants d.attr need

/-- A hit in the LLC: the range entry of the line's owner must allow the kind of access, as at a miss (R54). -/
def admitHit (l : LlcLine) (va : Nat) (need : Kind) (s : State) : Res LlcLine :=
  let ia := l.inter + va % 256
  if (stage2 s l.owner ia need).isSome || hitBeforeDrop s l va need then .ok l s
  else
    .trap { cause := .range, addr := some (BitVec.ofNat 64 va), detail := BitVec.ofNat 64 ia, searched := some l.owner } s

/-- The line of an address stands in the LLC, by a hit or by translation at a miss (R79, R84). -/
def ensureLine (w : Who) (va : Nat) (need : Kind) (s : State) : Res LlcLine :=
  match llcFind s va with
  | some l =>
    (if l.frame then admitBlock w l.owner va s else .ok () s).andThen fun _ s1 =>
      if l.lost then .trap { cause := .poison, addr := some (BitVec.ofNat 64 (va / 32 * 32)) } s1 else admitHit l va need s1
  | none =>
    (translate va s).andThen fun t s1 =>
      (if t.blk then admitBlock w t.owner va s1 else .ok () s1).andThen fun _ s2 =>
        match stage2 s2 t.owner (t.inter + va % 65536) need with
        | none => .trap (rangeTrap t va) s2
        | some pa =>
          if cxlDown s2 pa then .trap { cause := .poison, addr := some (BitVec.ofNat 64 (va / 32 * 32)) } s2
          else
          let l : LlcLine :=
            { line := va / 256, phys := pa / 256, owner := t.owner, valid := 0, dirty := 0, poison := 0, data := 0
              frame := t.blk, view := (viewAt s2.mem pa).isSome, inter := t.inter + va / 256 * 256 % 65536 }
          .ok l (s2.setMem (llcPut s2.mem l))

/-- A line of a view, decoded and poisoned as a whole (R93). -/
def decodeLine (s : State) (l : LlcLine) : LlcLine :=
  let pa := l.phys * 256
  { l with
    valid := BitVec.allOnes 8, poison := if fillPoisoned s pa then BitVec.allOnes 8 else 0
    data := lineSet 0 0 ((upFrom pa 256).map (physByte s.mem)) }

/-- A line with one sector filled from memory if it was not valid; a line of a view is filled whole. -/
def fillSector (s : State) (l : LlcLine) (i : Nat) : State × LlcLine :=
  if l.valid.getLsbD i then (s, l)
  else if l.view then (s.setMem (llcPut s.mem (decodeLine s l)), decodeLine s l)
  else
    let pa := l.phys * 256 + 32 * i
    let l1 := { l with
      valid := setBit l.valid i true, poison := setBit l.poison i (fillPoisoned s pa)
      data := lineSet l.data (32 * i) (physSector s.mem pa) }
    (s.setMem (llcPut s.mem l1), l1)

/-- A poison trap, by claim of class 1; for a clean sector that had to be read again, the recipient is the accessor's own
context (R95). ADDR and SYS.TVAL are the first byte of the 32-byte sector that is poisoned (log 101). -/
def poisonTrap (l : LlcLine) (va : Nat) : TrapInfo :=
  { cause := .poison, addr := some (BitVec.ofNat 64 (va / 32 * 32)), own := l.again.getLsbD (va % 256 / 32) }

/-! ## Bandwidth (R87) -/

/-- One event of a performance counter (R306). -/
def countEvent (s : State) (launch bench event n : Nat) : State :=
  let l := s.launch launch
  s.setLaunch launch { l with counters := l.counters.change (bench * 64 + event) 0 fun v => v + BitVec.ofNat 64 n }

/-- The launch of an access that no strand makes: none, so that no block-mapped page admits it (R153). -/
def noLaunch : Nat := 2 ^ 64

/-- The region of a launch (R126). -/
def Launch.rect (l : Launch) : Rect := { x := l.ox, y := l.oy, w := l.width, h := l.height }

/-- The benches of a rectangle, row by row. -/
def Rect.benches (r : Rect) : List Nat := (upFrom r.y r.h).flatMap fun y => (upFrom r.x r.w).map fun x => 32 * y + x

/-- The launch's cap on its context's own bandwidth tokens; 0 is none (R125). -/
def Launch.bwCap (l : Launch) : Nat := field (l.header.getD 11 0) 0 13

/-- The slice that holds a line of a block frame: line j of the frame in slice j mod W × H of the region (R152). -/
def frameSlice (s : State) (va : Nat) : Option Nat :=
  (s.launches.find? fun e => !e.2.stopped && (blockOf e.2 va).isSome).bind fun e =>
    match e.2.regions.find? fun g => decide (g.base ≤ va) && decide (va < g.base + g.blocks * 2 ^ (g.bsz + 14)) with
    | some g =>
      let benches := e.2.rect.benches
      benches[(va - g.base) % 2 ^ (g.bsz + 14) / 256 % benches.length]?
    | none => none

/-- The slice at which an address is accessed: that of its frame, or that of the hash (R84, R152). -/
def sliceOf (s : State) (va : Nat) : Nat :=
  if (llcFind s va).any (·.frame) then (frameSlice s va).getD 0 else homeOf s.pkg (va / 256)

/-- A context's port tokens at a slice that serves a request: its own, or of a loan; a request that has neither is served
all the same, in clocks that no other takes. The launch caps what it spends in a period (R87, R125). -/
def payPort (w : Who) (va : Nat) (s : State) : State :=
  let port := sliceOf s va
  let x := s.spending true port w.ctx
  let l := s.launch w.launch
  if hasToken s true port w.ctx && (l.bwCap == 0 || decide (l.portSpent.get port 0 < l.bwCap)) then
    let s1 := s.setSpending true port w.ctx { x with spent := x.spent + 1 }
    if l.bwCap == 0 then s1 else s1.setLaunch w.launch { l with portSpent := l.portSpent.change port 0 (· + 1) }
  else
    match borrowToken s true port w.ctx with
    | none => s
    | some s1 => if w.launch = noLaunch then s1 else countEvent s1 w.launch w.unit.bench 10 1

/-- A request is charged: nothing but what contexts have spent, the loans and the counter of loans changes. -/
def chargePort (w : Who) (va : Nat) (s : State) : State :=
  let p := payPort w va s
  { s with ctl := { s.ctl with spending := p.ctl.spending, loans := p.ctl.loans }, launches := p.launches }

/-- Bytes read at the single copy; they lie in one 32-byte line. -/
def readAt (w : Who) (va n : Nat) (need : Kind) (s : State) : Res (List Byte) :=
  (ensureLine w va need s).andThen fun l s1 =>
    let i := va % 256 / 32
    let r := fillSector s1 l i
    if r.2.poison.getLsbD i then .trap (poisonTrap r.2 va) r.1
    else .ok (lineBytes r.2.data (va % 256) n) r.1

/-- A request that reads: it is charged (R87). -/
def llcRead (w : Who) (va n : Nat) (need : Kind) (s : State) : Res (List Byte) := readAt w va n need (chargePort w va s)

/-- Bytes written at the single copy; they lie in one 32-byte line. A write of the whole sector clears its poison, and a
part of a poisoned sector traps (R96); so does a write that misses below a CXL port that is down (R16). -/
def writeAt (w : Who) (va : Nat) (bs : List Byte) (need : Kind) (s : State) : Res Unit :=
  (ensureLine w va need s).andThen fun l s1 =>
    if l.view then .trap { cause := .prot, addr := some (BitVec.ofNat 64 va), regionOwner := some l.owner } s1
    else
      let i := va % 256 / 32
      let whole := bs.length == 32
      let r := if whole then (s1, l) else fillSector s1 l i
      let lost := cxlDown s1 (l.phys * 256) && !l.valid.getLsbD i
      if (!whole && r.2.poison.getLsbD i) || lost then .trap (poisonTrap r.2 va) r.1
      else
        let l2 := { r.2 with
          valid := setBit r.2.valid i true, dirty := setBit r.2.dirty i true, poison := setBit r.2.poison i false
          again := setBit r.2.again i false
          data := lineSet r.2.data (va % 256) bs }
        .ok () (r.1.setMem (llcPut r.1.mem l2))

/-- A request that writes. -/
def llcWrite (w : Who) (va : Nat) (bs : List Byte) (need : Kind) (s : State) : Res Unit :=
  writeAt w va bs need (chargePort w va s)

/-! ## The L1 (R82) -/

/-- L1 lines that a test keeps. -/
def keepL1 (s : State) (core : Nat) (p : L1Line → Bool) : State :=
  let c := s.core core
  s.setCore core { c with l1 := c.l1.filter p }

/-- Page kinds as ORD codes (R76, R105). -/
def ordUn : Nat := 0
def ordRc : Nat := 1
def ordSo : Nat := 2

/-- An acquire drops every RC line of the core's L1 (R102); a fence drops UN and RC lines (R106). -/
def dropRc (s : State) (core : Nat) : State := keepL1 s core fun l => l.ord != ordRc
def dropUnRc (s : State) (core : Nat) : State := keepL1 s core fun _ => false

/-- A core drops its L1 lines that overlap a range. -/
def dropL1Range (s : State) (core lo hi : Nat) : State :=
  keepL1 s core fun l => decide (hi < l.line * 32) || decide (l.line * 32 + 31 < lo)

/-- The order is honoured as an acquire, or as a release, on a page of this kind (R105). -/
def isAcquire (o : Order) (ord : Nat) : Bool :=
  match o with
  | .acq | .ar => ord != ordUn
  | .sc => true
  | _ => false

/-- The order is honoured as a release on a page of this kind (R105). -/
def isReleaseOn (o : Order) (ord : Nat) : Bool :=
  match o with
  | .rel | .ar => ord != ordUn
  | .sc => true
  | _ => false

/-- A scope of .bench or wider. -/
def wide (sc : Scope) : Bool := !decide (sc = .core)

/-- An L1 miss goes out at the mesh port of its bench, and is counted. It is merged into the burst of another core's miss to the same
256-byte block whose first miss came at most eight fabric clocks before, which are five core clocks (R23, R83, R306; log 68). -/
def noteMiss (w : Who) (va : Nat) (s : State) : State :=
  let b := s.bench w.unit.bench
  let part := s.partOf w.ctx
  let near := b.misses.filter fun m => decide (b.clocks ≤ m.clock + 5)
  let burst := near.find? fun m => m.block == va / 256 && m.part == part && m.seat != w.unit.seat
  let clock := (burst.map (·.clock)).getD b.clocks
  let s1 := s.setBench w.unit.bench
    { b with misses := { block := va / 256, seat := w.unit.seat, part := part, clock := clock } :: near }
  let s2 := if burst.isSome then countEvent s1 w.launch w.unit.bench 5 1 else s1
  countEvent s2 w.launch w.unit.bench 4 1

/-- One part of a load, within one 32-byte line (R97, R102, R107). -/
def loadPart (w : Who) (va n : Nat) (o : Order) (sc : Scope) (ord : Nat) (s : State) : Res (List Byte) :=
  let k := w.unit.core
  let c := s.core k
  let acq := isAcquire o ord
  let bypass := ord == ordSo || decide (o = .sc) || (acq && wide sc)
  let got : Res (List Byte) :=
    match (if bypass then none else c.l1.find? fun l => l.line == va / 32) with
    | some l => .ok (lineBytes l.data (va % 32) n) (countEvent s w.launch w.unit.bench 3 1)
    | none =>
      let out := if bypass then s else noteMiss w va s
      ((ensureLine w va kRead out).andThen fun _ s0 => llcRead w (va / 32 * 32) 32 kRead s0).andThen fun bs s1 =>
        let c1 := s1.core k
        let line : L1Line := { line := va / 32, part := s1.partOf w.ctx, ord := ord, data := lineSet 0 0 bs }
        let s2 :=
          if ord == ordSo then s1
          else s1.setCore k { c1 with l1 := line :: c1.l1.filter fun x => x.line != va / 32 }
        .ok ((bs.drop (va % 32)).take n) s2
  got.andThen fun bs s1 => .ok bs (if acq && wide sc then dropRc s1 k else s1)

/-- One part of a store with the rights that it needs: written at the home slice, and in the core's L1 line when present
(R82). -/
def storePartAs (need : Kind) (w : Who) (va : Nat) (bs : List Byte) (s : State) : Res Unit :=
  (llcWrite w va bs need s).andThen fun _ s1 =>
    let k := w.unit.core
    let c := s1.core k
    .ok () (s1.setCore k { c with
      l1 := c.l1.map fun l => if l.line == va / 32 then { l with data := lineSet l.data (va % 32) bs } else l })

/-- One part of a strand's store. -/
def storePart (w : Who) (va : Nat) (bs : List Byte) (s : State) : Res Unit := storePartAs kWrite w va bs s

/-- The parts of an access, one for each 32-byte line (R74): address and length. -/
def partsFrom : Nat → Nat → Nat → List (Nat × Nat)
  | 0, _, _ => []
  | fuel + 1, va, n =>
    if n = 0 then []
    else
      let here := min n (32 - va % 32)
      (va, here) :: partsFrom fuel (va + here) (n - here)

def parts (va n : Nat) : List (Nat × Nat) := partsFrom (n / 32 + 2) va n

/-! ## The range-lock check of strand accesses (R113) -/

/-- Entries of a bench's table that a strand access of bytes lo to hi hits. -/
def lockHits (b : Bench) (sp : LockSpace) (lo hi : Nat) (write : Bool) : List Lock :=
  b.locks.filter fun e =>
    decide (e.space = sp) && (e.dest || write) && decide (e.lo ≤ hi) && decide (lo ≤ e.hi)

/-- A strand access waits for its own task's entry, traps on another's, or proceeds. -/
def lockCheck (w : Who) (sp : LockSpace) (lo hi : Nat) (write : Bool) (s : State) : Res Unit :=
  match lockHits (s.bench w.unit.bench) sp lo hi write with
  | [] => .ok () s
  | e :: rest =>
    match (e :: rest).find? fun e => !(e.launch == w.launch && e.task == w.task) with
    | some e => .trap { cause := .rangeLock, addr := some (BitVec.ofNat 64 lo), lock := some e.key } s
    | none => .wait .rangeLock

/-! ## Global loads and stores of strands -/

/-- The rights of every part, in ascending order, keeping each part's page kind. -/
def checkParts (w : Who) (ps : List (Nat × Nat)) (need : Kind) (s : State) : Res (List Nat) :=
  Res.collect ps s fun p s1 => checkRights w p.1 need s1

/-- A block-mapped page whose block is not RESIDENT parks before any check of locks (R113, R155); one whose leaf is invalid
for the launch faults instead (R79). -/
def parkCheck (w : Who) (va : Nat) (s : State) : Res Unit :=
  if (blockOf (s.launch w.launch) va).isNone then .ok () s
  else
    match llcFind s va with
    | some l => if l.frame then admitBlock w l.owner va s else .ok () s
    | none => (translate va s).andThen fun t s1 => if t.blk then admitBlock w t.owner va s1 else .ok () s1

/-- The owner of an address's page, where it is block-mapped. -/
def blockedOwner (s : State) (va : Nat) : Option Nat :=
  match llcFind s va with
  | some l => if l.frame then some l.owner else none
  | none =>
    match translate va s with
    | .ok t _ => if t.blk then some t.owner else none
    | _ => none

/-- A page of an address is block-mapped. -/
def pageBlocked (s : State) (va : Nat) : Bool := (blockedOwner s va).isSome

/-- A load that hits L1 reaches no slice, and parks only where its block is being filled (R113). -/
def parkFilling (w : Who) (va : Nat) (s : State) : Res Unit :=
  match blockOf (s.launch w.launch) va with
  | some gb =>
    if ((s.launch w.launch).block gb).st = .filling && pageBlocked s va then .park gb.1 gb.2 s else .ok () s
  | none => .ok () s

/-- A place in the partition's order S for an .sc operation (R107). -/
def takeDesk (s : State) (ctx : Nat) (o : Order) : State :=
  if o = .sc then
    let p := s.partOf ctx
    s.setCtl { s.ctl with desk := s.ctl.desk.change p 0 (· + 1) }
  else s

/-- A load hits L1 lines only, and so reaches no block and no slice. -/
def l1Holds (s : State) (w : Who) (va : Nat) : Bool := (s.core w.unit.core).l1.any fun l => l.line == va / 32

/-- A global load of `n` bytes (R74, R97 to R107). -/
def loadGlobal (w : Who) (va n : Nat) (o : Order) (sc : Scope) (s : State) : Res (List Byte) :=
  let ps := parts va n
  (checkParts w ps kRead s).andThen fun ords s1 =>
    (Res.each ps s1 fun p s2 => if l1Holds s2 w p.1 then parkFilling w p.1 s2 else parkCheck w p.1 s2).andThen fun _ s2 =>
      (lockCheck w .global va (va + n - 1) false s2).andThen fun _ s3 =>
        let s4 := takeDesk s3 w.ctx o
        (Res.collect (ps.zip ords) s4 fun p s5 => loadPart w p.1.1 p.1.2 o sc p.2 s5).andThen fun bss s5 =>
          .ok bss.flatten s5

/-- The parts of a store in turn. When a part in a second page faults, the part in the first page may already have been
performed (R74): a free choice says whether it has. -/
def storeParts (w : Who) (first : Nat) (ps : List ((Nat × Nat) × List Byte)) (start s : State) : Res Unit :=
  match ps with
  | [] => .ok () s
  | p :: rest =>
    match storePart w p.1.1 p.2 s with
    | .ok _ s1 => storeParts w first rest start s1
    | .trap t s1 =>
      if p.1.1 / 65536 == first / 65536 then .trap t start
      else .trap t (if Config.freeNat s.fresh % 2 == 0 then start.nextFresh else s1.nextFresh)
    | .wait v => .wait v
    | .park g b _ =>
      if p.1.1 / 65536 == first / 65536 then .park g b start
      else .park g b (if Config.freeNat s.fresh % 2 == 0 then start.nextFresh else s.nextFresh)

/-- The bytes of each part. -/
def splitParts (ps : List (Nat × Nat)) (bs : List Byte) : List ((Nat × Nat) × List Byte) :=
  match ps with
  | [] => []
  | p :: rest => (p, bs.take p.2) :: splitParts rest (bs.drop p.2)

/-- A global store (R74, R97 to R107, R267). -/
def storeGlobal (w : Who) (va : Nat) (bs : List Byte) (o : Order) (s : State) : Res Unit :=
  let ps := parts va bs.length
  (checkParts w ps kWrite s).andThen fun _ s1 =>
    (Res.each ps s1 fun p s2 => parkCheck w p.1 s2).andThen fun _ s2 =>
      (lockCheck w .global va (va + bs.length - 1) true s2).andThen fun _ s3 =>
        let s4 := takeDesk s3 w.ctx o
        storeParts w va (splitParts ps bs) s4 s4

/-- One atomic at the home slice (R86): the old bytes, the new ones written if `f` gives any. The core's L1 copy is
dropped (R82). -/
def atomicAt (w : Who) (va n : Nat) (f : Nat → Option Nat) (s : State) : Res Nat :=
  (ensureLine w va kAtomic (chargePort w va s)).andThen fun l s1 =>
    if l.view then .trap { cause := .prot, addr := some (BitVec.ofNat 64 va), regionOwner := some l.owner } s1
    else
      (readAt w va n kAtomic s1).andThen fun bs s2 =>
        let old := bytesToNat bs
        let s3 := keepL1 s2 w.unit.core fun x => x.line != va / 32
        match f old with
        | none => .ok old s3
        | some v => (writeAt w va (natToBytes v n) kAtomic s3).andThen fun _ s4 => .ok old s4

/-! ## Engine and device accesses -/

/-- Engine reads of global memory, part by part, with the rights of the page's range entry (R78, R79). -/
def engineRead (w : Who) (va n : Nat) (s : State) : Res (List Byte) :=
  (Res.collect (parts va n) s fun p s1 =>
      if 2 ^ 56 ≤ p.1 then .failAt .prot (BitVec.ofNat 64 p.1) s1 else llcRead w p.1 p.2 kEngineRead s1).andThen
    fun bss s1 => .ok bss.flatten s1

/-- Engine writes of global memory. -/
def engineWrite (w : Who) (va : Nat) (bs : List Byte) (s : State) : Res Unit :=
  Res.each (splitParts (parts va bs.length) bs) s fun p s1 =>
    if 2 ^ 56 ≤ p.1.1 then .failAt .prot (BitVec.ofNat 64 p.1.1) s1 else llcWrite w p.1.1 p.2 kEngineWrite s1

/-- A read that the device makes for a launch: by the context itself, with the R right and the access rule (R125). It is
an acquire at .pkg at the single copy. -/
def deviceRead (s : State) (ctx va n : Nat) : Res (List Byte) :=
  let w : Who := { ctx := ctx, launch := noLaunch, task := 0, unit := {} }
  (Res.collect (parts va n) s fun p s1 =>
      if 2 ^ 56 ≤ p.1 then .failAt .prot (BitVec.ofNat 64 p.1) s1
      else
        match plbWalk s1 ctx p.1 with
        | .leaf l =>
          if grants l.rights kRead && l.admitted then llcRead w p.1 p.2 kRead s1
          else .trap { cause := .prot, addr := some (BitVec.ofNat 64 p.1), regionOwner := some l.owner } s1
        | r => .trap (walkTrap r p.1) s1).andThen
    fun bss s1 => .ok bss.flatten s1

/-! ## Local spaces (R72, R73, R88, R89) -/

/-- The 64-bit words that bytes of a local space touch. -/
def wordsOf (off n : Nat) : List Nat := upFrom (off / 8) ((off + n - 1) / 8 - off / 8 + 1)

/-- Poison after a write: a word written whole is clean (R96). -/
def cleanWords (poison : List Nat) (off n : Nat) : List Nat :=
  poison.filter fun q => !(decide (off ≤ 8 * q) && decide (8 * q + 8 ≤ off + n))

/-- Bytes of a scratchpad; a poisoned word traps (R95). -/
def spadRead (core off n : Nat) (s : State) : Res (List Byte) :=
  let c := s.core core
  if (wordsOf off n).any c.spadPoison.contains then .failAt .poison (BitVec.ofNat 64 off) s
  else .ok (cellBytes c.spad off n) s

/-- Bytes written to a scratchpad, with full bits set where asked (R88). -/
def spadWrite (core off : Nat) (bs : List Byte) (full : Bool) (s : State) : State :=
  let c := s.core core
  s.setCore core
    { c with
      spad := cellWrites c.spad off bs, spadPoison := cleanWords c.spadPoison off bs.length
      full := if full then (wordsOf off bs.length).foldl (fun f q => addRising q f) c.full else c.full }

/-- Bytes of bench memory. -/
def benchRead (b off n : Nat) (s : State) : Res (List Byte) :=
  let x := s.bench b
  if (wordsOf off n).any x.poison.contains then .failAt .poison (BitVec.ofNat 64 off) s
  else .ok (cellBytes x.mem off n) s

/-- Bytes written to bench memory. -/
def benchWrite (b off : Nat) (bs : List Byte) (s : State) : State :=
  let x := s.bench b
  s.setBench b { x with mem := cellWrites x.mem off bs, poison := cleanWords x.poison off bs.length }

/-- Bytes of a core's scratchpad are touched: each of their banks was touched last now (R202). -/
def touchBanks (who : Toucher) (core off n : Nat) (s : State) : State :=
  if n = 0 then s
  else
    let c := s.core core
    let used := upFrom (off / 0x4000) ((off + n - 1) / 0x4000 - off / 0x4000 + 1)
    let rest := c.touches.filter fun x => !(decide (x.who = who) && used.contains x.bank)
    s.setCore core { c with touches := used.map (fun k => { who := who, bank := k, stamp := s.ticket }) ++ rest }

/-- The present strand touches its core's scratchpad. -/
def noteBanks (off n : Nat) (s : State) : State := touchBanks (.strand s.cur.hc) s.cur.core off n s

/-- An engine command touches a scratchpad, and so does its strand where it is that of the strand's core. -/
def engineTouch (w : Who) (key core off n : Nat) (s : State) : State :=
  let s1 := touchBanks (.command key) core off n s
  match s.strandAt w.unit with
  | some t =>
    if t.launch == w.launch && t.message.key == w.task && w.unit.core == core then
      touchBanks (.strand w.unit.hc) core off n s1
    else s1
  | none => s1

/-! ## CINV and drops -/

/-- LLC lines that overlap a virtual range. -/
def llcOverlap (m : Memory) (lo hi : Nat) : List LlcLine :=
  m.llc.filter fun l => decide (l.line * 256 ≤ hi) && decide (lo ≤ l.line * 256 + 255)

/-- One line of a write-back CINV (R272): a frame line becomes clean and stays; what cannot be written is poisoned (R16). -/
def cinvLine (s : State) (l : LlcLine) : State :=
  if l.frame then
    let s1 := writeBack s l
    s1.setMem (llcPut s1.mem
      (if cxlDown s (l.phys * 256) then { l with poison := l.poison ||| l.dirty } else { l with dirty := 0 }))
  else dropLine s l

/-- Every PLB entry of a partition's contexts on every core, and every translation, that overlaps a range (R80). -/
def dropTranslations (s : State) (part lo hi : Nat) : State :=
  let keep (b sz : Nat) : Bool := decide (hi < b) || decide (b + sz - 1 < lo)
  let cores := s.cores.mapAll fun _ c =>
    { c with plb := c.plb.filter fun p => s.partOf p.ctx != part || keep p.base p.size }
  { s with cores := cores }.setMem
    { s.mem with translations := s.mem.translations.filter fun t => t.part != part || keep (t.page * 65536) 65536 }

/-- Every LLC line whose physical address lies in a range is written back and dropped, and so are the L1 lines of the
partition (R57): an L1 line does not record its physical address, and dropping more of them is what an L1 may do at any
time. -/
def dropPhysical (s : State) (part lo hi : Nat) : State :=
  let hit (l : LlcLine) : Bool := decide (l.phys * 256 ≤ hi) && decide (lo ≤ l.phys * 256 + 255)
  let s1 := (s.mem.llc.filter hit).foldl dropLine s
  { s1 with cores := s1.cores.mapAll fun _ c => { c with l1 := c.l1.filter fun l => l.part != part } }

/-- A scrub begins over a physical range (R58); lines of the range in the LLC are dropped, so that reads return zeros. -/
def startScrub (s : State) (lo hi : Nat) : State :=
  let hit (l : LlcLine) : Bool := decide (l.phys * 256 ≤ hi) && decide (lo ≤ l.phys * 256 + 255)
  s.setMem { s.mem with
    llc := s.mem.llc.filter fun l => !hit l
    scrubs := s.mem.scrubs ++ [{ lo := lo / 256, hi := hi / 256, next := lo / 256 }] }

end Sys2Proof.Machine
end

