-- ==== Sys2Proof/Machine/Operands.lean ====
section
/-! DEFINITION. Operands of slot instructions (R232, R236, R249): guards, x, k and q registers, and the queue registers
with their waits (R179 to R181). -/

namespace Sys2Proof.Machine

/-- An x register; x0 reads zero (R232, R236). -/
def Strand.x (t : Strand) (n : Nat) : Word := if n = 0 then 0 else t.xs.get n 0

/-- An x register written; a write of x0 is discarded. -/
def Strand.setX (t : Strand) (n : Nat) (v : Word) : Strand := if n = 0 then t else { t with xs := t.xs.put n v }

/-- A predicate; k0 reads true. -/
def Strand.k (t : Strand) (n : Nat) : Bool := n == 0 || t.ks.get n false

/-- A predicate written; a write of k0 is discarded (R254). -/
def Strand.setK (t : Strand) (n : Nat) (v : Bool) : Strand := if n = 0 then t else { t with ks := t.ks.put n v }

/-- The guard of a slot (R232). -/
def Strand.guard (t : Strand) (f : Slot) : Bool := t.k f.gk.val != f.gn

/-- The strand as an agent of memory. -/
def whoOf (f : Focus) (t : Strand) (s : State) : Who :=
  { ctx := (s.launch t.launch).ctx, launch := t.launch, task := t.message.key, unit := f }

/-- The present strand as an agent of memory. -/
def curWho (t : Strand) (s : State) : Who := whoOf s.cur t s

/-! ## Commands of the vector queue -/

/-- Commands that the units of a core have in progress, then those of its queue (R170). -/
def Core.inFlight (c : Core) : List VecCmd := c.matrix.toList ++ c.vector.toList ++ c.commands

/-- A command is of the strand on a hardware context. -/
def VecCmd.isOf (c : VecCmd) (f : Focus) (t : Strand) : Bool :=
  c.hc == f.hc && c.launch == t.launch && c.task == t.message.key && !c.aborted

/-- Commands of a strand that are not finished. -/
def strandCommands (s : State) (f : Focus) (t : Strand) : List VecCmd :=
  (s.core f.core).inFlight.filter fun c => c.isOf f t

/-- Opcodes of matrix commands, and of vector memory commands, MSTA among them (R309, R329). -/
def isMatrixOp (op : Nat) : Bool := decide (0xD0 ≤ op) && decide (op ≤ 0xD6)
def isVecMemOp (op : Nat) : Bool := op == 0xC6 || op == 0xC7 || op == 0xC8 || op == 0xC9 || op == 0xD4

/-- A command that accesses memory: a vector memory command or one with a window destination (R309, R310). -/
def VecCmd.isMem (c : VecCmd) : Bool := isVecMemOp c.opcode || selWin c.slot.d

/-- Vector memory commands of a strand that have not been executed. -/
def pendingVecMem (s : State) (f : Focus) (t : Strand) : Bool := (strandCommands s f t).any (·.isMem)

/-- Rows of a VLD or VST (R323). -/
def rowCount (m : BitVec 4) : Nat := if m.toNat ≤ 4 then 2 ^ m.toNat else 1

/-- The memory that a slot's operand names (R265, R323). -/
def memSpace (f : Slot) (seat : Nat) : LockSpace :=
  match f.c with
  | .win n => .spad n.val
  | .msg => .msg
  | .cap => .cap
  | _ =>
    match f.space with
    | .g => .global
    | .s => .spad seat
    | .b => .bench

/-- Ranges that a queued command may access: memory and first and last byte (R309, R311). -/
def VecCmd.ranges (c : VecCmd) (seat : Nat) : List (LockSpace × Nat × Nat) :=
  let rows (n : Nat) (stride : Word) (len : Nat) : List (LockSpace × Nat × Nat) :=
    (List.range n).map fun r =>
      let a := (c.ea + BitVec.ofNat 64 r * stride).toNat
      (memSpace c.slot seat, a, a + len - 1)
  match c.opcode with
  | 0xC6 => rows (rowCount c.slot.m) c.b 256
  | 0xC7 => rows (rowCount c.slot.m) c.c 256
  | 0xD4 => rows 16 c.c 256
  | 0xC8 | 0xC9 =>
    let last := c.ea.toNat + tyBits c.slot.ty / 8 * 2 ^ 32 - 1
    (memSpace c.slot seat, c.ea.toNat, last)
      :: (if 2 ^ 64 ≤ last then [(memSpace c.slot seat, 0, last - 2 ^ 64)] else [])
  | _ =>
    match c.slot.d with
    | .win n => [(.spad n.val, c.ea.toNat, c.ea.toNat + 255)]
    | _ => []

/-- A younger access of bytes lo to hi overlaps an older vector memory command of the strand (R309, R311). -/
def overlapsVecMem (s : State) (f : Focus) (t : Strand) (sp : LockSpace) (lo hi : Nat) : Bool :=
  (strandCommands s f t).any fun c =>
    (c.ranges f.seat).any fun r => decide (r.1 = sp) && decide (r.2.1 ≤ hi) && decide (lo ≤ r.2.2)

/-- A store of rows or of a window result to a scratchpad or to bench memory (R310, R323, R336). -/
def VecCmd.storesLocal (c : VecCmd) (seat : Nat) : Bool :=
  match c.opcode with
  | 0xC7 | 0xD4 => (match memSpace c.slot seat with
    | .spad _ | .bench => true
    | _ => false)
  | 0xC6 | 0xC8 | 0xC9 => false
  | _ => selWin c.slot.d

/-- A command has no translation and no index to resolve, and meets no range of another task (R309): a load resolves only
when its data has come (R81). -/
def VecCmd.resolved (s : State) (f : Focus) (c : VecCmd) : Bool :=
  c.storesLocal f.seat && (c.ranges f.seat).all fun r =>
    (lockHits (s.bench f.bench) r.1 r.2.1 r.2.2 true).all fun e => e.launch == c.launch && e.task == c.task

/-- Vector memory commands of a strand that may still fault (R81, R309). -/
def unresolvedVecMem (s : State) (f : Focus) (t : Strand) : Bool :=
  (strandCommands s f t).any fun c => c.isMem && !c.resolved s f

/-- An acquire fence of the strand holds its younger accesses of a class until the loads older than the fence have been performed
(R106). -/
def fenceHolds (s : State) (f : Focus) (t : Strand) (cls : Nat) : Bool :=
  t.fences.any fun h => h.1.testBit cls && (strandCommands s f t).any fun c => h.2.contains c.key

/-- Classes of accesses, by their bits of a kind mask (R101). -/
def classG : Nat := 0
def classL : Nat := 1
def classN : Nat := 2

/-- An access of the present strand waits for the acquire fences that hold its class. -/
def fenceHold (t : Strand) (cls : Nat) (s : State) : Res Unit := if fenceHolds s s.cur t cls then .wait .older else .ok () s

/-- A vector command of the strand will write the scratchpad of a seat through a window (R108). -/
def pendingWindow (s : State) (f : Focus) (t : Strand) (seat : Nat) : Bool :=
  (strandCommands s f t).any fun c =>
    let names (sel : Sel) : Bool := match sel with
      | .win n => n.val == seat
      | _ => false
    (c.opcode == 0xC7 && names c.slot.c) || names c.slot.d

/-- Vector memory commands of a strand that reach global memory. -/
def pendingGlobalVec (s : State) (f : Focus) (t : Strand) : Bool :=
  (strandCommands s f t).any fun c => isVecMemOp c.opcode && decide (memSpace c.slot f.seat = .global)

/-! ## Queue registers -/

/-- The declaration of a user queue in a launch (R126). -/
def queueDecl (l : Launch) (n : Nat) : Option QueueDecl := l.queues.find? fun q => q.reg == n

/-- A queue is one the strand may name: q16 to q31 only if declared (R126, R179). -/
def queueNamed (l : Launch) (n : Nat) : Bool := n < 16 || (queueDecl l n).isSome

/-- The depth of a queue (R179). -/
def queueDepth (l : Launch) (n : Nat) : Nat :=
  match n with
  | 0 => 4 | 1 => 2 | 2 => 8 | 3 => 16 | 4 => 4 | 5 => 4
  | _ => if n < 16 then 8 else match queueDecl l n with
    | some q => q.depth
    | none => 0

/-- The hardware contexts that share a queue with the present one: of the core, or of the bench. -/
def queueSharers (f : Focus) (n : Nat) : List Nat :=
  if n < 8 then [f.key] else if n < 16 then upFrom (f.core * 8) 8 else upFrom (f.bench * 64) 64

/-- The ticket of a wait of a kind, of the hardware context with a key. -/
def waitTicket (s : State) (k : Nat) (w : WaitFor) : Option Nat :=
  match (s.hc k).strand with
  | some t =>
    match t.wait with
    | some v => if v.why = w then some v.ticket else none
    | none => none
  | none => none

/-- Another context began to wait for the same thing earlier, so it is served first (R180, R268). -/
def olderWaiter (s : State) (f : Focus) (sharers : List Nat) (w : WaitFor) : Bool :=
  sharers.any fun k =>
    k != f.key &&
      (match waitTicket s k w, waitTicket s f.key w with
       | some other, some mine => decide (other < mine)
       | some _, none => true
       | none, _ => false)

/-- The offset in bench memory of the entry of a user queue at a place, counted from its oldest (R89, R126, R180). -/
def entryOffset (q : QueueDecl) (u : UserQueue) (i : Nat) : Nat := q.offset + 8 * ((u.head + i) % q.depth)

/-- The word of bench memory at an offset. -/
def benchWord (b : Bench) (off : Nat) : Word := BitVec.ofNat 64 (bytesToNat (cellBytes b.mem off 8))

/-- The entries of a user queue, oldest first. -/
def userWords (b : Bench) (q : QueueDecl) : List Word :=
  let u := b.queues.get q.reg {}
  (List.range u.count).map fun i => benchWord b (entryOffset q u i)

/-- The entries of a user queue set from the start of its area. -/
def setUserWords (b : Bench) (q : QueueDecl) (ws : List Word) : Bench :=
  { b with
    queues := b.queues.put q.reg { count := ws.length }, mem := cellWrites b.mem q.offset (wordsToBytes ws)
    poison := cleanWords b.poison q.offset (8 * ws.length) }

/-- Entries of a queue, oldest first. -/
def queueWords (s : State) (t : Strand) (n : Nat) : List Word :=
  if n < 8 then (t.qs.get n []).map (·.word)
  else if n < 16 then s.curCore.queues.get n []
  else match queueDecl (s.launch t.launch) n with
    | some q => userWords s.curBench q
    | none => []

/-- The oldest entry of a shared queue leaves it. -/
def popShared (s : State) (t : Strand) (n : Nat) : State :=
  if n < 16 then s.setCurCore { s.curCore with queues := s.curCore.queues.put n (s.curCore.queues.get n []).tail }
  else match queueDecl (s.launch t.launch) n with
    | some q =>
      let u := s.curBench.queues.get n {}
      s.setCurBench { s.curBench with queues := s.curBench.queues.put n { head := (u.head + 1) % q.depth, count := u.count - 1 } }
    | none => s

/-- A word joins a shared queue: a user queue's entry is written to bench memory. -/
def pushShared (s : State) (t : Strand) (n : Nat) (v : Word) : State :=
  if n < 16 then s.setCurCore { s.curCore with queues := s.curCore.queues.put n (s.curCore.queues.get n [] ++ [v]) }
  else match queueDecl (s.launch t.launch) n with
    | some q =>
      let u := s.curBench.queues.get n {}
      let s1 := benchWrite s.cur.bench (entryOffset q u u.count) (natToBytes v.toNat 8) s
      s1.setCurBench { s1.curBench with queues := s1.curBench.queues.put n { u with count := u.count + 1 } }
    | none => s

/-- The oldest entry of a user queue stands in a poisoned word (R95). -/
def queuePoison (s : State) (t : Strand) (n : Nat) : Option Nat :=
  if n < 16 then none
  else (queueDecl (s.launch t.launch) n).bind fun q =>
    let off := entryOffset q (s.curBench.queues.get n {}) 0
    if s.curBench.poison.contains (off / 8) then some off else none

/-- Every lock entry of an operation is released; attached messages go back to the heads of their mailboxes (R112,
R114). -/
def releaseLocks (s : State) (b : Nat) (p : Lock → Bool) : State :=
  let x := s.bench b
  let gone := x.locks.filter p
  let s1 := s.setBench b { x with locks := x.locks.filter fun e => !p e }
  (gone.flatMap (·.attached)).reverse.foldl
    (fun s a =>
      let l := s.launch a.1
      let box := l.mailboxes.get a.2.1 []
      match box.find? fun m => m.key == a.2.2 with
      | some m =>
        let back := { m with attached := false, active := false } :: box.filter fun m => m.key != a.2.2
        s.setLaunch a.1 { l with mailboxes := l.mailboxes.put a.2.1 back }
      | none => s) s1

/-- One hold of a block falls (R158, R160). -/
def releaseHold (s : State) (launch : Nat) (gb : Nat × Nat) : State :=
  let s1 := s.changeBlock launch gb fun b => { b with hold := b.hold - 1, since := s.ticket }
  s1.nextTicket

/-- Holds of several blocks fall. -/
def releaseHolds (s : State) (launch : Nat) (gbs : List (Nat × Nat)) : State :=
  gbs.foldl (fun s gb => releaseHold s launch gb) s

/-- The entries of a command are released, at every bench where it has some (R112). -/
def releaseOp (s : State) (key : Nat) : State :=
  let mine (e : Lock) : Bool := decide (e.op = .command key)
  (s.benches.filter fun b => b.2.locks.any mine).foldl (fun s b => releaseLocks s b.1 mine) s

/-- A completion word is posted, or has nowhere to go: the entries and the holds of its command are released (R112, R155,
log 109). -/
def entryPosted (s : State) (e : QEntry) : State :=
  releaseHolds (match e.op with
    | some k => releaseOp s k
    | none => s) e.launch e.blocks

/-- A word is posted in q0 to q5. A FAULT word in q2 or q4 makes every later read of that queue trap (R181). -/
def postWord (t : Strand) (n : Nat) (e : QEntry) : Strand :=
  { t with
    qs := t.qs.put n (t.qs.get n [] ++ [e])
    qFaulted := if (n == 2 || n == 4) && field e.word 56 8 == 4 then addRising n t.qFaulted else t.qFaulted }

/-- q0 to q5 of a strand take one more word now, behind none that waits (R179). -/
def queueTakes (t : Strand) (n : Nat) : Bool := (t.qPending.get n []).isEmpty && decide ((t.qs.get n []).length < queueDepth {} n)

/-- An engine posts an entry into q0 to q5 of a strand, or waits with it while the queue is full (R179). -/
def pushEntry (t : Strand) (n : Nat) (e : QEntry) : Strand :=
  if queueTakes t n then postWord t n e else { t with qPending := t.qPending.put n (t.qPending.get n [] ++ [e]) }

/-- An entry posted to the strand on a hardware context, if the task that asked for it is still on it. -/
def postEntry (s : State) (f : Focus) (launch task n : Nat) (e : QEntry) : State :=
  match s.strandAt f with
  | some t =>
    if t.launch == launch && t.message.key == task then
      (if queueTakes t n then entryPosted s e else s).setStrandAt f (some (pushEntry t n e))
    else entryPosted s e
  | none => entryPosted s e

/-- The oldest entry of q0 to q5 is taken, and an engine's waiting entry moves in. -/
def popEntry (t : Strand) (n : Nat) : Strand :=
  let t1 := { t with qs := t.qs.put n (t.qs.get n []).tail }
  match t.qPending.get n [] with
  | [] => t1
  | e :: rest => postWord { t1 with qPending := t.qPending.put n rest } n e

/-- A pop of q0 to q5, with the post of the entry that moves in. -/
def popPosting (s : State) (t : Strand) (n : Nat) : State :=
  ((t.qPending.get n []).take 1).foldl entryPosted (s.setStrand (popEntry t n))

/-- Reading a completion word acts on its STATUS (R181). -/
def completionTrap (n : Nat) (w : Word) : Option Cause :=
  if n == 1 || n == 2 || n == 4 then
    match field w 56 8 with
    | 2 => some .sparseMeta
    | 3 => some .poison
    | 4 => some .sourceFaulted
    | 5 => some .walkerFault
    | _ => none
  else none

/-- Popping a stream's status word commits its batch (R187, R188). -/
def commitStream (s : State) (p : QEntry) : State :=
  match p.session with
  | none => s
  | some n =>
    let b := s.cur.bench
    let x := s.bench b
    let e := x.sessions.get n {}
    if e.st ≠ .busy || !e.posted || e.requester != some s.cur then s
    else
      let e1 := { e with
        st := if p.word.getLsbD 62 then SessionState.done else .idle, committed := e.pos, requester := none, posted := false
        blocks := [] }
      let s1 := releaseHolds (s.setBench b { x with sessions := x.sessions.put n e1 }) e.launch e.blocks
      releaseLocks s1 b fun k => decide (k.op = .session n)

/-- What makes every read of a queue trap (R181): a FAULT word posted in q2 or q4, or a faulted session for q3. -/
def queueFault (t : Strand) (n : Nat) : Option TrapInfo :=
  if n = 3 then t.q3Faults.head?.map fun r => { cause := .sourceFaulted, detail := r.2 }
  else if t.qFaulted.contains n then some { cause := .sourceFaulted }
  else none

/-- A queue has what a wait is for: a word, or a fault that every read of it meets (R181), or room. -/
def queueReady (s : State) (t : Strand) : WaitFor → Bool
  | .queueRead n => !(queueWords s t n).isEmpty || (queueFault t n).isSome
  | .queueWrite n => decide ((queueWords s t n).length < queueDepth (s.launch t.launch) n)
  | _ => false

/-- An access of q8 to q31 waits for the vector memory commands that may still fault (R309); one of q16 to q31, an access of class L
to the entry at a place, also for those that overlap its bytes and for the acquire fences that hold that class (R106, R180,
R311). -/
def sharedHold (s : State) (t : Strand) (n place : Nat) : Bool :=
  unresolvedVecMem s s.cur t
    || (decide (16 ≤ n) && (fenceHolds s s.cur t classL
        || (queueDecl (s.launch t.launch) n).any fun q =>
            let off := entryOffset q (s.curBench.queues.get n {}) place
            overlapsVecMem s s.cur t .bench off (off + 7)))

/-- A read of a queue register (R180, R181): pops the oldest entry, waits while it is empty, or traps by its STATUS. A read
of q1 to q5 acquires at .bench and drops the L1 lines of the operation's destination (R110). The entries of q16 to q31 meet no
range lock (log 94). -/
def readQueue (n : Nat) (s : State) : Res Word :=
  match s.strand with
  | none => .ok 0 s
  | some t =>
    if !queueNamed (s.launch t.launch) n then .fail .illegalOperand s
    else if (queueFault t n).isSome then .trap ((queueFault t n).getD { cause := .sourceFaulted }) s
    else if n < 8 then
      match t.qs.get n [] with
      | [] => .wait (.queueRead n)
      | e :: _ =>
        match completionTrap n e.word with
        | some c => .fail c s
        | none =>
          let s1 := popPosting s t n
          if n == 0 then .ok e.word s1
          else
            let s2 := dropRc s1 s1.cur.core
            let s3 := if e.lo ≤ e.hi then dropL1Range s2 s2.cur.core e.lo e.hi else s2
            .ok e.word (if n == 3 then commitStream s3 e else s3)
    else if sharedHold s t n 0 then .wait .older
    else
      match queueWords s t n with
      | [] => .wait (.queueRead n)
      | w :: _ =>
        if olderWaiter s s.cur (queueSharers s.cur n) (.queueRead n) then .wait (.queueRead n)
        else
          match queuePoison s t n with
          | some off => .failAt .poison (BitVec.ofNat 64 off) s
          | none => .ok w (popShared s t n)

/-- A write to a queue register (R180): appends, or waits while it is full. -/
def writeQueue (n : Nat) (v : Word) (s : State) : Res Unit :=
  match s.strand with
  | none => .ok () s
  | some t =>
    let l := s.launch t.launch
    if !queueNamed l n then .fail .illegalOperand s
    else if sharedHold s t n (queueWords s t n).length then .wait .older
    else
      let ws := queueWords s t n
      if queueDepth l n ≤ ws.length || olderWaiter s s.cur (queueSharers s.cur n) (.queueWrite n) then
        .wait (.queueWrite n)
      else .ok () (pushShared s t n v)

/-! ## Sources and destinations -/

/-- Src(.) of a selector (R232, R255): x, k as 1 or 0, or a pop of q. -/
def readSel (sel : Sel) (s : State) : Res Word :=
  match sel with
  | .x n =>
    .ok (match s.strand with
      | some t => t.x n.val
      | none => 0) s
  | .k n =>
    .ok (match s.strand with
      | some t => if t.k n.val then 1 else 0
      | none => 0) s
  | .q n => readQueue n.val s
  | _ => .ok 0 s

/-- WriteD of a selector (R255): x, k as (v ≠ 0), or a push to q. -/
def writeSel (sel : Sel) (v : Word) (s : State) : Res Unit :=
  match sel with
  | .x n =>
    match s.strand with
    | some t => .ok () (s.setStrand (t.setX n.val v))
    | none => .ok () s
  | .k n =>
    match s.strand with
    | some t => .ok () (s.setStrand (t.setK n.val (v != 0)))
    | none => .ok () s
  | .q n => writeQueue n.val v s
  | _ => .ok () s

/-- The number of a register selector. -/
def selNum : Sel → Nat
  | .x n => n.val
  | .q n => n.val
  | .k n => n.val
  | .b n => n.val
  | .acc n => n.val
  | .ym n => n.val
  | .v n => n.val
  | .win n => n.val
  | .xm n => n.val
  | _ => 0

/-- An x operand of a selector in the present strand. -/
def xOf (t : Strand) (sel : Sel) : Word :=
  match sel with
  | .x n => t.x n.val
  | _ => 0

/-- A queue that a slot names and the launch has not declared: a decode check (R126, R236). -/
def undeclaredQueue (l : Launch) (f : Slot) : Bool :=
  [f.d, f.a, f.b, f.c].any fun sel =>
    match sel with
    | .q n => !queueNamed l n.val
    | _ => false

/-- IMM32 sign-extended (R233). -/
def sext32 (f : Slot) : Word := (f.imm.setWidth 32).signExtend 64

/-- IMM32 as a number. -/
def imm32 (f : Slot) : Nat := f.imm.toNat % 2 ^ 32

/-- A field of IMM32. -/
def immField (f : Slot) (lo n : Nat) : Nat := f.imm.toNat / 2 ^ lo % 2 ^ n

end Sys2Proof.Machine
end

