-- ==== Sys2Proof/Machine/Fetch.lean ====
section
/-! DEFINITION. Fetch: the lines of code that a strand executes, the checks of lines and of transfers (R226 to R228, R230), and
the check of a transfer's target by the group that makes it. -/

namespace Sys2Proof.Machine

/-- The number of a strand's line, and its slot. -/
def lineNumber (pc : Word) : Nat := pc.toNat / 64
def slotNumber (pc : Word) : Nat := pc.toNat % 64 % 8

/-- A transfer trap (R230): ADDR holds the target, and the record's PC names the group that made the transfer. -/
def badTarget (target src : Word) : TrapInfo := { cause := .badTarget, addr := some target, pc := some src }

/-- The bits of a transfer's target that are zero, and a slot number of 0 to 4 (R230). -/
def targetFormed (pc : Word) : Bool := field pc 56 8 == 0 && field pc 3 3 == 0 && decide (slotNumber pc ≤ 4)

/-- The 64 bytes of a line as the LLC holds them; a fault names the PC (log 34). A block-mapped page is not
fetched from (R153), and one whose region no running launch of its owner has declared is invalid (R79). -/
def readLine (w : Who) (pc : Word) (s : State) : Res Nat :=
  let va := lineNumber pc * 64
  let line : Res Nat :=
    match blockedOwner s va with
    | some o => .trap { cause := if regionDeclared s o va then .prot else .page, regionOwner := some o } s
    | none =>
      (llcRead w va 32 kFetch s).andThen fun lo s1 =>
        (readAt w (va + 32) 32 kFetch s1).andThen fun hi s2 => .ok (bytesToNat (lo ++ hi)) s2
  match line with
  | .trap t s1 => .trap { t with addr := some pc } s1
  | r => r

/-- A line put in the core's instruction cache. -/
def cacheLine (core line part data : Nat) (s : State) : State :=
  let c := s.core core
  let l : FetchLine := { line := line, part := part, data := BitVec.ofNat 512 data }
  s.setCore core { c with fetch := l :: c.fetch.filter fun x => x.line != line }

/-- A line read from the LLC and cached. -/
def loadLine (w : Who) (pc : Word) (s : State) : Res Nat :=
  (readLine w pc s).andThen fun d s1 => .ok d (cacheLine w.unit.core (lineNumber pc) (s1.partOf w.ctx) d s1)

/-- The line of a PC, from the instruction cache or the LLC; one whose parity fails is fetched once more (R228). -/
def fetchedLine (w : Who) (pc : Word) (checked : Bool) (s : State) : Res Nat :=
  let first : Res Nat :=
    match (s.core w.unit.core).fetch.find? fun l => l.line == lineNumber pc with
    | some l => .ok l.data.toNat s
    | none => loadLine w pc s
  first.andThen fun d s1 =>
    if checked || lineParityOk d then .ok d s1
    else
      (loadLine w pc s1).andThen fun d2 s2 => if lineParityOk d2 then .ok d2 s2 else .fail .lineParity s2

/-- The line at the strand's PC, after the transfer checks of R230, the X right, and the line checks of R228, which are
made each time a strand begins to execute in a line. -/
def fetchLine (t : Strand) (s : State) : Res Nat :=
  let w := curWho t s
  match t.transfer with
  | some src =>
    if !targetFormed t.pc then .trap (badTarget t.pc src) s
    else
      (checkRights w t.pc.toNat kFetch s).andThen fun _ s1 =>
        (fetchedLine w t.pc false s1).andThen fun d s2 =>
          if !lineTemplateOk d then .fail .badTemplate s2
          else if !lineT d (slotNumber t.pc) then .trap (badTarget t.pc src) s2
          else .ok d s2
  | none =>
    let checked := t.line == some (lineNumber t.pc)
    (checkRights w t.pc.toNat kFetch s).andThen fun _ s1 =>
      (fetchedLine w t.pc checked s1).andThen fun d s2 =>
        if checked || lineTemplateOk d then .ok d s2 else .fail .badTemplate s2

/-- A transfer to a target that is not formed as a PC, or whose slot has its T bit clear, traps in the group that makes it
(R230). A fetch that fails otherwise is a trap of the target's own group. -/
def transferFault (t : Strand) (target : Word) (s : State) : Option TrapInfo :=
  let w := curWho t s
  if !targetFormed target then some (badTarget target t.group)
  else
    match (checkRights w target.toNat kFetch s).andThen fun _ s1 => fetchedLine w target false s1 with
    | .ok d _ => if lineTemplateOk d && !lineT d (slotNumber target) then some (badTarget target t.group) else none
    | _ => none

end Sys2Proof.Machine
end

