-- ==== Sys2Proof/Machine/Ops.lean ====
section
/-! DEFINITION. The shared operations of instructions: issuing a slot, retiring it, waiting; and the ends of strands: taking
an exception (R81, R142 to R144), parking (R156), aborting a task, with the fate of its message and its records. -/

namespace Sys2Proof.Machine

/-- The outcome of a meaning. -/
abbrev Out := Host.Outcome State Fault Refusal

/-! ## Program counter (R230) -/

/-- Sequential flow by one slot: the next slot of the line, or slot 0 of the next line. -/
def nextSlot (pc : Word) : Word := if pc.extractLsb' 0 3 == 4#3 then pc + 60 else pc + 1

/-- The line address of a PC. -/
def lineOf (pc : Word) : Word := pc &&& ~~~(63 : Word)

/-- A code displacement (R233): lines from the current line, and the target slot. -/
def codeDisp (pc : Word) (f : Slot) : Word :=
  let lines : Word := ((f.imm.extractLsb' 3 29).signExtend 64)
  lineOf pc + 64 * lines + (f.imm.extractLsb' 0 3).setWidth 64

/-! ## Fields of the kernel header (R125) -/

def Launch.word (l : Launch) (i : Nat) : Word := l.header.getD i 0
def Launch.handlerCount (l : Launch) : Nat := field (l.word 1) 56 8 + 1
def Launch.rankCount (l : Launch) : Nat := field (l.word 1) 44 12 + 1
def Launch.gangSize (l : Launch) : Nat := field (l.word 1) 38 6 + 1
def Launch.mailboxLimit (l : Launch) : Nat := field (l.word 1) 32 6 + 1
def Launch.taskCount (l : Launch) : Nat := field (l.word 4) 48 16
def Launch.stepCount (l : Launch) : Nat := field (l.word 4) 36 12
def Launch.budget (l : Launch) : Nat := field (l.word 9) 0 40
def Launch.spillLimit (l : Launch) : Nat := field (l.word 10) 32 32
def Launch.overflowLimit (l : Launch) : Nat := field (l.word 10) 0 32
def Launch.issueCap (l : Launch) : Nat := field (l.word 11) 32 11

/-! ## Engine work of a task -/

/-- Matrix commands of a strand that have not completed, follow-on commands of its CPYMMs included (R335, R340). -/
def matrixWork (s : State) (f : Focus) (t : Strand) : Bool :=
  ((strandCommands s f t).any fun c => isMatrixOp c.opcode)
    || (s.bench f.bench).copies.any fun c =>
        decide (c.kind = .cpymm) && decide (c.issuer = f) && c.launch == t.launch && c.task == t.message.key

/-- Matrix commands of a strand that have not posted: those, and words that wait for room in q1 (R179, R182). -/
def pendingMatrix (s : State) (f : Focus) (t : Strand) : Bool := matrixWork s f t || !(t.qPending.get 1 []).isEmpty

/-- SFU requests of a strand that have not been answered. -/
def pendingSfu (s : State) (f : Focus) : Bool := (s.core f.core).sfu.any fun r => r.hc == f.hc

/-- Walker runs of a strand that have not completed (R348). -/
def runWork (s : State) (f : Focus) (t : Strand) : Bool :=
  let b := s.bench f.bench
  let mine (i : Focus) (l k : Nat) : Bool := decide (i = f) && l == t.launch && k == t.message.key
  (b.jobs.any fun j =>
    match j with
    | .run r => mine r.issuer r.launch r.task
    | .load .. => false)
    || (match b.run with
        | some r => mine r.issuer r.launch r.task
        | none => false)

/-- Walker runs of a strand that have not posted: those, and words that wait for room in q4 (R179, R182). -/
def pendingRuns (s : State) (f : Focus) (t : Strand) : Bool := runWork s f t || !(t.qPending.get 4 []).isEmpty

/-- Loads of the walker's store that a strand has queued (R106, R348). -/
def pendingLoads (s : State) (f : Focus) (t : Strand) : Bool :=
  (s.bench f.bench).jobs.any fun j =>
    match j with
    | .run _ => false
    | .load i _ _ l k => decide (i = f) && l == t.launch && k == t.message.key

/-- .nr atomics of a strand that have been accepted and not performed (R109). -/
def pendingNr (s : State) (f : Focus) (t : Strand) : Bool :=
  s.mem.nr.any fun n => decide (n.issuer = f) && n.launch == t.launch && n.task == t.message.key

/-- Copies, GETXs and PLACEXs of a strand that have not posted. -/
def pendingCopies (s : State) (f : Focus) (t : Strand) : Bool :=
  (s.bench f.bench).copies.any fun c => decide (c.issuer = f) && c.launch == t.launch && c.task == t.message.key

/-- Collective posts of a strand that wait at the engine (R298). -/
def pendingPosts (s : State) (f : Focus) (t : Strand) : Bool :=
  (s.launch t.launch).collectives.any fun c => c.2.waiting.any fun p => decide (p.1 = f) && p.2.2 == t.message.key

/-- A batch in progress for a strand (R187). -/
def pendingBatch (s : State) (f : Focus) : Bool :=
  (s.bench f.bench).sessions.any fun e => decide (e.2.st = .busy) && e.2.requester == some f && !e.2.posted

/-- An engine command of a task is outstanding (R124, R144). -/
def taskEngineWork (s : State) (bench launch key : Nat) : Bool :=
  let b := s.bench bench
  ((upFrom (bench * 8) 8).any fun k => (s.core k).inFlight.any fun c => c.launch == launch && c.task == key)
    || (b.copies.any fun c => c.launch == launch && c.task == key)
    || (b.jobs.any fun j =>
        match j with
        | .run r => r.launch == launch && r.task == key
        | .load _ _ _ l k => l == launch && k == key)
    || (match b.run with
        | some r => r.launch == launch && r.task == key
        | none => false)
    || ((s.launch launch).collectives.any fun c => c.2.waiting.any fun p => p.2.2 == key)
    || (b.sessions.any fun e => decide (e.2.st = .busy) && e.2.launch == launch && e.2.task == key && !e.2.posted)

/-! ## Strands of a task -/

/-- A focus from the key of a hardware context. -/
def focusOfKey (k : Nat) : Focus := { bench := k / 64, seat := k / 8 % 8, hc := k % 8 }

/-- The live strands of a task, in seat order. -/
def taskStrands (s : State) (launch key : Nat) : List Focus :=
  (s.hcs.filter fun e =>
      match e.2.strand with
      | some t => t.launch == launch && t.message.key == key
      | none => false).map fun e => focusOfKey e.1

/-- The message identifier and the placement of a strand's record. -/
def strandPlacement (s : State) (f : Focus) (recipient : Nat) : Word :=
  match s.strandAt f with
  | some t => placementWord recipient t.rank f
  | none => placementWord recipient 0 f

/-- A session whose requester ends goes back to its committed copy (R187, R188); its lock entries are released. -/
def rollbackSessions (s : State) (f : Focus) : State :=
  let b := s.bench f.bench
  let mine := b.sessions.filter fun e => decide (e.2.st = .busy) && e.2.requester == some f
  mine.foldl
    (fun s0 e =>
      let s := releaseHolds s0 e.2.launch e.2.blocks
      let x := s.bench f.bench
      let back := { e.2 with st := .idle, pos := e.2.committed, requester := none, posted := false, blocks := [] }
      releaseLocks (s.setBench f.bench { x with sessions := x.sessions.put e.1 back }) f.bench
        fun k => decide (k.op = .session e.1)) s

/-- Entries that ready and spawned tasks may use: 256 are kept for completion and system work (R134). -/
def poolLimit : Nat := 4096 - 256

/-- Tasks in the order in which they became ready: the oldest stand in the pool, the next in the memory-backed queue, and the
rest wait (R134, log 86). -/
def Launch.poolTasks (l : Launch) (tasks : List Message) : Launch :=
  let inPool := poolLimit - l.poolReserved
  let inSpill := l.spillLimit - l.spillReserved
  { l with pool := tasks.take inPool, spill := (tasks.drop inPool).take inSpill, waiting := (tasks.drop inPool).drop inSpill }

/-- All tasks that wait to leave the pool, oldest first. -/
def Launch.readyTasks (l : Launch) : List Message := l.pool ++ l.spill ++ l.waiting

/-- Queued tasks return to the pool in order while it has entries, and those that waited follow them (R134). -/
def refillPool (launch : Nat) (s : State) : State :=
  let l := s.launch launch
  s.setLaunch launch (l.poolTasks l.readyTasks)

/-- Pool and queue entries reserved by a strand's spawns (R283), which are given back. -/
def releaseSpawns (s : State) (t : Strand) : State :=
  let reserved (spilled : Bool) : Nat := (t.sends.filter fun e =>
    match e with
    | .spawn _ p => p == spilled
    | _ => false).length
  let l := s.launch t.launch
  refillPool t.launch (s.setLaunch t.launch
    { l with poolReserved := l.poolReserved - reserved false, spillReserved := l.spillReserved - reserved true })

/-- The strand on a hardware context holds the claim: that of an aborted strand stays until its matrix command in progress
is over (R142, R168). -/
def Core.holds (c : Core) (hc : Nat) : Bool := c.claim == some hc && !c.matrix.any (·.aborted)

/-- The claim is given up; the link control state lives no longer, and the inbound link queue is emptied (R166, R177). -/
def unclaimed (c : Core) : Core :=
  { c with claim := none, linkIn := false, linkFwd := false, linkFeed := false, linkQueue := [] }

/-- The claim is released if the strand holds it (R168). -/
def releaseClaim (s : State) (f : Focus) : State :=
  let c := s.core f.core
  if c.holds f.hc then s.setCore f.core (unclaimed c) else s

/-- A strand leaves its hardware context: claim, session batches and TOUCH holds are released, except holds that a park
carries away, and q0 to q5 go with it, with the words that waited for room there (R112, R166, R168, R180, R187). -/
def removeStrand (s : State) (f : Focus) (keepTouches : Bool) : State :=
  match s.strandAt f with
  | none => s
  | some t =>
    let s0 := (t.qPending.flatMap (·.2)).foldl entryPosted s
    let s1 := rollbackSessions (releaseClaim s0 f) f
    let s2 := if keepTouches then s1 else t.touches.foldl (fun s gb => releaseHold s t.launch gb) s1
    s2.setStrandAt f none

/-- A matrix command in progress completes after an abort (R142); a store that is being made does not. -/
def VecCmd.outlives (v : VecCmd) : Bool := v.opcode == 0xD0 || v.opcode == 0xD1

/-- The commands and SFU requests of a strand leave its core; an MMA in progress stays, to be discarded at its end (R142). -/
def dropCommands (c : Core) (f : Focus) (t : Strand) : Core :=
  { c with
    commands := c.commands.filter fun v => !v.isOf f t
    vector := c.vector.filter fun v => !v.isOf f t
    matrix := (c.matrix.filter fun v => !v.isOf f t || v.outlives).map fun v =>
      if v.isOf f t then { v with aborted := true } else v
    sfu := c.sfu.filter fun r => r.hc != f.hc }

/-- What an abort does to one live strand beyond removing it (R142): its commands are dropped with their lock entries and
holds, and its reservations are given back. -/
def abortStrand (s : State) (f : Focus) (keepTouches : Bool) : State :=
  match s.strandAt f with
  | none => s
  | some t =>
    let c := s.core f.core
    let c1 := dropCommands c f t
    let gone := (strandCommands s f t).filter fun v => !c1.inFlight.any fun x => x.key == v.key
    let s1 := releaseSpawns (s.setCore f.core c1) t
    let s2 := releaseLocks s1 f.bench fun k => gone.any fun v => decide (k.op = .command v.key)
    removeStrand (releaseHolds s2 t.launch (gone.flatMap (·.blocks))) f keepTouches

/-- Where a barrier object stands in bench memory (R293). -/
def barrierOffset (n : Nat) : Nat := Config.barrierBase + 32 * n

/-- Copies, GETXs and PLACEXs of an aborted task are cancelled, and barrier objects whose last BARINIT was the task's are
reset (R142). -/
def abortEngines (s : State) (bench launch key : Nat) : State :=
  let b := s.bench bench
  let mine := b.barriers.filter fun e => e.2.initTask == some (launch, key)
  s.setBench bench
    { b with
      poison := mine.foldl (fun p e => cleanWords p (barrierOffset e.1) 32) b.poison
      copies := b.copies.map fun c => if c.launch == launch && c.task == key then { c with cancelled := true } else c
      barriers := b.barriers.mapAll fun _ o => if o.initTask == some (launch, key) then {} else o }

/-! ## The fate of a message -/

/-- A message in its mailbox, by rank and key. -/
def Launch.boxMessage (l : Launch) (rank key : Nat) : Option Message := (l.mailboxes.get rank []).find? fun m => m.key == key

/-- A message leaves its mailbox. -/
def dropMessage (s : State) (launch rank key : Nat) : State :=
  let l := s.launch launch
  s.setLaunch launch { l with mailboxes := l.mailboxes.put rank ((l.mailboxes.get rank []).filter fun m => m.key != key) }

/-- A capsule's body is freed in the store of its bench (R203, R206). -/
def freeBody (s : State) (bench : Nat) (m : Message) : State :=
  if m.capsule.isSome then
    let b := s.bench bench
    s.setBench bench { b with capsules := b.capsules - 1 }
  else s

/-- A message goes back to the head of its mailbox (R135, R195), changed. -/
def requeueMessage (s : State) (launch rank key : Nat) (f : Message → Message) : State :=
  let l := s.launch launch
  match l.boxMessage rank key with
  | none => s
  | some m =>
    let rest := (l.mailboxes.get rank []).filter fun m => m.key != key
    let back := f { m with active := false, attached := false, req := true }
    s.setLaunch launch { l with mailboxes := l.mailboxes.put rank (back :: rest) }

/-- A task is reported failed (R141). Its message keeps its mailbox slot until the task ends (R124, R135). -/
def failLaunch (s : State) (launch : Nat) : State := s.setLaunch launch { s.launch launch with failed := true }

/-- A message is removed from its mailbox, with its capsule body. -/
def removeMessage (s : State) (bench launch rank key : Nat) : State :=
  match (s.launch launch).boxMessage rank key with
  | none => s
  | some m => freeBody (dropMessage s launch rank key) bench m

/-- A task's record of how it ended. -/
def setFate (s : State) (launch key : Nat) (fate : TaskFate) : State :=
  let l := s.launch launch
  s.setLaunch launch { l with tasks := l.tasks.change key {} fun t => { t with fate := fate, live := 0 } }

/-! ## Aborts and their records -/

/-- How an abort disposes of the message, and what its records say. -/
structure AbortPlan where
  /-- the strand whose record comes first, and its cause -/
  first : Focus
  info : TrapInfo
  /-- the cause of every other live strand's record -/
  others : Cause := .gangAbort
  records : Bool := true
  fail : Bool := false
  /-- raise the expiry count (R141) -/
  expire : Bool := false
  /-- attach to a lock entry instead of requeueing (R114) -/
  attach : Option Nat := none
  deriving DecidableEq, Repr

/-- A trap as a record reports it: word 5 of a capsule step's carries CID and CURSOR (R207, log 82). -/
def stepReport (t : TrapInfo) (m : Message) : TrapInfo :=
  match m.capsule with
  | some c => { t with detail := capsuleWord c }
  | none => t

/-- The record of one strand of an aborted task, delivered; a class-1 record that requeues holds the rank (R66). -/
def strandRecord (s : State) (f : Focus) (t : TrapInfo) (fl : RecFlags) (holds : Bool) : State :=
  match s.strandAt f with
  | none => s
  | some st =>
    let l := s.launch st.launch
    let recipient := recipientOf s t l.ctx
    let key := s.ticket
    let rec_ := mkRecord s key (stepReport t st.message) l.ctx recipient fl (msgIdWord st.message) (t.pc.getD st.group)
      (strandPlacement s f recipient)
    let s1 := deliverRecord s.nextTicket (fnFor s recipient) rec_
    if holds && causeClass t.cause == 1 && decide (t.cause ≠ .rangeLock) then
      let l1 := s1.launch st.launch
      s1.setLaunch st.launch { l1 with rankHolds := { rank := st.message.dest, record := key } :: l1.rankHolds }
    else s1

/-- The whole task of a strand is aborted (R142, R143): records, then engines, strands and the message. -/
def abortTask (s : State) (p : AbortPlan) : State :=
  match s.strandAt p.first with
  | none => s
  | some t =>
    let launch := t.launch
    let key := t.message.key
    let rank := t.message.dest
    let bench := p.first.bench
    let live := taskStrands s launch key
    let expiry := if p.expire then min 4 (t.message.expiry + 1) else t.message.expiry
    let fail := p.fail || (p.expire && expiry == 4)
    let fl : RecFlags := { requeued := !fail, failed := fail, expiry := if p.expire then expiry else 0 }
    let s1 :=
      if p.records then
        let s0 := strandRecord s p.first p.info fl (!fail)
        (live.filter (· != p.first)).foldl
          (fun s f => strandRecord s f { cause := p.others } { fl with sibling := true } false) s0
      else s
    let s2 := live.foldl (fun s f => abortStrand s f false) (abortEngines s1 bench launch key)
    let s3 :=
      match p.attach with
      | some lock =>
        let b := s2.bench bench
        let l := s2.launch launch
        let s3 := s2.setBench bench { b with
          locks := b.locks.map fun e => if e.key == lock then { e with attached := e.attached ++ [(launch, rank, key)] } else e }
        let mark (m : Message) : Message :=
          if m.key == key then { m with attached := true, active := false, req := true } else m
        s3.setLaunch launch { l with mailboxes := l.mailboxes.put rank ((l.mailboxes.get rank []).map mark) }
      | none =>
        if fail then failLaunch s2 launch
        else requeueMessage s2 launch rank key fun m => { m with expiry := expiry }
    setFate s3 launch key (if p.attach.isSome then .attached else if fail then .failed else .requeued)

/-- SYS.CAUSE and SYS.TVAL of a trap (R81, R304). -/
def noteTrap (s : State) (f : Focus) (t : TrapInfo) : State :=
  let h := s.hc f.key
  s.setHc f.key { h with cause := BitVec.ofNat 8 (causeCode t.cause), tval := t.addr.getD 0 }

/-- The launch reports RANGELOCK as well as replaying it (R114, R125). -/
def Launch.reportsLocks (l : Launch) : Bool := (l.header.getD 0 0).getLsbD 23

/-- TAKING AN EXCEPTION (R81, R114, R142, R143, R201, R264): SYS.CAUSE and SYS.TVAL are written, the strand and its gang end,
the message is requeued, failed or attached, and the records are delivered. A lock entry that has been released while the trap
was to come replays the message at once. -/
def takeTrap (s : State) (f : Focus) (t : TrapInfo) : State :=
  match s.strandAt f with
  | none => s
  | some st =>
    let l := s.launch st.launch
    let s1 := noteTrap s f t
    if t.cause = .rangeLock then
      let held := t.lock.filter fun k => (s.bench f.bench).locks.any fun e => e.key == k
      let s2 := abortTask s1 { first := f, info := t, records := l.reportsLocks, attach := held }
      countEvent s2 st.launch f.bench 8 1
    else
      let entry := st.message.cls == 1 && st.firstFetch && (causeClass t.cause == 0 || decide (t.cause = .prot))
      abortTask s1 { first := f, info := t, fail := t.fails || entry }

/-- Slots of a region that parked messages fill (R157). -/
def parkedCount (l : Launch) (region : Nat) : Nat :=
  l.blocks.foldl (fun n e => if e.1 / 2 ^ 28 == region then n + e.2.queue.length + e.2.snapshot.length else n) 0
    + (l.deviceHeld.filter fun m => match m.snapshot with
        | some gb => gb.1 == region
        | none => false).length

/-- PARKING (R156 to R158): the task is aborted without records, and its message joins the block's queue, or its snapshot
while the block is FILLING, with the strand's TOUCH holds; where the region is full, it goes back to its mailbox marked
deferred. A parked capsule gives its store body back, and takes one again when it returns (log 97). -/
def takePark (s : State) (f : Focus) (region block : Nat) : State :=
  match s.strandAt f with
  | none => s
  | some t =>
    let launch := t.launch
    let key := t.message.key
    let rank := t.message.dest
    let live := taskStrands s launch key
    let l0 := s.launch launch
    let full := match l0.regions[region]? with
      | some g => decide (g.pcap ≤ parkedCount l0 region)
      | none => true
    let s1 := live.foldl (fun s o => abortStrand s o (o == f && !full)) (abortEngines s f.bench launch key)
    let s2 := countEvent s1 launch f.bench 7 1
    if full then
      let s3 := requeueMessage s2 launch rank key fun m => { m with defer := true, deferRegion := region }
      setFate s3 launch key .requeued
    else
      let holds := t.touches.map fun gb => { strand := t.gangIndex, region := gb.1, block := gb.2 : CarriedHold }
      match (s2.launch launch).boxMessage rank key with
      | none => setFate s2 launch key .parked
      | some m =>
        let m1 := { m with active := false, req := true, holds := holds, snapshot := none, entered := s2.ticket }
        let s3 := (freeBody (dropMessage s2 launch rank key) f.bench m).nextTicket
        let s4 := s3.changeBlock launch (region, block) fun b =>
          match b.st with
          | .filling => { b with snapshot := b.snapshot ++ [m1], snap := b.snap + 1 }
          | .absent => { b with st := .waiting, queue := b.queue ++ [m1], age := if b.queue.isEmpty then 0 else b.age }
          | _ => { b with queue := b.queue ++ [m1], age := if b.queue.isEmpty then 0 else b.age }
        setFate s4 launch key .parked

/-- The block of a park that was to come has become RESIDENT: no message parks on it (R160), and the message goes back to its
mailbox, to run again (log 29). -/
def missPark (s : State) (f : Focus) : State :=
  match s.strandAt f with
  | none => s
  | some t =>
    let launch := t.launch
    let key := t.message.key
    let live := taskStrands s launch key
    let s1 := live.foldl (fun s o => abortStrand s o false) (abortEngines s f.bench launch key)
    setFate (requeueMessage s1 launch t.message.dest key fun m => m) launch key .requeued

/-! ## Issuing a slot -/

/-- Where a slot leaves the PC. -/
inductive Flow where
  | seq
  | jump (target : Word)
  | ended
  deriving DecidableEq, Repr

/-- A context begins to wait, or goes on waiting with the ticket it has (R139, R180). -/
def beginWait (s : State) (w : WaitFor) (slot : Option Slot) : State :=
  match s.strand with
  | none => s.setIssue (.waiting w)
  | some t =>
    if (t.wait.map (·.why)) = some w then s.setIssue (.waiting w)
    else
      (s.setStrand
        { t with wait := some { why := w, ticket := s.ticket, clock := s.curCore.cycle, slot := slot }, gangWait := 0
        }).nextTicket.setIssue (.waiting w)

/-- A slot retires: its wait is over, the PC moves on, and the launch counts it (R230, R306). -/
def retire (s : State) (go : Flow) : State :=
  match s.strand with
  | none => s.setIssue .ended
  | some t =>
    let t1 := { t with wait := none, firstFetch := false }
    let t2 :=
      match go with
      | .jump target => { t1 with pc := target, group := target, transfer := some t.group, line := none }
      | _ =>
        let pc := nextSlot t.pc
        { t1 with pc := pc, group := pc, line := if lineOf pc == lineOf t.pc then t.line else none }
    countEvent (s.setStrand t2) t.launch s.cur.bench 1 1 |>.setIssue .retired

/-- The counts of a launch, what it has spent of its cap, and the misses at the mesh port (R83, R125, R306). -/
def keepCounts (s s1 : State) (launch : Nat) : State :=
  let l := s1.launch launch
  let b := s.bench s.cur.bench
  let misses := (s1.bench s.cur.bench).misses
  let s2 :=
    if l.counters = (s.launch launch).counters && l.portSpent = (s.launch launch).portSpent then s
    else s.setLaunch launch { s.launch launch with counters := l.counters, portSpent := l.portSpent }
  if misses = b.misses then s2 else s2.setBench s.cur.bench { b with misses := misses }

/-- Events that count the requests of an access: L1 hits and misses, misses merged, tokens borrowed (R306). -/
def trafficEvents : List Nat := [3, 4, 5, 10]

/-- What a pair that traps or parks leaves of its accesses: their charges and the counts of their requests (R87, R306). -/
def keepTraffic (s s1 : State) (launch : Nat) : State :=
  let l := s1.launch launch
  let counters := trafficEvents.foldl
    (fun (t : Table Word) e =>
      let i := s.cur.bench * 64 + e
      let n := l.counters.get i 0
      if t.get i 0 = n then t else t.put i n) (s.launch launch).counters
  let s2 := keepCounts s (s1.setLaunch launch { l with counters := counters }) launch
  { s2 with ctl := { s.ctl with spending := s1.ctl.spending, loans := s1.ctl.loans }, fresh := s1.fresh }

/-- What a slot that traps or parks leaves of its own: parts of a store, in memory and in the core's L1, cached translations,
charges and counts. Queues, sessions and registers are as the group found them (R74, R82, R249, R306). -/
def onlyMemory (s s1 : State) : State :=
  let launch := match s.strand with
    | some t => t.launch
    | none => 0
  let s2 : State := { keepCounts s s1 launch with mem := s1.mem, ctl := s1.ctl, fresh := s1.fresh }
  let lines := (s1.core s.cur.core).l1
  if lines = (s.core s.cur.core).l1 then s2 else s2.setCore s.cur.core { s.core s.cur.core with l1 := lines }

/-- A strand waits for a context operation, and its task cannot end before that is over (R51, R299). -/
def inCtxOp (s : State) (f : Focus) : Bool :=
  match s.strandAt f with
  | some t =>
    match t.wait with
    | some { why := .ctxOp _, .. } => true
    | _ => false
  | none => false

/-- The present strand's end is still to come: its older vector memory commands are not done (R81, R309), or a sibling performs a
context operation (R51, log 108). -/
def endWaits (s : State) (t : Strand) : Bool :=
  pendingVecMem s s.cur t || (taskStrands s t.launch t.message.key).any fun f => f != s.cur && inCtxOp s f

/-- A trap ends a strand once its older vector memory commands are done, since they are performed before it (R81, R309), and its
task may end. Until then the strand waits with its trap. -/
def trapAfter (slot : Option Slot) (t : Strand) (i : TrapInfo) (s : State) : State :=
  if endWaits s t then beginWait s (.trap i) slot else (takeTrap s s.cur i).setIssue (.trapped i)

/-- A trap of a slot. -/
def slotTrap (f : Slot) (t : Strand) (i : TrapInfo) (s s1 : State) : State := trapAfter (some f) t i (onlyMemory s s1)

/-- The present strand takes a TOUCH hold on a RESIDENT block, unless it holds it or has four (R158). -/
def touchBlock (s : State) (gb : Nat × Nat) : State :=
  match s.strand with
  | none => s
  | some t =>
    if t.touches.contains gb || decide (4 ≤ t.touches.length) then s
    else
      (s.changeBlock t.launch gb fun b => { b with hold := b.hold + 1 }).setStrand { t with touches := t.touches ++ [gb] }

/-- Blocks on which a slot has taken TOUCH holds. -/
def newTouches (s s1 : State) : List (Nat × Nat) :=
  match s.strand, s1.strand with
  | some t, some t1 => t1.touches.filter fun gb => !t.touches.contains gb
  | _, _ => []

/-- A park with the TOUCH holds that its slot has taken (R155, R158). -/
def parkHolding (held : List (Nat × Nat)) (g b : Nat) (s : State) : State :=
  (takePark (held.foldl touchBlock s) s.cur g b).setIssue (.parked g b held)

/-- A park is taken as a late fault is (R156): once the strand's older vector memory commands are done. Until then the strand waits
with its park. -/
def parkAfter (slot : Option Slot) (t : Strand) (held : List (Nat × Nat)) (g b : Nat) (s : State) : State :=
  if endWaits s t then beginWait (held.foldl touchBlock s) (.park g b held) slot else parkHolding held g b s

/-- A strand's own end, for which it has waited: its trap, or its park, unless the block has become RESIDENT. -/
def endWaiting (t : Strand) (w : WaitFor) (s : State) : State :=
  match w with
  | .trap i => trapAfter none t i s
  | .park g b held =>
    if endWaits s t then beginWait s w none
    else if ((s.launch t.launch).block (g, b)).st = .resident then (missPark s s.cur).setIssue (.parked g b held)
    else parkHolding [] g b s
  | _ => s

/-- A park of a slot. -/
def slotPark (f : Slot) (t : Strand) (g b : Nat) (s s1 : State) : State :=
  parkAfter (some f) t (newTouches s s1) g b (onlyMemory s s1)

/-- ISSUING A SLOT of the strand that State.cur names. A false guard only moves the PC (R232). -/
def issue (f : Slot) (s : State) (body : Strand → State → Res Flow) : State :=
  match s.strand with
  | none => s.setIssue .none
  | some t =>
    if !t.guard f then retire s .seq
    else
      match body t s with
      | .ok .ended s1 => s1.setIssue .ended
      | .ok .seq s1 => retire s1 .seq
      | .ok (.jump target) s1 =>
        match transferFault t target s with
        | some i => slotTrap f t i s s
        | none => retire s1 (.jump target)
      | .wait w => beginWait s w (some f)
      | .trap i s1 => slotTrap f t i s s1
      | .park g b s1 => slotPark f t g b s s1

/-- A slot whose body gives a value to D (R249). -/
def issueD (f : Slot) (s : State) (body : Strand → State → Res Word) : State :=
  issue f s fun t s0 => (body t s0).andThen fun v s1 => (writeSel f.d v s1).andThen fun _ s2 => .ok .seq s2

/-- The order is that of a release (R103). -/
def isRelease (o : Order) : Bool := decide (o = .rel) || decide (o = .ar) || decide (o = .sc)

/-- Traffic of a launch's collective steps that the peer package has not acknowledged (R100, log 69). -/
def sysPending (s : State) (launch : Nat) : Bool :=
  !(s.launch launch).steps.isEmpty && s.links.any fun e => e.2.up && !(e.2.replay.isEmpty && e.2.outbox.isEmpty)

/-- A release of the local spaces, or of a page where its order is honoured, waits until the strand's older accesses have been
performed at its scope (R103, R105, R100). -/
def orderHold (t : Strand) (o : Order) (sc : Scope) (s : State) : Res Unit :=
  if isRelease o && (pendingVecMem s s.cur t || (decide (sc = .sys) && sysPending s t.launch)) then .wait .older else .ok () s

/-- A release of global bytes: on UN pages .rel and .ar are performed as .rlx (R105). -/
def pageHold (t : Strand) (o : Order) (sc : Scope) (va n : Nat) (need : Kind) (s : State) : Res Unit :=
  if isRelease o then
    (checkParts (curWho t s) (parts va n) need s).andThen fun ords s1 =>
      if ords.any (isReleaseOn o) then orderHold t o sc s1 else .ok () s1
  else .ok () s

/-- A younger access waits for an older vector memory command that it overlaps (R311). -/
def afterVecMem (t : Strand) (sp : LockSpace) (lo n : Nat) (s : State) : Res Unit :=
  if overlapsVecMem s s.cur t sp lo (lo + n - 1) then .wait .older else .ok () s

/-- The store-hold rule for one store or atomic (R81, R309, R311): it waits for the strand's older vector memory commands
that may still fault or that it overlaps. -/
def writeHold (t : Strand) (sp : LockSpace) (lo n : Nat) (s : State) : Res Unit :=
  if unresolvedVecMem s s.cur t then .wait .older else afterVecMem t sp lo n s

/-- The store-hold rule for what is a release over classes G and L as well: a send or an engine command waits until the
strand's older vector memory accesses have been made (R81, R110). -/
def storeHold (t : Strand) (s : State) : Res Unit := if pendingVecMem s s.cur t then .wait .older else .ok () s

/-! ## The range-lock tables (R112) -/

/-- Two ranges of one memory share a byte, and one of them is a destination. -/
def Span.clash (a b : Span) : Bool :=
  decide (a.space = b.space) && (a.dest || b.dest) && decide (a.lo ≤ b.hi) && decide (b.lo ≤ a.hi)

/-- The range of an entry of the table. -/
def Lock.span (e : Lock) : Span := { space := e.space, lo := e.lo, hi := e.hi, dest := e.dest }

/-- Some ranges of two operations clash. -/
def spansClash (xs ys : List Span) : Bool := xs.any fun a => ys.any a.clash

/-- The table of a bench takes the ranges now: no entry conflicts, and enough are free. -/
def lockFree (s : State) (bench : Nat) (spans : List Span) : Bool :=
  let x := s.bench bench
  !spansClash spans (x.locks.map Lock.span) && decide (x.locks.length + spans.length ≤ 32)

/-- The ranges that an operation registers in the table of one bench. -/
def spansAt (bench : Nat) (wants : List (Nat × Span)) : List Span := (wants.filter fun w => w.1 == bench).map (·.2)

/-- Every table takes the ranges of an operation now. -/
def tablesFree (s : State) (wants : List (Nat × Span)) : Bool :=
  ((wants.map (·.1)).eraseDups).all fun b => lockFree s b (spansAt b wants)

/-- Operations that wait at registration, other than that of one hardware context: a strand's instruction and the start of a
collective step, each with the ticket at which it began and its ranges. -/
def registrations (s : State) (self : Option Nat) : List (Nat × List (Nat × Span)) :=
  (s.hcs.filterMap fun e =>
    if some e.1 == self then none
    else
      e.2.strand.bind fun t => match t.wait with
        | some { why := .register wants, ticket := n, .. } => some (n, wants)
        | _ => none)
    ++ s.launches.flatMap fun e => if e.2.stopped then [] else e.2.collectives.filterMap fun c => c.2.waitsLock

/-- An operation that waits comes before a later one: their ranges conflict, or it waits for entries of a table that the later
one would fill (R112). -/
def comesFirst (s : State) (others wants : List (Nat × Span)) : Bool :=
  (others.any fun o => wants.any fun w => w.1 == o.1 && w.2.clash o.2)
    || wants.any fun w => decide (32 < (s.bench w.1).locks.length + (spansAt w.1 others).length)

/-- An operation that began to wait before a ticket, and comes before one with these ranges, is served first. -/
def registersLater (s : State) (self mine : Option Nat) (wants : List (Nat × Span)) : Bool :=
  (registrations s self).any fun r => comesFirst s r.2 wants && mine.all fun m => decide (r.1 < m)

/-- One entry of a table. -/
def addLock (op : LockOp) (launch task : Nat) (s : State) (w : Nat × Span) : State :=
  let x := s.bench w.1
  let e : Lock :=
    { key := s.ticket, space := w.2.space, lo := w.2.lo, hi := w.2.hi, dest := w.2.dest, launch := launch, task := task, op := op }
  (s.setBench w.1 { x with locks := x.locks ++ [e] }).nextTicket

/-- The entries of one operation. -/
def addLocks (s : State) (wants : List (Nat × Span)) (op : LockOp) (launch task : Nat) : State :=
  wants.foldl (addLock op launch task) s

/-- The ranges of the present strand's operation are registered, or it waits, in issue order among those that conflict. -/
def register (t : Strand) (wants : List (Nat × Span)) (op : LockOp) (s : State) : Res Unit :=
  if wants.isEmpty then .ok () s
  else if !tablesFree s wants || registersLater s (some s.cur.key) (waitTicket s s.cur.key (.register wants)) wants then
    .wait (.register wants)
  else .ok () (addLocks s wants op t.launch t.message.key)

end Sys2Proof.Machine
end

