-- ==== Sys2Proof/Machine/Flags.lean ====
section
/-! DEFINITION. Condition computations and the flags of the FCR (R215, R217, R254, R259). -/

namespace Sys2Proof.Machine

/-- The integer conditions of CMP, CMPI and WCMP by their code (R254). -/
def intCond (m : Nat) (a b : Word) : Bool :=
  match m with
  | 0 => a == b
  | 1 => a != b
  | 2 => a.slt b
  | 3 => a.sle b
  | 4 => b.slt a
  | 5 => b.sle a
  | 6 => a.ult b
  | 7 => a.ule b
  | 8 => b.ult a
  | _ => b.ule a

/-- The floating conditions of FCMP by their code (R259). -/
def floatCond (m : Nat) : FpCond :=
  match m with
  | 0 => .eq | 1 => .ne | 2 => .lt | 3 => .le | 4 => .gt | 5 => .ge | 6 => .uno | _ => .ord

/-- Flags ORed into the present strand's FCR (R217). -/
def orFlags (fl : Flags) (s : State) : State :=
  match s.strand with
  | some t => s.setStrand { t with fcr := t.fcr ||| fl.bits }
  | none => s

/-- Flags ORed into the FCR of the strand on a hardware context. -/
def orFlagsAt (f : Focus) (fl : Flags) (s : State) : State :=
  match s.strandAt f with
  | some t => s.setStrandAt f (some { t with fcr := t.fcr ||| fl.bits })
  | none => s

/-- The writable bits of the FCR (R215). -/
def fcrMask : Word := 0x1F3E

/-- The flag bits of the FCR. -/
def fcrFlagMask : Word := 0x1F00

end Sys2Proof.Machine
end

