-- ==== Sys2Proof/Machine/MemoryInstr.lean ====
section
/-! DEFINITION. Memory instructions, opcodes 0x58 to 0x5F (R265 to R273, FENCE R106), and the capsule buffer as a local
space (R203, R205). -/

namespace Sys2Proof.Machine

/-- The effective address (R265). -/
def effAddr (t : Strand) (f : Slot) : Word := xOf t f.a + sext32 f

/-- Bytes of an access of a TYPE. -/
def tyBytes (t : Ty) : Nat := tyBits t / 8

/-- .sc at .sys is refused before any part is performed (R101). -/
def scopeOk (f : Slot) (s : State) : Res Unit :=
  if f.order = .sc && f.scope = .sys then .fail .scScope s else .ok () s

/-! ## The capsule buffer -/

/-- Fields of a capsule header (R204). -/
def capCount (c : Capsule) : Nat := field c.header 22 6
def capCursor (c : Capsule) : Nat := field c.header 16 6
def capTileBytes (c : Capsule) : Nat := 128 * (field c.header 6 6 + 1)
def capId (c : Capsule) : Nat := field c.header 40 24

/-- A CAP_ITIN trap carries CID and CURSOR in word 5 (R38, R287). -/
def capTrap (c : Capsule) : TrapInfo :=
  { cause := .capItin, detail := capsuleWord c }

/-- An access to `cap` lies within the header and entries, or within the tile, which adjoins a full itinerary (R73, R203). -/
def capInside (c : Capsule) (off n : Nat) : Bool :=
  decide (off + n ≤ 8 + 8 * capCount c)
    || ((decide (0x108 ≤ off) || capCount c == 32) && decide (off + n ≤ 0x108 + capTileBytes c))

/-- The byte at an offset of `cap`. -/
def capByte (c : Capsule) (off : Nat) : Byte :=
  if off < 8 then BitVec.ofNat 8 (c.header.toNat / 256 ^ off)
  else if off < 0x108 then BitVec.ofNat 8 ((c.entries.getD ((off - 8) / 8) 0).toNat / 256 ^ (off % 8))
  else c.tile.getD (off - 0x108) 0

def capBytes (c : Capsule) (off n : Nat) : List Byte := (upFrom off n).map (capByte c)

/-- A byte put at an offset of the entries or the tile. -/
def capPut (c : Capsule) (off : Nat) (v : Byte) : Capsule :=
  if off < 8 then c
  else if off < 0x108 then
    { c with entries := changeAt ((off - 8) / 8) (fun e => BitVec.ofNat 64
        (bytesToNat ((natToBytes e.toNat 8).set (off % 8) v))) c.entries }
  else
    let at_ := off - 0x108
    let padded := c.tile ++ List.replicate (at_ + 1 - c.tile.length) 0
    { c with tile := padded.set at_ v }

/-- Bytes put from an offset up. -/
def capPuts (c : Capsule) (off : Nat) : List Byte → Capsule
  | [] => c
  | b :: bs => capPuts (capPut c off b) (off + 1) bs

/-- A store to `cap` (R204, R205): the header is refused, an edit of entries is checked before any byte is written. -/
def capStore (t : Strand) (off : Nat) (bs : List Byte) (s : State) : Res Unit :=
  match t.capsule with
  | none => .failAt .prot (BitVec.ofNat 64 off) s
  | some c =>
    let n := bs.length
    if off < 8 || !capInside c off n then .failAt .prot (BitVec.ofNat 64 off) s
    else
      let c1 := capPuts c off bs
      let edited := upFrom ((off - 8) / 8) ((min (off + n) 0x108 - 9) / 8 - (off - 8) / 8 + 1)
      let bad := decide (off < 0x108) &&
        (t.capsuleEnd != .open_ || edited.any fun i => decide (i ≤ capCursor c) || field (c1.entries.getD i 0) 32 8 != 0)
      if bad then .trap (capTrap c) s else .ok () (s.setStrand { t with capsule := some c1 })

/-! ## Local spaces -/

/-- An access lies wholly within its space (R73, R293). -/
def localInside (t : Strand) (sp : LockSpace) (off n : Nat) : Bool :=
  match sp with
  | .spad _ => decide (off + n ≤ Config.spadBytes)
  | .bench => decide (off + n ≤ Config.barrierBase)
  | .msg => decide (off + n ≤ Config.msgBytes)
  | .cap =>
    match t.capsule with
    | some c => capInside c off n
    | none => false
  | _ => false

/-- Natural alignment up to 8 bytes; a wider access is 8-byte aligned (R73). -/
def localAligned (off n : Nat) : Bool := off % (min n 8) == 0

/-- The bounds and then the alignment of a local access (R73). -/
def localCheck (t : Strand) (sp : LockSpace) (off n : Nat) (s : State) : Res Unit :=
  if !localInside t sp off n then .failAt .prot (BitVec.ofNat 64 off) s
  else if !localAligned off n then .failAt .align (BitVec.ofNat 64 off) s
  else .ok () s

/-- Bytes of a local space, checked already. -/
def localRead (t : Strand) (sp : LockSpace) (off n : Nat) (s : State) : Res (List Byte) :=
  match sp with
  | .spad seat =>
    (lockCheck (curWho t s) sp off (off + n - 1) false s).andThen fun _ s1 =>
      spadRead (s1.cur.bench * 8 + seat) off n (if seat == s1.cur.seat then noteBanks off n s1 else s1)
  | .bench =>
    (lockCheck (curWho t s) sp off (off + n - 1) false s).andThen fun _ s1 => benchRead s1.cur.bench off n s1
  | .msg => .ok ((upFrom off n).map fun i => if i < 32 * t.message.plen then t.message.payload.getD i 0 else 0) s
  | .cap =>
    match t.capsule with
    | some c => .ok (capBytes c off n) s
    | none => .failAt .prot (BitVec.ofNat 64 off) s
  | _ => .ok [] s

/-- Bytes written to a local space, checked already; a window write and STF set full bits (R88). -/
def localWrite (t : Strand) (sp : LockSpace) (off : Nat) (bs : List Byte) (full : Bool) (s : State) : Res Unit :=
  match sp with
  | .spad seat =>
    (lockCheck (curWho t s) sp off (off + bs.length - 1) true s).andThen fun _ s1 =>
      .ok () (spadWrite (s1.cur.bench * 8 + seat) off bs full
        (if seat == s1.cur.seat then noteBanks off bs.length s1 else s1))
  | .bench =>
    (lockCheck (curWho t s) sp off (off + bs.length - 1) true s).andThen fun _ s1 =>
      .ok () (benchWrite s1.cur.bench off bs s1)
  | .cap => capStore t off bs s
  | _ => .failAt .prot (BitVec.ofNat 64 off) s

/-- What a local access adds for its order: an acquire at .bench or wider drops RC lines, .sc takes a place at the desk
(R102, R105, R107). -/
def localOrder (t : Strand) (o : Order) (sc : Scope) (s : State) : State :=
  let s1 := takeDesk s (s.launch t.launch).ctx o
  if isAcquire o ordRc && wide sc then dropRc s1 s1.cur.core else s1

/-- A load of an SO page comes after the strand's older vector accesses of global memory (R105). -/
def soHold (t : Strand) (va n : Nat) (s : State) : Res Unit :=
  if pendingGlobalVec s s.cur t then
    (checkParts (curWho t s) (parts va n) kRead s).andThen fun ords s1 =>
      if ords.contains ordSo then .wait .older else .ok () s1
  else .ok () s

/-- The class of a scalar access by its space (R101). -/
def classOf (sp : LockSpace) : Nat := if sp = .global then classG else classL

/-- A scalar load of `n` bytes (R265, R266). -/
def memLoad (t : Strand) (f : Slot) (n : Nat) (s : State) : Res (List Byte) :=
  let sp := memSpace f s.cur.seat
  let ea := effAddr t f
  (scopeOk f s).andThen fun _ s0 =>
    ((fenceHold t (classOf sp) s0).andThen fun _ s1 => afterVecMem t sp ea.toNat n s1).andThen fun _ s1 =>
      if sp = .global then
        (soHold t ea.toNat n s1).andThen fun _ s2 => loadGlobal (curWho t s2) ea.toNat n f.order f.scope s2
      else
        (localCheck t sp ea.toNat n s1).andThen fun _ s2 =>
          (localRead t sp ea.toNat n s2).andThen fun bs s3 => .ok bs (localOrder t f.order f.scope s3)

/-- A window write comes after the strand's older window writes to the same seat (R108). -/
def windowHold (t : Strand) (f : Slot) (s : State) : Res Unit :=
  match f.c with
  | .win n => if pendingWindow s s.cur t n.val then .wait .older else .ok () s
  | _ => .ok () s

/-- A scalar store of bytes (R265, R267, R269). -/
def memStore (t : Strand) (f : Slot) (bs : List Byte) (full : Bool) (s : State) : Res Unit :=
  let sp := memSpace f s.cur.seat
  let ea := effAddr t f
  (scopeOk f s).andThen fun _ s0 =>
    ((fenceHold t (classOf sp) s0).andThen fun _ s1 => writeHold t sp ea.toNat bs.length s1).andThen fun _ s1 =>
      (windowHold t f s1).andThen fun _ s2 =>
        if sp = .global then
          (pageHold t f.order f.scope ea.toNat bs.length kWrite s2).andThen fun _ s3 =>
            storeGlobal (curWho t s3) ea.toNat bs f.order s3
        else
          (orderHold t f.order f.scope s2).andThen fun _ s3 =>
            if sp = .msg then .failAt .prot ea s3
            else
              (localCheck t sp ea.toNat bs.length s3).andThen fun _ s4 =>
                localWrite t sp ea.toNat bs full (localOrder t f.order f.scope s4)

/-- A value loaded by TYPE (R266): sign- or zero-extended. -/
def extendLoad (t : Ty) (bs : List Byte) : Word :=
  if isSigned t then BitVec.ofInt 64 (signedOf (8 * bs.length) (bytesToNat bs)) else BitVec.ofNat 64 (bytesToNat bs)

/-! ## The instructions -/

/-- LD (R266). -/
def execLd (f : Slot) (s : State) : Out :=
  .next (issueD f s fun t s0 => (memLoad t f (tyBytes f.ty) s0).andThen fun bs s1 => .ok (extendLoad f.ty bs) s1)

/-- A store goes through a window, which sets full bits (R88). -/
def setsFull (f : Slot) : Bool := selWin f.c

/-- The strand as it stands after a source has been read. -/
def strandNow (t : Strand) (s : State) : Strand := s.strand.getD t

/-- ST (R267): B is an x or a q register. -/
def execSt (f : Slot) (s : State) : Out :=
  .next (issue f s fun t s => (scopeOk f s).andThen fun _ s0 =>
    (readSel f.b s0).andThen fun v s1 =>
      (memStore (strandNow t s1) f (natToBytes v.toNat (tyBytes f.ty)) (setsFull f) s1).andThen fun _ s2 => .ok .seq s2)

/-- LDW on its own scratchpad (R268): waits for the full bit in the order of the waits, then reads and, unless .k, clears. The range
lock is checked when it is served, and not while it waits for the bit (R113, log 116). -/
def ldwBody (t : Strand) (f : Slot) (s : State) : Res Word :=
  let sp : LockSpace := .spad s.cur.seat
  let off := (effAddr t f).toNat
  (scopeOk f s).andThen fun _ s0 =>
    (localCheck t sp off 8 s0).andThen fun _ s1 =>
      ((fenceHold t classL s1).andThen fun _ s2 => afterVecMem t sp off 8 s2).andThen fun _ s2 =>
        let c := s2.curCore
        if !c.full.contains (off / 8) || olderWaiter s2 s2.cur (upFrom (s2.cur.core * 8) 8) (.ldw off) then .wait (.ldw off)
        else
          (localRead t sp off 8 s2).andThen fun bs s3 =>
            let c3 := s3.curCore
            let s4 := if f.hint then s3 else s3.setCurCore { c3 with full := c3.full.filter (· != off / 8) }
            .ok (BitVec.ofNat 64 (bytesToNat bs)) (localOrder t f.order f.scope s4)

def execLdw (f : Slot) (s : State) : Out := .next (issueD f s fun t s0 => ldwBody t f s0)

/-- STF (R269): data and full bit in one step. -/
def execStf (f : Slot) (s : State) : Out :=
  .next (issue f s fun t s0 => (memStore t f (natToBytes (xOf t f.b).toNat 8) true s0).andThen fun _ s1 => .ok .seq s1)

/-- Every sector of the LLC line of an address, and the L1 line of PREF.l1. -/
def prefetch (w : Who) (va : Nat) (l1 : Bool) (s : State) : Res Unit :=
  (checkRights w va kRead s).andThen fun ord s0 =>
    (ensureLine w va kRead (if l1 then s0 else chargePort w va s0)).andThen fun l s1 =>
      if l.view then .fail .prot s1
      else
        let s2 := ((List.range 8).foldl (fun (r : State × LlcLine) i => fillSector r.1 r.2 i) (s1, l)).1
        if l1 then (loadPart w va 1 .rlx .core ord s2).andThen fun _ s3 => .ok () s3 else .ok () s2

/-- PREF (R270): anything that would fault or park is dropped without effect. -/
def execPref (f : Slot) (s : State) : Out :=
  .next (issue f s fun t s0 =>
    match prefetch (curWho t s0) (effAddr t f).toNat (f.m == 1) s0 with
    | .ok _ s1 => .ok .seq s1
    | _ => .ok .seq s0)

/-- Older engine commands of a strand have not completed, their words' way to a queue apart: class E of R101 (log 99). -/
def pendingEngines (s : State) (f : Focus) (t : Strand) : Bool :=
  matrixWork s f t || pendingCopies s f t || runWork s f t || pendingLoads s f t || pendingPosts s f t || pendingBatch s f

/-- A command accesses the global space; every other accesses a local one (R101). -/
def VecCmd.global (c : VecCmd) (seat : Nat) : Bool := (c.ranges seat).any fun r => decide (r.1 = .global)

/-- Older accesses of a strand in the classes G and L of a mask have not been performed. -/
def pendingIn (s : State) (f : Focus) (t : Strand) (mask : Nat) : Bool :=
  (strandCommands s f t).any fun c => c.isMem && mask.testBit (if c.global f.seat then 0 else 1)

/-- Older loads of a strand that have not been performed, by the keys of their commands. -/
def olderLoads (s : State) (f : Focus) (t : Strand) : List Nat :=
  ((strandCommands s f t).filter fun c => c.opcode == 0xC6 || c.opcode == 0xC8).map (·.key)

/-- The present strand's younger accesses of the classes of a mask are held until its older loads have been performed (R106). Engine
commands wait for these anyway, and vector memory commands are performed in issue order (R81, R311). -/
def holdYounger (mask : Nat) (s : State) : State :=
  match s.strand with
  | none => s
  | some t =>
    let loads := olderLoads s s.cur t
    if loads.isEmpty then s else s.setStrand { t with fences := [(mask, loads)] ++ t.fences }

/-- FENCE with an order, a scope and a kind mask (R106): a release waits for the older accesses of its classes; an acquire
holds the younger accesses of its classes until the older loads have been performed. -/
def fenceBody (t : Strand) (o : Order) (sc : Scope) (mask : Nat) (s : State) : Res Unit :=
  if o = .rlx then .fail .illegalOperand s
  else if o = .sc && sc = .sys then .fail .scScope s
  else if mask = 0 then .ok () s
  else
    let rel := isRelease o
    let acq := decide (o = .acq) || decide (o = .ar) || decide (o = .sc)
    if (rel && pendingIn s s.cur t mask) || (rel && mask.testBit 2 && pendingNr s s.cur t)
        || (rel && mask.testBit 3 && pendingEngines s s.cur t) || (rel && decide (sc = .sys) && sysPending s t.launch) then .wait .older
    else
      let s1 := takeDesk s (s.launch t.launch).ctx o
      let s2 := if acq && wide sc then dropUnRc s1 s1.cur.core else s1
      .ok () (if acq then holdYounger mask s2 else s2)

/-- FENCE (R271): the mask is IMM32[3:0]. -/
def execFence (f : Slot) (s : State) : Out :=
  .next (issue f s fun t s0 =>
    (fenceBody t f.order f.scope (immField f 0 4) s0).andThen fun _ s1 => .ok .seq s1)

/-- One page of a write-back CINV (R272): R or W on the page, then its lines. -/
def cinvPages (w : Who) : Nat → Nat → Nat → State → Res Unit
  | 0, _, _, s => .ok () s
  | n + 1, lo, hi, s =>
    if hi < lo then .ok () s
    else if 2 ^ 56 ≤ lo then .failAt .prot (BitVec.ofNat 64 (lo / 65536 * 65536)) s
    else
      (plbEntry w lo s).andThen fun p s1 =>
        if !(p.admitted && (p.read || p.write)) then
          .trap { cause := .prot, addr := some (BitVec.ofNat 64 (lo / 65536 * 65536)), regionOwner := some p.owner } s1
        else
          let last := min hi (lo / 65536 * 65536 + 65535)
          cinvPages w n (last + 1) hi ((llcOverlap s1.mem lo last).foldl cinvLine s1)

/-- CINV (R272). -/
def execCinv (f : Slot) (s : State) : Out :=
  .next (issue f s fun t s0 =>
    let base := xOf t f.a
    let len := (xOf t f.b).toNat
    let lo := base.toNat
    let hi := lo + len - 1
    let w := curWho t s0
    if 2 ^ 40 < len then .failAt .prot base s0
    else if len = 0 then .ok .seq s0
    else
      match f.m.toNat with
      | 0 => .ok .seq (dropL1Range s0 s0.cur.core lo hi)
      | 1 =>
        (storeHold t s0).andThen fun _ s1 =>
          (cinvPages w (len / 65536 + 2) lo hi s1).andThen fun _ s2 => .ok .seq s2
      | _ => .ok .seq (dropTranslations s0 (s0.partOf w.ctx) lo hi))

/-- TOUCH (R273): a hold on a RESIDENT block, a park on another, or the translation of the line (R155, R158). -/
def execTouch (f : Slot) (s : State) : Out :=
  .next (issue f s fun t s0 =>
    let w := curWho t s0
    let va := (effAddr t f).toNat
    (checkRights w va kRead s0).andThen fun _ s1 =>
      (ensureLine w va kRead (chargePort w va s1)).andThen fun l s2 =>
        match (if l.frame then blockOf (s2.launch t.launch) va else none) with
        | none => .ok .seq s2
        | some gb => .ok .seq (touchBlock s2 gb))

end Sys2Proof.Machine
end

