-- ==== Sys2Proof/Machine/Atomics.lean ====
section
/-! DEFINITION. Atomic instructions, opcodes 0x70 to 0x7A, and CHUNK (R274 to R277, R86, R109, R225, R140, R292). -/

namespace Sys2Proof.Machine

/-- Bytes of an atomic's operand; `.pk` holds two elements (R277). -/
def atomicBytes (opcode m : Nat) (ty : Ty) : Nat :=
  let n := tyBits ty / 8
  if 0x78 ≤ opcode && m == 1 then 2 * n else n

/-- The number written by one integer operation on `w` bits (R275). -/
def atomicInt (opcode m w v b : Nat) : Nat :=
  let sv := signedOf w v
  let sb := signedOf w b
  match opcode with
  | 0x70 => v + b
  | 0x71 => v &&& b
  | 0x72 => v ||| b
  | 0x73 => v ^^^ b
  | 0x74 => if m == 1 then min v b else if sv ≤ sb then v else b
  | 0x75 => if m == 1 then max v b else if sb ≤ sv then v else b
  | _ => b

/-- The code written by one floating operation on an element (R225, R277): RNE, and neither the FCR nor its flags. -/
def atomicFloat (opcode : Nat) (fmt : Fmt) (v b : Nat) : Nat :=
  match opcode with
  | 0x78 => (fpAdd fmt {} v b).1
  | 0x79 => (minMaxFp fmt false false v b).1
  | _ => (minMaxFp fmt true false v b).1

/-- What an atomic writes for the value `v` that it reads, if it writes (R274 to R277). -/
def atomicNew (opcode m : Nat) (ty : Ty) (b c v : Nat) : Option Nat :=
  let w := tyBits ty
  let lo := 2 ^ w
  if opcode == 0x77 then (if v == c % lo then some (b % lo) else none)
  else if 0x78 ≤ opcode then
    let fmt := (fmtOf ty).getD fmtF64
    let one (x y : Nat) : Nat := atomicFloat opcode fmt (x % lo) (y % lo)
    some (if m == 1 then one v b + lo * one (v / lo) (b / lo) else one v b)
  else some (atomicInt opcode m w (v % lo) (b % lo) % lo)

/-- The operand of a register or, for `.b128`, of its pair (R276). -/
def pairOf (t : Strand) (f : Slot) (sel : Sel) : Nat :=
  let low := (xOf t sel).toNat
  if f.ty = .b128 then low + 2 ^ 64 * (t.x (selNum sel + 1)).toNat else low

/-- The old value as D receives it: sign-extended by the integer atomics, zero-extended by the others (R275 to R277). -/
def atomicOld (opcode : Nat) (ty : Ty) (v : Nat) : Word :=
  if opcode ≤ 0x76 then BitVec.ofInt 64 (signedOf (tyBits ty) v) else BitVec.ofNat 64 v

/-- The old value written to D, or to the pair of D. -/
def writeAtomic (f : Slot) (opcode v : Nat) (s : State) : State :=
  match s.strand with
  | none => s
  | some t =>
    if f.ty = .b128 then
      s.setStrand ((t.setX (selNum f.d) (BitVec.ofNat 64 v)).setX (selNum f.d + 1) (BitVec.ofNat 64 (v / 2 ^ 64)))
    else s.setStrand (t.setX (selNum f.d) (atomicOld opcode f.ty v))

/-- Checks 2 to 5 of R274 and R113's check, in their order. A release waits for what is older where its page honours its order (R103,
R105); in the form .nr it waits at its slice, not here (R109). -/
def atomicChecks (t : Strand) (f : Slot) (n : Nat) (s : State) : Res Nat :=
  let w := curWho t s
  let ea := effAddr t f
  let va := ea.toNat
  (scopeOk f s).andThen fun _ s0 =>
    ((fenceHold t (if f.hint then classN else classG) s0).andThen fun _ s1 => writeHold t .global va n s1).andThen fun _ s1 =>
      (checkRights w va kAtomic s1).andThen fun ord s2 =>
        if va / 65536 != (va + n - 1) / 65536 then .failAt .atomicStraddle ea s2
        else if va / 32 != (va + n - 1) / 32 then .failAt .align ea s2
        else
          (if f.hint || !isReleaseOn f.order ord then .ok () s2 else orderHold t f.order f.scope s2).andThen fun _ s3 =>
            (parkCheck w va s3).andThen fun _ s4 =>
              (lockCheck w .global va (va + n - 1) true s4).andThen fun _ s5 => .ok ord s5

/-- The translation of a .nr atomic resolves at its issue, views and poison included: the line at which it is accepted (R109,
R274). -/
def resolveAtomic (w : Who) (va n : Nat) (s : State) : Res LlcLine :=
  (ensureLine w va kAtomic (chargePort w va s)).andThen fun l s1 =>
    if l.view then .trap { cause := .prot, addr := some (BitVec.ofNat 64 va), regionOwner := some l.owner } s1
    else (readAt w va n kAtomic s1).andThen fun _ s2 => .ok l (keepL1 s2 w.unit.core fun x => x.line != va / 32)

/-- One atomic instruction. -/
def atomicInstr (opcode : Nat) (f : Slot) (s : State) : State :=
  issue f s fun t s0 =>
    let w := curWho t s0
    let m := f.m.toNat
    let n := atomicBytes opcode m f.ty
    let va := (effAddr t f).toNat
    let b := pairOf t f f.b
    let c := pairOf t f f.c
    (atomicChecks t f n s0).andThen fun ord s1 =>
      if f.hint then
        (resolveAtomic w va n s1).andThen fun l s2 =>
          let nr : NrAtomic :=
            { issuer := s2.cur, launch := t.launch, task := t.message.key, va := va, at_ := l, opcode := opcode, variant := m
              ty := f.ty, operand := b, compare := c
              after := if isReleaseOn f.order ord then ((strandCommands s2 s2.cur t).filter (·.isMem)).map (·.key) else []
              sys := isReleaseOn f.order ord && decide (f.scope = .sys) }
          .ok .seq (s2.setMem { s2.mem with nr := s2.mem.nr ++ [nr] })
      else
        (atomicAt w va n (atomicNew opcode m f.ty b c) (takeDesk s1 w.ctx f.order)).andThen fun old s2 =>
          let s3 := if isAcquire f.order ord && wide f.scope then dropRc s2 w.unit.core else s2
          .ok .seq (writeAtomic f opcode old s3)

def execAadd (f : Slot) (s : State) : Out := .next (atomicInstr 0x70 f s)
def execAand (f : Slot) (s : State) : Out := .next (atomicInstr 0x71 f s)
def execAor (f : Slot) (s : State) : Out := .next (atomicInstr 0x72 f s)
def execAxor (f : Slot) (s : State) : Out := .next (atomicInstr 0x73 f s)
def execAmin (f : Slot) (s : State) : Out := .next (atomicInstr 0x74 f s)
def execAmax (f : Slot) (s : State) : Out := .next (atomicInstr 0x75 f s)
def execAxchg (f : Slot) (s : State) : Out := .next (atomicInstr 0x76 f s)
def execAcas (f : Slot) (s : State) : Out := .next (atomicInstr 0x77 f s)
def execAfadd (f : Slot) (s : State) : Out := .next (atomicInstr 0x78 f s)
def execAfmin (f : Slot) (s : State) : Out := .next (atomicInstr 0x79 f s)
def execAfmax (f : Slot) (s : State) : Out := .next (atomicInstr 0x7A f s)

/-! ## No-return atomics at the slice (R109) -/

/-- Bytes of memory replaced by an accepted atomic whose line is no longer in the LLC under its tag; a sector that is poisoned
stays so. -/
def nrAtMemory (pa n : Nat) (f : Nat → Option Nat) (s : State) : State :=
  if memLost s pa then s
  else
    match f (memNat s.mem pa n) with
    | none => s
    | some v => s.setMem (memWrite s.mem pa (natToBytes v n))

/-- Bytes of an LLC line replaced by an accepted atomic; a sector poisoned since then stays so. -/
def nrAtLine (l : LlcLine) (va n : Nat) (f : Nat → Option Nat) (s : State) : State :=
  let i := va % 256 / 32
  let r := fillSector s l i
  if r.2.poison.getLsbD i then r.1
  else
    match f (bytesToNat (lineBytes r.2.data (va % 256) n)) with
    | none => r.1
    | some v =>
      r.1.setMem (llcPut r.1.mem
        { r.2 with
          dirty := setBit r.2.dirty i true, again := setBit r.2.again i false
          data := lineSet r.2.data (va % 256) (natToBytes v n) })

/-- The bytes of one accepted atomic are replaced at the physical line at which it was accepted: its checks are over (R57, R109). -/
def nrApply (n : NrAtomic) (s : State) : State :=
  let bytes := atomicBytes n.opcode n.variant n.ty
  let f := atomicNew n.opcode n.variant n.ty n.operand n.compare
  match llcFind s n.va with
  | some l => if l.phys == n.at_.phys then nrAtLine l n.va bytes f s else nrAtMemory (n.at_.phys * 256 + n.va % 256) bytes f s
  | none => nrAtMemory (n.at_.phys * 256 + n.va % 256) bytes f s

/-- One accepted atomic is performed, and the issuing core's L1 copy of its line is dropped, which may have come there since its
issue (R82, R98). -/
def performOne (n : NrAtomic) (s : State) : State := keepL1 (nrApply n s) n.issuer.core fun l => l.line != n.va / 32

/-- A release that has been accepted waits for what is older (R103, R109, log 100). -/
def NrAtomic.waits (n : NrAtomic) (s : State) : Bool :=
  ((s.core n.issuer.core).inFlight.any fun c => n.after.contains c.key) || (n.sys && sysPending s n.launch)

/-- The turn of the atomic at an index: the oldest of its strand to its 32-byte line is performed first, once it no longer waits
(R109). -/
def performNr (index : Nat) (s : State) : State :=
  match s.mem.nr[index]? with
  | none => s
  | some n =>
    let first := (indexWhere (fun (x : NrAtomic) => decide (x.issuer = n.issuer) && x.launch == n.launch
      && x.task == n.task && x.va / 32 == n.va / 32) s.mem.nr).getD index
    match s.mem.nr[first]? with
    | none => s
    | some o => if o.waits s then s else performOne o (s.setMem { s.mem with nr := removeAt first s.mem.nr })

/-- Every accepted atomic that a test names is performed, oldest first. -/
def performAll (p : NrAtomic → Bool) (s : State) : State :=
  (s.mem.nr.filter p).foldl (fun s n => performOne n s) (s.setMem { s.mem with nr := s.mem.nr.filter fun n => !p n })

/-! ## CHUNK (R140, R292) -/

/-- The counter object's start and size, and its position after. -/
def chunkOf (p last m parts : Nat) : Nat × Nat :=
  if m = 0 || parts = 0 || last ≤ p then (p, 0)
  else
    let left := last - p
    (p, min left (max m ((left + 2 * parts - 1) / (2 * parts))))

/-- The counter's four words after a CHUNK, if it writes. -/
def chunkNew (v : Nat) : Option Nat :=
  let r := chunkOf (v % 2 ^ 64) (v / 2 ^ 64 % 2 ^ 64) (v / 2 ^ 144 % 2 ^ 32) (v / 2 ^ 128 % 2 ^ 16)
  if r.2 = 0 then none else some (v / 2 ^ 64 * 2 ^ 64 + (r.1 + r.2))

/-- CHUNK: a returning atomic on an aligned 32-byte counter. -/
def execChunk (f : Slot) (s : State) : Out :=
  .next (issue f s fun t s0 =>
    let w := curWho t s0
    let va := (effAddr t f).toNat
    (atomicChecks t f 32 s0).andThen fun ord s1 =>
      (atomicAt w va 32 chunkNew (takeDesk s1 w.ctx f.order)).andThen fun v s2 =>
        let r := chunkOf (v % 2 ^ 64) (v / 2 ^ 64 % 2 ^ 64) (v / 2 ^ 144 % 2 ^ 32) (v / 2 ^ 128 % 2 ^ 16)
        let s3 := if isAcquire f.order ord && wide f.scope then dropRc s2 w.unit.core else s2
        match s3.strand with
        | none => .ok .seq s3
        | some t1 =>
          .ok .seq (s3.setStrand ((t1.setX (selNum f.d) (BitVec.ofNat 64 r.1)).setX (selNum f.d + 1)
            (BitVec.ofNat 64 r.2))))

end Sys2Proof.Machine
end

