-- ==== Sys2Proof/Machine/Queues.lean ====
section
/-! DEFINITION. Messages on their way: mailboxes and overflow queues (R135), the task pool (R134), dependence counters
(R132), device-made messages, and the release of a send buffer at HALT (R195). -/

namespace Sys2Proof.Machine

/-! ## Ranks (R198) -/

/-- A rank's entry; a rank not below NRANK + 1 is INVALID (R286). -/
def Launch.rank (l : Launch) (r : Nat) : RankEntry := if r < l.rankCount then l.ranks.get r {} else {}

/-- The bench of a rank. -/
def RankEntry.bench (r : RankEntry) : Nat := 32 * r.bY + r.bx

/-- The rank-table entry's 32 bits (R198). -/
def RankEntry.word (r : RankEntry) : Word := place 30 2 r.st ||| place 16 5 r.bx ||| place 8 4 r.bY ||| place 0 3 r.seat

/-- Rank states (R198). -/
def rankInvalid : Nat := 0
def rankValid : Nat := 1
def rankTransit : Nat := 2

/-- The rank of a launch at a seat of a bench (R127). -/
def rankAt (l : Launch) (bench seat : Nat) : Option Nat :=
  (List.range l.rankCount).find? fun r =>
    let e := l.rank r
    e.st == rankValid && e.bench == bench && e.seat == seat

/-! ## Mailboxes and overflow (R135) -/

/-- Completion and system messages are not ordinary. -/
def Message.ordinary (m : Message) : Bool := !(m.cls == 4 || m.cls == 5)

/-- The mailbox has room for a message, the overflow queue apart. -/
def boxRoom (l : Launch) (m : Message) : Bool :=
  let box := l.mailboxes.get m.dest []
  decide (box.length < 64) && (!m.ordinary || decide ((box.filter (·.ordinary)).length < l.mailboxLimit))

/-- A message put at the tail of its mailbox. -/
def putInBox (s : State) (launch : Nat) (m : Message) : State :=
  let l := s.launch launch
  let m1 := { m with entered := s.ticket, enteredClock := (s.bench (l.rank m.dest).bench).clocks }
  let s1 := s.setLaunch launch { l with mailboxes := l.mailboxes.put m.dest (l.mailboxes.get m.dest [] ++ [m1]) }
  let s2 :=
    if m.capsule.isSome then
      let b := (l.rank m.dest).bench
      s1.setBench b { s1.bench b with capsules := (s1.bench b).capsules + 1 }
    else s1
  s2.nextTicket

/-- An arrival enters the mailbox or the overflow queue, or finds no room (R135, R203). -/
def placeMessage (s : State) (launch : Nat) (m : Message) : Option State :=
  let l := s.launch launch
  let spill := l.overflow.get m.dest []
  let body := m.capsule.isNone || decide ((s.bench (l.rank m.dest).bench).capsules < 16)
  if boxRoom l m && body && (!m.ordinary || spill.isEmpty) then some (putInBox s launch m)
  else if m.ordinary && m.capsule.isNone && decide (spill.length < l.overflowLimit) then
    some (countEvent (s.setLaunch launch { l with overflow := l.overflow.put m.dest (spill ++ [m]) }) launch
      (l.rank m.dest).bench 14 1)
  else none

/-- Overflow messages of a rank move in, oldest first, while there is room (R135). -/
def moveIn (launch rank : Nat) : Nat → State → State
  | 0, s => s
  | n + 1, s =>
    let l := s.launch launch
    match l.overflow.get rank [] with
    | [] => s
    | m :: rest =>
      if boxRoom l m then
        moveIn launch rank n (putInBox (s.setLaunch launch { l with overflow := l.overflow.put rank rest }) launch m)
      else s

/-- A parked message of a region has left its slot: the oldest deferred message loses its mark (R157). -/
def undefer (s : State) (launch region : Nat) : State :=
  let l := s.launch launch
  let waiting := (l.mailboxes.flatMap (·.2)).filter fun m => m.defer && m.deferRegion == region
  match waiting.foldl (fun (o : Option Message) m =>
      match o with
      | some x => if m.entered < x.entered then some m else o
      | none => some m) none with
  | none => s
  | some m =>
    let clear (x : Message) : Message := if x.key == m.key then { x with defer := false } else x
    s.setLaunch launch { l with mailboxes := l.mailboxes.mapAll fun _ box => box.map clear }

/-- A snapshot waiter has ended (R160). -/
def snapEnded (s : State) (launch : Nat) (snapshot : Option (Nat × Nat)) : State :=
  match snapshot with
  | none => s
  | some gb => (s.changeBlock launch gb fun b => { b with snap := b.snap - 1, since := s.ticket }).nextTicket

/-- A message has left the device: its carried holds and its place among the snapshot waiters go with it (R158, R160). -/
def messageGone (launch : Nat) (s : State) (m : Message) : State :=
  snapEnded (m.holds.foldl (fun s h => releaseHold s launch (h.region, h.block)) s) launch m.snapshot

/-! ## Messages that the device makes (R135)

Ready and spawned tasks wait in the pool and in the queue behind it; completion and system messages, and the messages of a
park snapshot, wait in `deviceHeld`. The ticket `entered` says when each was made. -/

/-- An earlier message of the device to the same rank, which finds no room either, stands before a held message (R135). -/
def heldBehind (l : Launch) (m : Message) : Bool :=
  (l.deviceHeld ++ l.readyTasks).any fun x => x.dest == m.dest && decide (x.entered < m.entered)

/-- A park slot frees when its message has left it (R157). -/
def freeSlot (s : State) (launch : Nat) (m : Message) : State :=
  match m.snapshot with
  | some gb => undefer s launch gb.1
  | none => s

/-- A message of the device enters its mailbox or overflow queue, or goes to quarantine where its rank is INVALID (R135, R199). What
it carried goes with a message that leaves the device (log 104). -/
def admitNow (s : State) (launch : Nat) (m : Message) : Option State :=
  let l := s.launch launch
  if (l.rank m.dest).st == rankTransit then none
  else if (l.rank m.dest).st == rankInvalid then some (freeSlot (messageGone launch (quarantine s launch m 2 none) m) launch m)
  else (placeMessage s launch m).map fun s1 => freeSlot s1 launch m

/-- A held message of the device is admitted in the order in which such messages were made. -/
def admitDevice (s : State) (launch : Nat) (m : Message) : Option State :=
  if heldBehind (s.launch launch) m then none else admitNow s launch m

/-- The message of a list that was made first. -/
def firstMade (ms : List Message) : Option Message :=
  ms.foldl (fun (o : Option Message) m =>
    match o with
    | some x => if m.entered < x.entered then some m else o
    | none => some m) none

/-- A message put among messages in the order in which they were made. -/
def insertMade (m : Message) : List Message → List Message
  | [] => [m]
  | x :: rest => if m.entered ≤ x.entered then m :: x :: rest else x :: insertMade m rest

/-- One message of the device finds room: of the held ones and the first task of the pool, the one that was made first (R134,
R135). -/
def drainStep (launch : Nat) (s : State) : Option State :=
  let l := s.launch launch
  (((firstMade l.pool).toList ++ l.deviceHeld).foldr insertMade []).findSome? fun m =>
    (admitDevice (s.setLaunch launch
      { l with
        pool := l.pool.filter fun x => x.key != m.key, deviceHeld := l.deviceHeld.filter fun x => x.key != m.key })
      launch m).map (refillPool launch)

/-- Messages of the device enter while there is room. -/
def drain (launch : Nat) : Nat → State → State
  | 0, s => s
  | n + 1, s =>
    match drainStep launch s with
    | some s1 => drain launch n s1
    | none => s

/-- Enough rounds for every message of the device that waits. -/
def drainAll (launch : Nat) (s : State) : State :=
  let l := s.launch launch
  drain launch (l.deviceHeld.length + l.readyTasks.length + 1) s

/-- A completion or system message enters its mailbox at once, whatever ordinary messages are held, unless another of its kind is
held for that rank (R135). -/
def entersAtOnce (l : Launch) (m : Message) : Bool :=
  !m.ordinary && !l.deviceHeld.any fun x => x.dest == m.dest && !x.ordinary

/-- A completion or system message, or one of a park snapshot, is placed, or is held where it was made (R135). -/
def placeDevice (s : State) (launch : Nat) (m : Message) : State :=
  let l := s.launch launch
  let m1 := { m with entered := s.ticket }
  match (if entersAtOnce l m then admitNow s.nextTicket launch m1 else none) with
  | some s1 => s1
  | none => drainAll launch (s.setLaunch launch { l with deviceHeld := l.deviceHeld ++ [m1] }).nextTicket

/-- The device numbers a message that it makes for a rank (R194). -/
def numberDevice (s : State) (launch : Nat) (m : Message) : State × Message :=
  let l := s.launch launch
  let r := l.ranks.get m.dest {}
  let m1 := { m with
    origin := true, sender := m.dest, seq := 0x80000000#32 ||| (r.deviceSeq &&& 0x7FFFFFFF#32), key := s.ticket, ctx := l.ctx }
  ((s.setLaunch launch { l with ranks := l.ranks.put m.dest { r with deviceSeq := r.deviceSeq + 1 } }).nextTicket, m1)

/-! ## The task pool (R134) -/

/-- The pool, and the memory-backed queue behind it, has a free entry for a task. -/
def poolRoom (l : Launch) : Bool := decide (l.pool.length + l.poolReserved < poolLimit) && l.spill.isEmpty
def spillRoom (l : Launch) : Bool := decide (l.spill.length + l.spillReserved < l.spillLimit)

/-- A task's message joins those that wait to leave the pool, in the order in which they became ready or were released (R134). -/
def enterPool (s : State) (launch : Nat) (m : Message) : State :=
  let l := s.launch launch
  drainAll launch (s.setLaunch launch (l.poolTasks (insertMade m l.readyTasks)))

/-! ## Dependence counters (R131, R132) -/

def Descriptor.kind (d : Descriptor) : Nat := field d.w0 60 4
def Descriptor.handler (d : Descriptor) : Nat := field d.w0 52 8
def Descriptor.rank (d : Descriptor) : Nat := field d.w0 40 12
def Descriptor.deps (d : Descriptor) : Nat := field d.w0 24 16
def Descriptor.armCount (d : Descriptor) : Nat := field d.w0 16 8
def Descriptor.plen (d : Descriptor) : Nat := field d.w1 56 4
def Descriptor.payload (d : Descriptor) : Nat := field d.w1 0 56
def Descriptor.last (d : Descriptor) : Nat := field d.w1 16 16
def Descriptor.first (d : Descriptor) : Nat := field d.w1 0 16
def Descriptor.succ (d : Descriptor) : Nat := field d.w2 0 56
def Descriptor.control (d : Descriptor) : Nat := field d.w3 0 56

/-- A record for a read of the device that faults, by the launch's context (R132). -/
def deviceFault (s : State) (ctx : Nat) (t : TrapInfo) : State × Nat := postDeviceRecord s t ctx {}

/-- A ready task waits unread for a record, and a control node for its evaluation, each since it became ready. -/
def keepUnread (s : State) (launch task : Nat) (record : Option Nat) (since : Nat) : State :=
  let l := s.launch launch
  s.setLaunch launch { l with unread := l.unread ++ [{ task := task, record := record, since := since }] }

/-- A descriptor is a task's, and no control node's. -/
def Launch.isTask (l : Launch) (task : Nat) : Bool :=
  match l.descriptors[task]? with
  | some d => decide (d.kind ≤ 1)
  | none => false

/-- A task of kind 0 or 1 that became ready at a ticket reads its payload and joins the pool (R132, R134). -/
def startTask (s : State) (launch task since : Nat) : State :=
  let l := s.launch launch
  match l.descriptors[task]? with
  | none => s
  | some d =>
    match (if d.plen = 0 then Res.ok [] s else deviceRead s l.ctx d.payload (32 * d.plen)) with
    | .ok bs s1 =>
      let m : Message :=
        { hidx := d.handler, cls := if d.kind == 1 then 3 else 0, plen := d.plen, dest := d.rank, payload := bs
          descriptor := some task }
      let n := numberDevice s1 launch m
      enterPool n.1 launch { n.2 with entered := since }
    | .trap t s1 =>
      let r := deviceFault s1 l.ctx t
      keepUnread r.1 launch task (some r.2) since
    | _ => keepUnread s launch task none since

/-- A descriptor becomes ready: a task reads its payload at once, a control node waits for its evaluation (R132, R133). -/
def makeReady (s : State) (launch task : Nat) : State :=
  match (s.launch launch).descriptors[task]? with
  | none => s
  | some d =>
    if d.kind ≤ 1 then startTask s.nextTicket launch task s.ticket else keepUnread s.nextTicket launch task none s.ticket

/-- A dependence counter. -/
def counterOf (l : Launch) (task : Nat) : Nat :=
  l.deps.get task (match l.descriptors[task]? with
    | some d => d.deps
    | none => 0)

/-- A decrement (R132). -/
def decrement (s : State) (launch task : Nat) : State :=
  let l := s.launch launch
  let n := counterOf l task
  if n = 0 then s
  else
    let s1 := s.setLaunch launch
      { l with deps := l.deps.put task (n - 1), reached := if n = 1 then addRising task l.reached else l.reached }
    if n = 1 then makeReady s1 launch task else s1

/-- Every task of an arm is decremented. -/
def decrementAll (s : State) (launch : Nat) (tasks : List Nat) : State := tasks.foldl (fun s t => decrement s launch t) s

/-- The unread tasks that wait for a record, or for none, are tried again. -/
def retryUnread (launch : Nat) (p : Unread → Bool) (s : State) : State :=
  let l := s.launch launch
  let again := l.unread.filter fun u => p u && l.isTask u.task
  again.foldl (fun s u => startTask s launch u.task u.since)
    (s.setLaunch launch { l with unread := l.unread.filter fun u => !again.contains u })

/-! ## Releasing a send buffer (R194, R195, R200) -/

/-- The strand counter numbers a message released at a rank (R194). -/
def numberStrand (s : State) (launch rank : Nat) (m : Message) : State × Message :=
  let l := s.launch launch
  let r := l.ranks.get rank {}
  let m1 := { m with sender := rank, seq := r.strandSeq, key := s.ticket, ctx := l.ctx }
  ((s.setLaunch launch { l with ranks := l.ranks.put rank { r with strandSeq := (r.strandSeq + 1) &&& 0x7FFFFFFF#32 } }).nextTicket,
    m1)

/-- A message leaves the interface of a bench: in flight, or held behind a rank IN_TRANSIT (R199). -/
def sendMessage (s : State) (launch bench : Nat) (m : Message) : State :=
  let l := s.launch launch
  let b := s.bench bench
  if (l.rank m.dest).st == rankTransit then
    countEvent (s.setBench bench { b with held := b.held ++ [{ launch := launch, message := m }] }) launch bench 15 1
  else { s with flights := s.flights ++ [{ launch := launch, source := some bench, message := m }] }

/-- The next place of the capsule's cursor (R206). -/
def forwardOf (t : Strand) : Option Message :=
  match t.capsule with
  | none => none
  | some c =>
    let cursor := field c.header 16 6 + 1
    let e := c.entries.getD cursor 0
    some
      { hidx := field e 56 8, cls := 2, dest := field e 44 12, ctx := t.message.ctx
        capsule := some { c with header := c.header + 0x10000 } }

/-- One entry of a send buffer is released (R195, R281, R283, R284, R206). -/
def releaseSend (f : Focus) (t : Strand) (s : State) (e : Send) : State :=
  let launch := t.launch
  match e with
  | .message m =>
    let n := numberStrand s launch t.rank m
    let s1 :=
      if m.capsule.isSome then
        let l := n.1.launch launch
        let r := l.ranks.get t.rank {}
        n.1.setLaunch launch { l with ranks := l.ranks.put t.rank { r with capsules := (r.capsules + 1) % 4096 } }
      else n.1
    sendMessage s1 launch f.bench n.2
  | .multicast m first stride count =>
    (List.range count).foldl
      (fun s i =>
        let n := numberStrand s launch t.rank { m with dest := first + i * stride }
        sendMessage n.1 launch f.bench n.2) s
  | .spawn m spilled =>
    let n := numberDevice s launch m
    let l := n.1.launch launch
    let given := if spilled then { l with spillReserved := l.spillReserved - 1 } else { l with poolReserved := l.poolReserved - 1 }
    enterPool (n.1.setLaunch launch given).nextTicket launch { n.2 with entered := n.1.ticket }
  | .spawnTask d => decrement s launch d
  | .signalHost v =>
    postCompletion s (fnFor s (s.launch launch).ctx)
      { w0 := completionWord 0xFFFFFFFF#32 0 0, w1 := v, signal := true }
  | .forward =>
    match forwardOf t with
    | some m =>
      let n := numberStrand s launch t.rank m
      sendMessage n.1 launch f.bench n.2
    | none => s

/-- The interface can take a send buffer: no message needs a place in a full holding buffer, and SIGNAL.host finds room in
its ring (R200, R284). -/
def canRelease (f : Focus) (t : Strand) (s : State) : Bool :=
  let l := s.launch t.launch
  let dests : List Nat := t.sends.flatMap fun e =>
    match e with
    | .message m => [m.dest]
    | .multicast _ first stride count => (List.range count).map fun i => first + i * stride
    | .forward => match forwardOf t with
      | some m => [m.dest]
      | none => []
    | _ => []
  let held := (dests.filter fun d => (l.rank d).st == rankTransit).length
  let room := dests.isEmpty || decide ((s.bench f.bench).held.length + max 1 held ≤ 64)
  let signals := (t.sends.filter fun e =>
    match e with
    | .signalHost _ => true
    | _ => false).length
  let ring := (s.fn (fnFor s l.ctx)).cpl
  room && (signals == 0 || (ring.en && decide (signals ≤ ring.free) && (s.fn (fnFor s l.ctx)).heldCpl.isEmpty))

end Sys2Proof.Machine
end

