-- ==== Sys2Proof/Machine/Control.lean ====
section
/-! DEFINITION. Control instructions, opcodes 0x40 to 0x48, and ILLEGAL (R262 to R264, R238): transfers, the HALT sequence
(R263) and TRAPI. -/

namespace Sys2Proof.Machine

/-- A slot that transfers to a target (R230). -/
def transferTo (f : Slot) (s : State) (target : Strand → State → Res Word) : State :=
  issue f s fun t s0 => (target t s0).andThen fun w s1 => .ok (.jump w) s1

def execNop (f : Slot) (s : State) : Out := .next (issue f s fun _ s0 => .ok .seq s0)

def execBr (f : Slot) (s : State) : Out := .next (transferTo f s fun t s0 => .ok (codeDisp t.pc f) s0)

/-- BRX: the line of the displacement plus 64 × Src(A), modulo 2^64 (R262). -/
def execBrx (f : Slot) (s : State) : Out :=
  .next (transferTo f s fun t s0 => .ok (codeDisp t.pc f + 64 * xOf t f.a) s0)

def execJmp (f : Slot) (s : State) : Out := .next (transferTo f s fun t s0 => .ok (xOf t f.a) s0)

/-- The link register (R236). -/
def lr : Nat := 63

/-- CALL and CALL.ind: lr takes the PC of the next issue group (R262). -/
def execCall (f : Slot) (s : State) : Out :=
  .next (transferTo f s fun t s0 =>
    let target := if f.m == 1 then xOf t f.a else codeDisp t.pc f
    .ok target (s0.setStrand (t.setX lr (nextSlot t.pc))))

def execRet (f : Slot) (s : State) : Out := .next (transferTo f s fun t s0 => .ok (t.x lr) s0)

/-- LOOP: x0 always transfers (R262). -/
def execLoop (f : Slot) (s : State) : Out :=
  .next (issue f s fun t s0 =>
    let v := xOf t f.d - 1
    let s1 := s0.setStrand (t.setX (selNum f.d) v)
    .ok (if v = 0 && selNum f.d != 0 then .seq else .jump (codeDisp t.pc f)) s1)

/-! ## HALT (R263) -/

/-- An unread completion word that makes HALT trap (R181, R182): of several, the oldest of q1, and then of q4 (log 95). -/
def haltTrap (t : Strand) : Option Cause :=
  let words (n : Nat) := (t.qs.get n []).filterMap fun e => completionTrap n e.word
  ((words 1 ++ words 4).filter fun c => !decide (c = .sourceFaulted)).head?

/-- A bank lies wholly or partly in a retained region of scratchpad (R202). -/
def bankRetained (l : Launch) (bank : Nat) : Bool :=
  l.retained.any fun r =>
    !r.benchMem && decide (r.offset / 0x4000 ≤ bank) && decide (bank ≤ (r.offset + r.length - 1) / 0x4000)

/-- A touch is that of the live strand of a hardware context of the core. -/
def BankTouch.byStrand (x : BankTouch) (s : State) (f : Focus) : Bool :=
  match x.who with
  | .strand hc => hc == f.hc && (match s.strandAt f with
    | some t => decide (t.born ≤ x.stamp)
    | none => false)
  | .command _ => false

/-- A touch is that of an engine command that is outstanding: its entries stand in the table until its completion is posted
(R112). -/
def BankTouch.byEngine (x : BankTouch) (s : State) (bench : Nat) : Bool :=
  match x.who with
  | .command key => (s.bench bench).locks.any fun e => decide (e.op = .command key)
  | .strand _ => false

/-- Another live strand of the core, or an outstanding engine command, has touched a bank since a strand's activation (R202). -/
def bankShared (s : State) (f : Focus) (t : Strand) (bank : Nat) : Bool :=
  (s.core f.core).touches.any fun x =>
    x.bank == bank && decide (t.born ≤ x.stamp)
      && (x.byEngine s f.bench || (List.range 8).any fun hc => hc != f.hc && x.byStrand s { f with hc := hc })

/-- Banks that a strand has touched (R202). -/
def banksTouched (s : State) (f : Focus) : List Nat :=
  (((s.core f.core).touches.filter fun x => x.byStrand s f).map (·.bank)).eraseDups

/-- A bank is powered down: at its next use it reads zero with full bits clear (R88). -/
def powerDown (c : Core) (bank : Nat) : Core :=
  { c with
    spad := c.spad.filter fun e => e.1 / 0x4000 != bank
    full := c.full.filter fun q => q / 0x800 != bank
    spadPoison := c.spadPoison.filter fun q => q / 0x800 != bank }

/-- The banks that a halting strand lets go of (R202). -/
def banksToDrop (s : State) (f : Focus) (t : Strand) : List Nat :=
  let l := s.launch t.launch
  let c := s.core f.core
  (banksTouched s f).filter fun k =>
    !bankRetained l k && !(c.full.any fun q => q / 0x800 == k) && !bankShared s f t k && !c.kept.any (·.banks.contains k)

/-- HALT powers banks down, and HALT.R keeps them for a successor (R202). -/
def retireBanks (s : State) (f : Focus) (t : Strand) (keep : Option Nat) : State :=
  let c := s.core f.core
  let banks := banksToDrop s f t
  match keep with
  | some h => s.setCore f.core { c with kept := c.kept ++ [{ handler := h, banks := banks }] }
  | none => s.setCore f.core (banks.foldl powerDown c)

/-- One strand of a task has halted (R124); the last one ends it. -/
def strandHalted (s : State) (launch key : Nat) : State :=
  let l := s.launch launch
  s.setLaunch launch
    { l with
      tasks := l.tasks.change key {} fun t =>
        { t with live := t.live - 1, fate := if t.live ≤ 1 && t.fate = .live then .halted else t.fate } }

/-- The store body of a capsule step is freed at HALT (R206). -/
def haltCapsule (s : State) (f : Focus) (t : Strand) : State :=
  if t.message.capsule.isSome then
    let l := s.launch t.launch
    let clear (m : Message) : Message := if m.key == t.message.key then { m with capsule := none } else m
    let s1 := s.setLaunch t.launch
      { l with mailboxes := l.mailboxes.put t.message.dest ((l.mailboxes.get t.message.dest []).map clear) }
    freeBody s1 f.bench t.message
  else s

/-- The HALT sequence (R263), in its order. -/
def haltSequence (t : Strand) (keep : Option Nat) (s : State) : Res Flow :=
  let f := s.cur
  if pendingMatrix s f t || pendingRuns s f t then .wait .older
  else
    match haltTrap t with
    | some c => .fail c s
    | none =>
      if !(strandCommands s f t).isEmpty || pendingSfu s f then .wait .older
      else if !canRelease f t s then .wait .release
      else
        let s1 := t.sends.foldl (releaseSend f t) s
        let s2 := haltCapsule (retireBanks s1 f t keep) f t
        let s3 := removeStrand (countEvent s2 t.launch f.bench 1 1) f false
        .ok .ended (strandHalted s3 t.launch t.message.key)

/-- HALT and HALT.R (R263). -/
def execHalt (f : Slot) (s : State) : Out :=
  .next (issue f s fun t s0 =>
    if f.m == 1 then
      if 255 < imm32 f then .fail .illegalOperand s0 else haltSequence t (some (imm32 f)) s0
    else haltSequence t none s0)

/-- TRAPI: the task is reported failed (R264). -/
def execTrapi (f : Slot) (s : State) : Out :=
  .next (issue f s fun _ s0 => .trap { cause := .trapi, fails := true } s0)

/-- ILLEGAL and every unassigned opcode (R238): the slot's guard is no instruction's, so the trap is unconditional. -/
def execIllegal (s : State) : Out :=
  match s.strand with
  | none => .next (s.setIssue .none)
  | some t => .next (trapAfter none t { cause := .illegalOp } s)

end Sys2Proof.Machine
end

