-- ==== Sys2Proof/Machine/Messages.lean ====
section
/-! DEFINITION. Message, capsule and barrier instructions, opcodes 0x80 to 0x8C, 0x8E to 0x91 and 0x93 (R278 to R291, R293 to
R295). Sends are buffered; the HALT sequence releases them. -/

namespace Sys2Proof.Machine

/-! ## The checks of R195 -/

/-- A rectangle holds a bench. -/
def Rect.has (r : Rect) (x y : Nat) : Bool :=
  decide (r.x ≤ x) && decide (x < r.x + r.w) && decide (r.y ≤ y) && decide (y < r.y + r.h)

/-- A rectangle lies within columns 0 to 31 and rows 0 to 14 (R2). -/
def Rect.inMesh (r : Rect) : Bool := decide (r.x + r.w ≤ 32) && decide (r.y + r.h ≤ Config.rows)

/-- The bench permission table of a context's benches has the bit of a bench (R53). -/
def permitted (s : State) (ctx x y : Nat) : Bool :=
  match s.ctx ctx with
  | some c => (c.benches.map fun r => r.has x y).getD false
  | none => false

/-- The send buffer has room (R195). -/
def sendRoom (t : Strand) (s : State) : Res Unit := if 16 ≤ t.sends.length then .fail .sendDenied s else .ok () s

/-- The rank named is one a strand may send to: the first two checks of R195, the table's apart for completions (R284). -/
def rankChecks (t : Strand) (rank : Nat) (table : Bool) (s : State) : Res Unit :=
  let l := s.launch t.launch
  let r := l.rank rank
  if r.st == rankInvalid then .fail .rankInvalid s
  else if table && r.st == rankValid && !permitted s l.ctx r.bx r.bY then .fail .sendDenied s
  else .ok () s

/-- The checks of R195 in the order of its table. -/
def sendChecks (t : Strand) (rank : Nat) (table : Bool) (s : State) : Res Unit :=
  (rankChecks t rank table s).andThen fun _ s1 => sendRoom t s1

/-- An entry joins the send buffer. -/
def bufferSend (e : Send) (s : State) : State :=
  match s.strand with
  | some t => s.setStrand { t with sends := t.sends ++ [e] }
  | none => s

/-- Handler index and PLEN (R279). -/
def sendHandler (f : Slot) : Nat := immField f 0 8
def sendPlen (f : Slot) : Nat := immField f 8 4

/-- The memory that a payload or a tile is copied from (R279). -/
def sourceSpace (f : Slot) (seat : Nat) : LockSpace := memSpace { f with c := if selMsgCap f.c then f.c else .x 0 } seat

/-- A payload or a tile read at the instruction (R279): within its space, 8-byte aligned. -/
def readSource (t : Strand) (sp : LockSpace) (off : Word) (n : Nat) (s : State) : Res (List Byte) :=
  let o := off.toNat
  (storeHold t s).andThen fun _ s0 =>
    if !localInside t sp o n then .failAt .prot off s0
    else if o % 8 != 0 then .failAt .align off s0
    else if n = 0 then .ok [] s0
    else localRead t sp o n s0

/-! ## SEND, SENDM, SPAWN, SIGNAL, MIGRATE (R280 to R284) -/

/-- The payload of a SEND or a SPAWN. -/
def sendPayload (t : Strand) (f : Slot) (s : State) : Res (List Byte) :=
  let n := sendPlen f
  if 8 < n then .fail .illegalOperand s else readSource t (sourceSpace f s.cur.seat) (xOf t f.b) (32 * n) s

/-- The payload of SEND.r: registers from B up (R280). -/
def registerPayload (t : Strand) (f : Slot) (s : State) : Res (List Byte) :=
  let n := sendPlen f
  let b := selNum f.b
  if 2 < n || 64 < b + 4 * n then .fail .illegalOperand s
  else .ok (wordsToBytes ((upFrom b (4 * n)).map t.x)) s

/-- SEND (R280). -/
def execSend (f : Slot) (s : State) : Out :=
  .next (issue f s fun t s0 =>
    (if f.m == 1 then registerPayload t f s0 else sendPayload t f s0).andThen fun bs s1 =>
      let rank := (xOf t f.a).toNat
      (sendChecks t rank true s1).andThen fun _ s2 =>
        (storeHold t s2).andThen fun _ s3 =>
          .ok .seq (bufferSend
            (.message { hidx := sendHandler f, cls := 0, plen := sendPlen f, dest := rank, payload := bs }) s3))

/-- SENDM (R281): the checks of R195 for each rank in increasing index. -/
def execSendm (f : Slot) (s : State) : Out :=
  .next (issue f s fun t s0 =>
    let set := xOf t f.c
    let count := field set 0 12 + 1
    let stride := field set 12 12
    let first := (xOf t f.a).toNat
    if 8 < sendPlen f || (stride = 0 && 1 < count) then .fail .illegalOperand s0
    else
      (sendPayload t f s0).andThen fun bs s1 =>
        (Res.each (List.range count) s1 fun i s2 => sendChecks t (first + i * stride) true s2).andThen fun _ s2 =>
          .ok .seq (bufferSend
            (.multicast { hidx := sendHandler f, cls := 0, plen := sendPlen f, payload := bs } first stride count) s2))

/-- A migrant (R201): x1 to x8, the resume PC, three zero words. -/
def migrantOf (t : Strand) (rank : Nat) (pc : Word) : Message :=
  { cls := 1, plen := 3, dest := rank
    payload := wordsToBytes ((upFrom 1 8).map t.x ++ [pc &&& 0xFFFFFFFFFFFFFF, 0, 0, 0]) }

/-- MIGRATE (R282): the migrant is buffered, then the strand ends by the HALT sequence. -/
def execMigrate (f : Slot) (s : State) : Out :=
  .next (issue f s fun t s0 =>
    let rank := (xOf t f.a).toNat
    let pc := if f.m == 1 then xOf t f.b else codeDisp t.pc f
    (sendChecks t rank true s0).andThen fun _ s1 =>
      let t1 := { t with sends := t.sends ++ [.message (migrantOf t rank pc)] }
      haltSequence t1 none (s1.setStrand t1))

/-- An entry of the pool is reserved, or of the queue behind it (R134, R283): true for one of the queue. -/
def reserveSpawn (launch : Nat) (s : State) : Res Bool :=
  let l := s.launch launch
  if poolRoom l then .ok false (s.setLaunch launch { l with poolReserved := l.poolReserved + 1 })
  else if spillRoom l then .ok true (s.setLaunch launch { l with spillReserved := l.spillReserved + 1 })
  else .wait .release

/-- SPAWN (R283). -/
def execSpawn (f : Slot) (s : State) : Out :=
  .next (issue f s fun t s0 =>
    let a := (xOf t f.a).toNat
    if f.m == 2 then
      if (s0.launch t.launch).taskCount ≤ a then .fail .prot s0
      else (sendRoom t s0).andThen fun _ s1 => (storeHold t s1).andThen fun _ s2 => .ok .seq (bufferSend (.spawnTask a) s2)
    else
      (sendPayload t f s0).andThen fun bs s1 =>
        (sendChecks t a true s1).andThen fun _ s2 =>
          (reserveSpawn t.launch s2).andThen fun spilled s3 =>
            .ok .seq (bufferSend
              (.spawn { hidx := sendHandler f, cls := if f.m == 1 then 3 else 0, plen := sendPlen f, dest := a, payload := bs }
                spilled) s3))

/-- SIGNAL and SIGNAL.host (R284). -/
def execSignal (f : Slot) (s : State) : Out :=
  .next (issue f s fun t s0 =>
    (storeHold t s0).andThen fun _ s1 =>
      let v := xOf t f.b
      if f.m == 1 then (sendRoom t s1).andThen fun _ s2 => .ok .seq (bufferSend (.signalHost v) s2)
      else
        let rank := (xOf t f.a).toNat
        (sendChecks t rank false s1).andThen fun _ s2 =>
          .ok .seq (bufferSend
            (.message { hidx := immField f 0 8, cls := 4, plen := 1, dest := rank, payload := wordsToBytes [v, 0, 0, 0] }) s2))

/-! ## QLEN and RANKQ (R285, R286) -/

/-- The mailbox of a seat: that of the rank placed there (R127, R285). -/
def seatBox (l : Launch) (f : Focus) : List Message :=
  match rankAt l f.bench f.seat with
  | some r => l.mailboxes.get r []
  | none => []

/-- QLEN: an occupancy, changing nothing. -/
def execQlen (f : Slot) (s : State) : Out :=
  .next (issueD f s fun t s0 =>
    let l := s0.launch t.launch
    if f.m == 1 then
      .ok (place 32 32 (l.overflow.get t.rank []).length ||| place 0 8 (seatBox l s0.cur).length) s0
    else if !queueNamed l (selNum f.a) then .fail .illegalOperand s0
    else .ok (BitVec.ofNat 64 (queueWords s0 t (selNum f.a)).length) s0)

/-- RANKQ: the rank-table entry, or the INVALID encoding. -/
def execRankq (f : Slot) (s : State) : Out :=
  .next (issueD f s fun t s0 => .ok ((s0.launch t.launch).rank (xOf t f.a).toNat).word s0)

/-! ## Capsules (R287 to R291) -/

/-- A word with a field replaced. -/
def setField (w : Word) (lo n v : Nat) : Word := (w &&& ~~~ place lo n (2 ^ n - 1)) ||| place lo n v

/-- The capsule of the present step (R287): PROT outside one, CAP_ITIN for an edit after CAPNEXT or CAPEND. -/
def theCapsule (t : Strand) (edit : Bool) (s : State) : Res Capsule :=
  match t.capsule with
  | none => .fail .prot s
  | some c => if edit && t.capsuleEnd != .open_ then .trap (capTrap c) s else .ok c s

/-- All bytes that a capsule buffer can hold (R203). -/
def capBytesAll : Nat := 0x108 + 128 * 64

/-- The capsule for an edit, which comes after the strand's older vector accesses of `cap` (R311). -/
def editCapsule (t : Strand) (s : State) : Res Capsule :=
  (afterVecMem t .cap 0 capBytesAll s).andThen fun _ s1 => theCapsule t true s1

/-- The bits [39:32] that an entry keeps zero (R205). -/
def entryOk (e : Word) : Bool := field e 32 8 == 0

/-- A capsule put into the capsule buffer. -/
def putCapsule (c : Capsule) (s : State) : State :=
  match s.strand with
  | some t => s.setStrand { t with capsule := some c }
  | none => s

/-- Capsules that a strand has buffered by CAPNEW (R288). -/
def bufferedCapsules (t : Strand) : Nat :=
  (t.sends.filter fun e =>
    match e with
    | .message m => m.capsule.isSome
    | _ => false).length

/-- CAPNEW (R288). -/
def execCapnew (f : Slot) (s : State) : Out :=
  .next (issueD f s fun t s0 =>
    let count := immField f 0 6
    let tile := 128 * (immField f 6 6 + 1)
    let sp := sourceSpace f s0.cur.seat
    if count = 0 || 32 < count then .fail .illegalOperand s0
    else
      (readSource t sp (xOf t f.a) (8 * count) s0).andThen fun eb s1 =>
        (readSource (strandNow t s1) sp (xOf t f.b) tile s1).andThen fun tb s2 =>
          let entries := (List.range count).map (byteWord eb)
          let e0 := entries.getD 0 0
          let dest := field e0 44 12
          if entries.any fun e => !entryOk e then .fail .capItin s2
          else
            (sendChecks t dest true s2).andThen fun _ s3 =>
              let l := s3.launch t.launch
              let n := ((l.ranks.get t.rank {}).capsules + bufferedCapsules t) % 4096
              let header := place 52 12 t.rank ||| place 40 12 n ||| place 28 12 l.ctx ||| place 22 6 count
                ||| place 12 4 (immField f 12 4) ||| place 6 6 (immField f 6 6) ||| place 0 6 (immField f 16 6)
              let m : Message :=
                { hidx := field e0 56 8, cls := 2, dest := dest
                  capsule := some { header := header, entries := entries, tile := tb } }
              .ok (BitVec.ofNat 64 (field header 40 24)) (bufferSend (.message m) s3))

/-- CAPNEXT (R289, R206): the checks of R206 step 2, the table's, then the forward. -/
def execCapnext (f : Slot) (s : State) : Out :=
  .next (issue f s fun t s0 =>
    (storeHold t s0).andThen fun _ s1 =>
      (theCapsule t true s1).andThen fun c s2 =>
        let next := capCursor c + 1
        let dest := field (c.entries.getD next 0) 44 12
        if capCount c ≤ next || ((s2.launch t.launch).rank dest).st == rankInvalid then .trap (capTrap c) s2
        else
          (sendChecks t dest true s2).andThen fun _ s3 =>
            .ok .seq (bufferSend .forward (s3.setStrand { t with capsuleEnd := .forward })))

/-- CAPEND (R289), after the stores of the strand to `cap` (R205). -/
def execCapend (f : Slot) (s : State) : Out :=
  .next (issue f s fun t s0 =>
    (editCapsule t s0).andThen fun _ s1 => .ok .seq (s1.setStrand { t with capsuleEnd := .ended }))

/-- CAPINS (R290). -/
def execCapins (f : Slot) (s : State) : Out :=
  .next (issue f s fun t s0 =>
    (editCapsule t s0).andThen fun c s1 =>
      let i := (xOf t f.a).toNat
      let v := xOf t f.b
      if i ≤ capCursor c || capCount c < i || 32 ≤ capCount c || !entryOk v then .trap (capTrap c) s1
      else
        .ok .seq (putCapsule
          { c with entries := c.entries.take i ++ v :: c.entries.drop i, header := c.header + place 22 6 1 } s1))

/-- CAPDEL (R290). -/
def execCapdel (f : Slot) (s : State) : Out :=
  .next (issue f s fun t s0 =>
    (editCapsule t s0).andThen fun c s1 =>
      let i := (xOf t f.a).toNat
      if i ≤ capCursor c || capCount c ≤ i then .trap (capTrap c) s1
      else .ok .seq (putCapsule { c with entries := removeAt i c.entries, header := c.header - place 22 6 1 } s1))

/-- Place and width of an entry field or a header field of CAPSET and CAPGET (R291). -/
def capField (m : Nat) : Nat × Nat :=
  match m with
  | 0 => (0, 64) | 1 => (56, 8) | 2 => (44, 12) | 3 => (0, 32) | 4 => (40, 4)
  | 8 => (22, 6) | 9 => (12, 4) | 10 => (6, 6) | 11 => (0, 6) | 12 => (0, 64) | _ => (16, 6)

/-- A capsule with a header field set; a new count or size cuts or pads what it covers. -/
def setHeaderField (c : Capsule) (m v : Nat) : Capsule :=
  let fd := capField m
  let header := setField c.header fd.1 fd.2 v
  match m with
  | 8 => { c with header := header, entries := c.entries.take v }
  | 10 =>
    let n := 128 * (v + 1)
    let kept := c.tile.take n
    { c with header := header, tile := kept ++ List.replicate (n - kept.length) 0 }
  | _ => { c with header := header }

/-- CAPSET (R291). -/
def execCapset (f : Slot) (s : State) : Out :=
  .next (issue f s fun t s0 =>
    (editCapsule t s0).andThen fun c s1 =>
      let i := (xOf t f.a).toNat
      let w := xOf t f.b
      let v := w.toNat
      let m := f.m.toNat
      let fd := capField m
      let cursor := capCursor c
      let bad :=
        if m ≤ 4 then decide (i ≤ cursor) || decide (capCount c ≤ i) || (if m = 0 then !entryOk w else decide (2 ^ fd.2 ≤ v))
        else if m = 8 then decide (v < cursor + 1) || decide (capCount c < v)
        else decide (2 ^ fd.2 ≤ v)
      if bad then .trap (capTrap c) s1
      else if m ≤ 4 then
        let e := if m = 0 then w else setField (c.entries.getD i 0) fd.1 fd.2 v
        .ok .seq (putCapsule { c with entries := changeAt i (fun _ => e) c.entries } s1)
      else .ok .seq (putCapsule (setHeaderField c m v) s1))

/-- CAPGET (R291): allowed after CAPNEXT and CAPEND. -/
def execCapget (f : Slot) (s : State) : Out :=
  .next (issueD f s fun t s0 =>
    ((afterVecMem t .cap 0 capBytesAll s0).andThen fun _ s => theCapsule t false s).andThen fun c s1 =>
      let i := (xOf t f.a).toNat
      let m := f.m.toNat
      let fd := capField m
      if m ≤ 4 && capCount c ≤ i then .trap (capTrap c) s1
      else
        let w := if m ≤ 4 then c.entries.getD i 0 else c.header
        .ok (BitVec.ofNat 64 (field w fd.1 fd.2)) s1)

/-! ## Barriers (R293 to R295) -/

/-- An object is complete (R293). -/
def Barrier.complete (o : Barrier) : Bool := o.arrived == o.expect && o.pend == 0

/-- A change of an object; PHASE flips when it takes the object from not complete to complete (R293). -/
def Barrier.step (o : Barrier) (f : Barrier → Barrier) : Barrier :=
  let n := f o
  if !o.complete && n.complete then { n with phase := !o.phase } else n

/-- An engine's bytes land against an object (R295). -/
def Barrier.land (o : Barrier) (bytes : Nat) : Barrier :=
  o.step fun o => if o.pend < bytes then { o with pend := 0, under := true } else { o with pend := o.pend - bytes }

/-- An arrival (R295): nothing on an object whose EXPECT is 0. -/
def Barrier.arrive (o : Barrier) : Barrier :=
  if o.expect = 0 then o
  else if o.complete then
    let n := { o with arrived := 1 }
    if n.complete then { n with phase := !o.phase } else n
  else o.step fun o => if o.arrived < o.expect then { o with arrived := o.arrived + 1 } else o

/-- Barrier objects of a bench. -/
def State.barrier (s : State) (bench n : Nat) : Barrier := (s.bench bench).barriers.get n {}
def State.setBarrier (s : State) (bench n : Nat) (o : Barrier) : State :=
  let b := s.bench bench
  s.setBench bench { b with barriers := b.barriers.put n o }

/-- A read of an object with a poisoned word traps (R95), in every instruction on it (log 98). -/
def barrierPoisoned (s : State) (bench n : Nat) : Bool := (wordsOf (barrierOffset n) 16).any (s.bench bench).poison.contains

def barrierRead (bench n : Nat) (s : State) : Res Barrier :=
  if barrierPoisoned s bench n then .failAt .poison (BitVec.ofNat 64 (barrierOffset n)) s else .ok (s.barrier bench n) s

/-- Handles; an unlisted one holds OBJ = n (R294). -/
def Strand.handle (t : Strand) (n : Nat) : Handle := t.handles.get n { object := n }
def Strand.setHandle (t : Strand) (n : Nat) (h : Handle) : Strand := { t with handles := t.handles.put n h }

/-- BARINIT (R295); a change of an object is held as a store is (R81, R351). -/
def execBarinit (f : Slot) (s : State) : Out :=
  .next (issue f s fun t s0 => (storeHold t s0).andThen fun _ s1 =>
    let obj := (t.handle (selNum f.a)).object
    (barrierRead s1.cur.bench obj s1).andThen fun o s2 =>
      let n := o.step fun o =>
        { o with
          expect := field (xOf t f.b) 0 16, pend := field (xOf t f.c) 0 56, arrived := 0, under := false
          initTask := some (t.launch, t.message.key) }
      .ok .seq (s2.setBarrier s2.cur.bench obj n))

/-- BARARRIVE (R295): the release fence of R110, then the arrival. -/
def execBararrive (f : Slot) (s : State) : Out :=
  .next (issue f s fun t s0 =>
    (fenceBody t .rel .bench 7 s0).andThen fun _ s1 =>
      let h := t.handle (selNum f.a)
      (barrierRead s1.cur.bench h.object s1).andThen fun o s2 =>
        if o.expect = 0 then .ok .seq s2
        else
          let s3 := s2.setBarrier s2.cur.bench h.object o.arrive
          .ok .seq (s3.setStrand (t.setHandle (selNum f.a) { h with arr := true, ph := o.phase })))

/-- The wait of a BARWAIT is over (R295). -/
def barwaitOver (h : Handle) (o : Barrier) : Bool := if h.arr then o.phase != h.ph else o.complete

/-- What a BARWAIT on an object waits for has come, for the handle that its slot names, or, in a pair, for some handle; or the
object is poisoned. -/
def barwaitReady (s : State) (bench : Nat) (t : Strand) (object : Nat) (slot : Option Slot) : Bool :=
  match slot with
  | some f =>
    let h := t.handle (selNum f.a)
    barrierPoisoned s bench h.object || barwaitOver h (s.barrier bench h.object)
  | none =>
    let o := s.barrier bench object
    barrierPoisoned s bench object || t.handles.any (fun e => e.2.object == object && barwaitOver e.2 o)
      || barwaitOver { object := object } o

/-- BARWAIT (R295): then the acquire fence of R110. -/
def barwaitBody (t : Strand) (f : Slot) (s : State) : Res Flow :=
  let h := t.handle (selNum f.a)
  (barrierRead s.cur.bench h.object s).andThen fun o s1 =>
    if !barwaitOver h o then .wait (.barwait h.object)
    else
      (fenceBody t .acq .bench 15 s1).andThen fun _ s2 =>
        .ok .seq (s2.setStrand ((strandNow t s2).setHandle (selNum f.a) { h with arr := false }))

def execBarwait (f : Slot) (s : State) : Out := .next (issue f s fun t s0 => barwaitBody t f s0)

/-- BAREXP and BAREXP.arr (R295), saturating. -/
def execBarexp (f : Slot) (s : State) : Out :=
  .next (issue f s fun t s0 => (storeHold t s0).andThen fun _ s1 =>
    let obj := (t.handle (selNum f.a)).object
    let v := xOf t f.b
    (barrierRead s1.cur.bench obj s1).andThen fun o s2 =>
      let n := o.step fun o =>
        if f.m == 1 then { o with expect := min 65535 (o.expect + field v 0 16) }
        else { o with pend := min (2 ^ 56 - 1) (o.pend + v.toNat) }
      .ok .seq (s2.setBarrier s2.cur.bench obj n))

end Sys2Proof.Machine
end

