-- ==== Sys2Proof/Machine/SystemRegs.lean ====
section
/-! DEFINITION. System registers, performance counters and the FCR: opcodes 0xA0 to 0xA3 (R304 to R307, R170, R176, R215). -/

namespace Sys2Proof.Machine

/-- SYS.VSTAT (R170). -/
def vstat (c : Core) : Word :=
  place 11 1 c.claim.isSome.toNat ||| place 8 3 (c.claim.getD 0) ||| place 3 5 c.commands.length
    ||| place 2 1 (!c.sfu.isEmpty).toNat ||| place 1 1 (c.inFlight.any fun v => isMatrixOp v.opcode).toNat
    ||| place 0 1 (c.inFlight.any fun v => !isMatrixOp v.opcode).toNat

/-- SYS.LNK (R176). -/
def lnkWord (c : Core) : Word :=
  place 19 5 c.linkQueue.length ||| place 2 1 c.linkFeed.toNat ||| place 1 1 c.linkFwd.toNat ||| place 0 1 c.linkIn.toNat

/-- A rectangle in the layout of descriptor w1 (R49). -/
def rectWord (r : Rect) : Word := place 48 5 (r.w - 1) ||| place 40 4 (r.h - 1) ||| place 16 5 r.x ||| place 8 4 r.y

/-- A launch identifier (R300). -/
def launchId (l : Launch) : Word := place 52 12 l.ctx ||| place 0 32 l.number.toNat

/-- A barrier handle as a register (R294, R304). -/
def handleWord (h : Handle) : Word := place 7 1 h.arr.toNat ||| place 6 1 h.ph.toNat ||| place 0 6 h.object
def wordHandle (w : Word) : Handle := { arr := w.getLsbD 7, ph := w.getLsbD 6, object := field w 0 6 }

/-- The system register of a selector, if there is one (R304). -/
def sysRead (s : State) (t : Strand) (sel : Nat) : Option Word :=
  let h := s.hc s.cur.key
  let l := s.launch t.launch
  match sel with
  | 0x000 => some s.curCore.cycle
  | 0x001 => some (h.cause.setWidth 64)
  | 0x002 => some h.tval
  | 0x010 => some (headerWord t.message)
  | 0x011 => some (msgIdWord t.message)
  | 0x012 => some (place 0 12 t.rank)
  | 0x013 => some (if t.gangSize ≤ 1 then 0 else place 16 6 t.gangIndex ||| place 0 6 (t.gangSize - 1))
  | 0x014 => some (place 16 5 (s.cur.bench % 32) ||| place 8 4 (s.cur.bench / 32) ||| place 4 3 s.cur.hc ||| place 0 3 s.cur.seat)
  | 0x015 => some (rectWord l.rect)
  | 0x016 =>
    let depth := match s.ctx l.ctx with
      | some c => c.depth
      | none => 0
    some (place 52 12 l.ctx ||| place 37 3 depth ||| place 32 5 (s.partOf l.ctx))
  | 0x017 => some (launchId l)
  | 0x018 => some (place 0 4 t.message.expiry)
  | 0x020 => some (vstat s.curCore)
  | 0x021 => some (lnkWord s.curCore)
  | _ => if 0x030 ≤ sel && sel ≤ 0x03F then some (handleWord (t.handle (sel - 0x030))) else none

/-- SYSRD (R305). -/
def execSysrd (f : Slot) (s : State) : Out :=
  .next (issueD f s fun t s0 =>
    match sysRead s0 t (immField f 0 12) with
    | some w => .ok w s0
    | none => .fail .illegalOperand s0)

/-- SYSWR (R305): only the handles are writable. -/
def execSyswr (f : Slot) (s : State) : Out :=
  .next (issue f s fun t s0 =>
    let sel := immField f 0 12
    if 0x030 ≤ sel && sel ≤ 0x03F then .ok .seq (s0.setStrand (t.setHandle (sel - 0x030) (wordHandle (xOf t f.a))))
    else .fail .illegalOperand s0)

/-- A performance counter (R306); that of matrix work counts units of 512 MACs. -/
def perfCounter (s : State) (t : Strand) (event : Nat) : Word :=
  if event = 13 then s.curBench.softErrors
  else if event < 16 then (s.launch t.launch).counters.get (s.cur.bench * 64 + event) 0
  else 0

/-- The event is on the context's allow-list (R64). -/
def eventAllowed (s : State) (ctx event : Nat) : Bool :=
  match s.ctx ctx with
  | some c => c.allow.getLsbD event
  | none => false

/-- PERFRD (R306). -/
def execPerfrd (f : Slot) (s : State) : Out :=
  .next (issue f s fun t s0 =>
    let event := immField f 0 6
    let ok := eventAllowed s0 (s0.launch t.launch).ctx event
    let v := if ok then perfCounter s0 t event else 0
    (writeSel f.d v s0).andThen fun _ s1 => (writeSel f.c (if ok then 1 else 0) s1).andThen fun _ s2 => .ok .seq s2)

/-- What FCRW makes of the FCR (R307). -/
def fcrNew (m : Nat) (old a : Word) : Word :=
  match m with
  | 0 => old
  | 1 | 2 => a &&& fcrMask
  | 3 => old ||| (a &&& fcrMask)
  | _ => old &&& ~~~ a

/-- FCRW (R307): a read, and a write that changes a flag bit, wait until older vector, SFU and matrix commands have completed (R217), as MWAIT does (log 99). -/
def execFcrw (f : Slot) (s : State) : Out :=
  .next (issue f s fun t s0 =>
    let m := f.m.toNat
    let new := fcrNew m t.fcr (xOf t f.a)
    let reads := m = 0 || m = 2
    let waits := reads || (new ^^^ t.fcr) &&& fcrFlagMask != 0
    if waits && (!(strandCommands s0 s0.cur t).isEmpty || matrixWork s0 s0.cur t || pendingSfu s0 s0.cur) then .wait .older
    else
      let s1 := s0.setStrand { t with fcr := new }
      if reads then (writeSel f.d t.fcr s1).andThen fun _ s2 => .ok .seq s2 else .ok .seq s1)

end Sys2Proof.Machine
end

