-- ==== Sys2Proof/Machine/Sched.lean ====
section
/-! DEFINITION. The bench scheduler (R122 to R146): budgets, dispatch, gang reservations, activation, message arrival, task
ends, control nodes, watchdogs, gang deadlock and launch completion. -/

namespace Sys2Proof.Machine

/-! ## Benches, launches and ranks -/

/-- The running launch that holds a bench. -/
def launchOn (s : State) (bench : Nat) : Option Nat :=
  (s.launches.find? fun e => !e.2.stopped && e.2.rect.has (bench % 32) (bench / 32)).map (·.1)

/-- A context that is stopping, stopped, resuming or being killed, or one of its ancestors, up to `n` levels. -/
def haltedIn (s : State) : Nat → Nat → Bool
  | 0, _ => false
  | n + 1, ctx =>
    match s.ctx ctx with
    | some c =>
      !(decide (c.st = .idle) || decide (c.st = .running)) || (c.parent != Config.deviceCtx && haltedIn s n c.parent)
    | none => true

/-- No task starts in the subtree of a context that is stopping, stopped, resuming or being killed (R50, R67). -/
def startsNothing (s : State) (ctx : Nat) : Bool := haltedIn s 9 ctx

/-- The fault rings bound above a context leave the headroom of R36. -/
def ringHeadroomIn (s : State) : Nat → Nat → Bool
  | 0, _ => true
  | n + 1, ctx =>
    match s.ctx ctx with
    | none => true
    | some c =>
      let benches := match c.benches with
        | some r => r.w * r.h
        | none => 0
      let f := s.fn c.vf
      let ok := c.vf == 0 || decide (128 * benches < f.fr.free)
      ok && ringHeadroomIn s n c.parent

def ringHeadroom (s : State) (ctx : Nat) : Bool := ringHeadroomIn s 9 ctx

/-! ## Budgets (R60, R61, R136) -/

/-- One activation is paid for: from the token taken last, from a further token, or from a loan (R136). -/
def takeActivation (s : State) (bench launch : Nat) : Option State :=
  let l := s.launch launch
  let x := s.spending false bench l.ctx
  if x.activations != 0 then some (s.setSpending false bench l.ctx { x with activations := x.activations - 1 })
  else
    let own := ownTokens s false bench l.ctx
    let limit := if l.issueCap = 0 then own else min own l.issueCap
    if hasToken s false bench l.ctx && decide (x.spent < limit) then
      some (s.setSpending false bench l.ctx { x with spent := x.spent + 1, activations := 15 })
    else
      match borrowToken s false bench l.ctx with
      | none => none
      | some s1 =>
        let y := s1.spending false bench l.ctx
        some (countEvent (s1.setSpending false bench l.ctx { y with activations := 15 }) launch bench 10 1)

/-- `Budget.Take(n)`: all of it or none (R136, R138). -/
def takeBudget (bench launch : Nat) : Nat → State → Option State
  | 0, s => some s
  | n + 1, s =>
    match takeActivation s bench launch with
    | some s1 => takeBudget bench launch n s1
    | none => none

/-- Repayment to lenders, oldest loan first (R61). -/
def repay : List Loan → Nat → List Loan × List (Nat × Nat)
  | [], _ => ([], [])
  | l :: rest, n =>
    let pay := min l.amount n
    let r := repay rest (n - pay)
    (if pay < l.amount then { l with amount := l.amount - pay } :: r.1 else r.1, (l.lender, pay) :: r.2)

/-- A period of a bench or a port begins (R60, R61): every borrower pays back what its debt and half its own tokens allow,
and the lenders are credited. -/
def newPeriod (s : State) (port : Bool) (unit : Nat) : State :=
  let here (l : Loan) : Bool := l.port == port && l.unit == unit
  let lo := spendKey port unit 0
  let s0 := s.setCtl { s.ctl with spending := s.ctl.spending.filter fun e => !(decide (lo ≤ e.1) && decide (e.1 < lo + 4096)) }
  let unspent (l : Launch) : Launch := { l with portSpent := l.portSpent.drop unit }
  let s1 := if port then { s0 with launches := s0.launches.mapAll fun _ l => unspent l } else s0
  let borrowers := (s1.ctl.loans.filter here).map (·.borrower)
  borrowers.eraseDups.foldl
    (fun s c =>
      let mine (l : Loan) : Bool := here l && l.borrower == c
      let pay := min (debtOn s port unit c) (heldTokens s port c / 2)
      let r := repay (s.ctl.loans.filter mine) pay
      let s2 := s.setCtl { s.ctl with loans := r.1 ++ s.ctl.loans.filter fun l => !mine l }
      let x := s2.spending port unit c
      r.2.foldl
        (fun s p =>
          let y := s.spending port unit p.1
          s.setSpending port unit p.1 { y with credit := y.credit + p.2 })
        (s2.setSpending port unit c { x with deduct := pay })) s1

/-- ISSUE_PERIOD: the bench's scheduler has counted the core clocks of a period (R24, R60). -/
def issuePeriod (s : State) : State :=
  let b := s.curBench
  if b.periodClocks < 65536 then s else newPeriod (s.setCurBench { b with periodClocks := 0 }) false s.cur.bench

def execIssuePeriod (s : State) : Out := .next (issuePeriod s)
def execBandwidthPeriod (s : State) : Out := .next (newPeriod s true s.cur.bench)

/-! ## Choosing a message (R137) -/

/-- A message that has not been dispatched, or has come back (R135, R137). -/
def undispatched (m : Message) : Bool := !m.active && !m.attached

/-- The task that a message started has ended (R124). -/
def taskOver (l : Launch) (m : Message) : Bool := (l.tasks.find m.key).isNone

/-- The rank is held by a record (R66). -/
def rankHeld (l : Launch) (rank : Nat) : Bool := l.rankHolds.any fun h => h.rank == rank

/-- The message that a seat dispatches next (R137): a completion or system message before any other, past those that are
deferred (R157). A held rank dispatches none but these, since R137 comes to the hold of R66 after it has looked for them (log 70). One whose aborted task has not ended keeps its place, and those behind it wait (R124, log 70). -/
def nextMessage (l : Launch) (rank : Nat) : Option Message :=
  let ready := (l.mailboxes.get rank []).filter fun m => undispatched m && !m.defer
  let device := ready.find? fun m => !m.ordinary
  (device.or (if rankHeld l rank then none else ready.head?)).filter (taskOver l)

/-- A bench may start a task of the launch now (R36, R137, R145, R146). -/
def mayStart (s : State) (launch : Nat) : Bool :=
  let l := s.launch launch
  !l.fenced && !l.stopped && !startsNothing s l.ctx && ringHeadroom s l.ctx

/-! ## Hardware contexts and reservations (R138) -/

/-- The free hardware contexts of a seat, lowest first. -/
def freeHcs (s : State) (bench seat : Nat) : List Nat :=
  (List.range 8).filter fun h => (s.strandAt { bench := bench, seat := seat, hc := h }).isNone

/-- The gang start that a bench's reservation is for, if it still waits in its mailbox. -/
def reservedGang (s : State) (bench : Nat) : Option (Nat × Message) :=
  match (s.bench bench).gang with
  | none => none
  | some (k, key) =>
    let l := s.launch k
    match (l.mailboxes.flatMap (·.2)).find? fun m => m.key == key with
    | some m => if undispatched m && taskOver l m then some (k, m) else none
    | none => none

/-- How many strands a gang start places on a seat. -/
def gangNeeds (l : Launch) (m : Message) (seat : Nat) : Nat :=
  let at_ := (l.rank m.dest).seat
  ((List.range l.gangSize).filter fun i => (at_ + i) % 8 == seat).length

/-- A free hardware context of a seat that no reservation keeps. -/
def unreserved (s : State) (bench seat : Nat) : Bool :=
  let free := (freeHcs s bench seat).length
  match reservedGang s bench with
  | some (k, m) => decide (gangNeeds (s.launch k) m seat < free)
  | none => decide (0 < free)

/-- The places of a gang's strands: seats in turn, the lowest free hardware contexts. -/
def gangPlaces (s : State) (bench : Nat) (l : Launch) (m : Message) : Option (List Focus) :=
  let at_ := (l.rank m.dest).seat
  (List.range l.gangSize).mapM fun i =>
    let seat := (at_ + i) % 8
    ((freeHcs s bench seat)[i / 8]?).map fun h => { bench := bench, seat := seat, hc := h }

/-! ## Activation (R123) -/

/-- Payload words 0 to 7 as x1 to x8; a capsule step receives its header and its entry (R206). -/
def startRegs (m : Message) : Table Word :=
  match m.capsule with
  | some c => [(1, c.header), (2, c.entries.getD (capCursor c) 0)]
  | none => (List.range 8).map fun i => (i + 1, if 8 * i < 32 * m.plen then byteWord m.payload i else 0)

/-- The PC of a strand: the handler's entry, or the PC a migrant carries (R123, R201). -/
def startPc (l : Launch) (m : Message) : Word := if m.cls == 1 then byteWord m.payload 8 else l.handlers.getD m.hidx 0

/-- Banks kept by HALT.R stay for a strand of that handler, a capsule step's too, and are powered down before any other (R202,
R206). -/
def settleBanks (s : State) (core : Nat) (handler : Option Nat) : State :=
  let c := s.core core
  let gone := (c.kept.filter fun k => some k.handler != handler).flatMap (·.banks)
  s.setCore core { gone.foldl powerDown c with kept := [] }

/-- One strand is put on its hardware context; activation acquires at .pkg (R110). -/
def placeStrand (s : State) (launch : Nat) (m : Message) (size : Nat) (f : Focus) (i : Nat) : State :=
  let l := s.launch launch
  let s1 := settleBanks (dropRc s f.core) f.core (if m.cls == 1 then none else some m.hidx)
  let t : Strand :=
    { launch := launch, message := m, rank := m.dest, gangIndex := i, gangSize := size, xs := startRegs m, pc := startPc l m
      group := startPc l m, capsule := m.capsule, born := s1.ticket + 1
      touches := (m.holds.filter fun h => h.strand == i).map fun h => (h.region, h.block) }
  countEvent (s1.nextTicket.setStrandAt f (some t)) launch f.bench 12 1

/-- The message in its mailbox is marked dispatched. -/
def markActive (s : State) (launch : Nat) (m : Message) : State :=
  let l := s.launch launch
  let mark (x : Message) : Message := if x.key == m.key then { x with active := true, snapshot := none, holds := [] } else x
  s.setLaunch launch { l with mailboxes := l.mailboxes.put m.dest ((l.mailboxes.get m.dest []).map mark) }

/-- The strands of a task are activated in one step. -/
def activate (s : State) (launch : Nat) (m : Message) (places : List Focus) : State :=
  let f0 := places.headD {}
  let l := s.launch launch
  let task : Task :=
    { rank := m.dest, bench := f0.bench, seat := f0.seat, live := places.length, gang := m.cls == 3
      descriptor := m.descriptor, snapshot := m.snapshot }
  let s1 := markActive (s.setLaunch launch { l with tasks := l.tasks.put m.key task }) launch m
  (places.zip (List.range places.length)).foldl (fun s p => placeStrand s launch m places.length p.1 p.2) s1

/-! ## Slots that free -/

/-- A mailbox slot has freed: overflow messages move in first, then those of the device that wait (R134, R135, log 71). -/
def slotFreed (s : State) (launch rank : Nat) : State :=
  let n := ((s.launch launch).overflow.get rank []).length
  drainAll launch (moveIn launch rank n s)

/-- A message whose handler does not exist starts no strand: it is removed and reported failed (R123). -/
def refuseMessage (s : State) (launch : Nat) (m : Message) (f : Focus) : State :=
  let l := s.launch launch
  let t : TrapInfo := { cause := .illegalOp }
  let recipient := recipientOf s t l.ctx
  let rec_ := mkRecord s s.ticket t l.ctx recipient { failed := true } (msgIdWord m) noId
    (placementWord recipient m.dest f)
  let s1 := deliverRecord s.nextTicket (fnFor s recipient) rec_
  let s2 := removeMessage (failLaunch s1 launch) f.bench launch m.dest m.key
  slotFreed (messageGone launch s2 m) launch m.dest

/-- A message is activated on its places, or refused (R123). -/
def startMessage (s : State) (launch : Nat) (m : Message) (places : List Focus) : State :=
  if m.cls != 1 && (s.launch launch).handlerCount ≤ m.hidx then refuseMessage s launch m (places.headD {})
  else activate s launch m places

/-- The gang starts at the heads of a bench's mailboxes, by seat. -/
def gangHeads (s : State) (bench : Nat) (launch : Nat) : List Message :=
  let l := s.launch launch
  (List.range 8).filterMap fun seat =>
    match rankAt l bench seat with
    | none => none
    | some r => (nextMessage l r).bind fun m => if m.cls == 3 then some m else none

/-- A gang start entered its mailbox before another: of two in one clock, neither did (R138). -/
def enteredBefore (a b : Message) : Bool := a.enteredClock != b.enteredClock && decide (a.entered < b.entered)

/-- The reservation is taken by the gang start that entered its mailbox earliest, then the lowest seat (R138). -/
def reserveGang (s : State) (bench launch : Nat) : State :=
  let b := s.bench bench
  if (reservedGang s bench).isSome then s
  else
    match (gangHeads s bench launch).foldl (fun (o : Option Message) m =>
        match o with
        | some x => if enteredBefore m x then some m else o
        | none => some m) none with
    | some m => s.setBench bench { b with gang := some (launch, m.key) }
    | none => s.setBench bench { b with gang := none }

/-- What the scheduler of a seat does with a free hardware context (R137). `pay` takes the budget of one activation. -/
def dispatchAt (s : State) (f : Focus) (pay : Nat → State → Option State) : State :=
  match launchOn s f.bench with
  | none => s
  | some k =>
    let l := s.launch k
    if (s.strandAt f).isSome || !mayStart s k || !unreserved s f.bench f.seat then s
    else
      match rankAt l f.bench f.seat with
      | none => s
      | some r =>
        match nextMessage l r with
        | none => s
        | some m =>
          if m.cls == 3 then reserveGang s f.bench k
          else if !m.ordinary then startMessage s k m [f]
          else
            match pay k s with
            | some s1 => startMessage s1 k m [f]
            | none => s

/-- TASK_DISPATCH (R137). -/
def execTaskDispatch (s : State) : Out := .next (dispatchAt s s.cur fun k s1 => takeBudget s.cur.bench k 1 s1)

/-- GANG_ACTIVATION (R138): the reservation's count is met, the rank is not held, and the budget pays. -/
def gangStart (s : State) (bench : Nat) (pay : Nat → Nat → State → Option State) : State :=
  match reservedGang s bench with
  | none => s.setBench bench { s.bench bench with gang := none }
  | some (k, m) =>
    let l := s.launch k
    if !mayStart s k || rankHeld l m.dest then s
    else
      match gangPlaces s bench l m with
      | none => s
      | some places =>
        match pay k l.gangSize s with
        | none => s
        | some s1 => startMessage (s1.setBench bench { s1.bench bench with gang := none }) k m places

def execGangActivation (s : State) : Out :=
  let b := s.cur.bench
  .next (gangStart s b fun k n s1 => takeBudget b k n s1)

/-- Beyond loans: `n` activations once 4,096 core clocks for each have passed since the last, or since the bench came into service
where there has been none, whatever launches it has held since (R136, log 117). -/
def throttlePay (bench n : Nat) (s : State) : Option State :=
  let b := s.bench bench
  if 4096 * n ≤ b.idleClocks then some (s.setBench bench { b with idleClocks := 0 }) else none

/-- The gang of a bench's reservation could start now, its budget apart: the count is met, and the rank is not held (R66, R138). -/
def gangReady (s : State) (bench : Nat) : Bool :=
  match reservedGang s bench with
  | some (k, m) => mayStart s k && !rankHeld (s.launch k) m.dest && (gangPlaces s bench (s.launch k) m).isSome
  | none => false

/-- THROTTLED_ACTIVATION (R136): only where the budget and loans do not pay. A gang that is ready comes before a message of one strand
(log 117). -/
def execThrottledActivation (s : State) : Out :=
  let b := s.cur.bench
  .next
    (if gangReady s b then
       gangStart s b fun k n s1 => if (takeBudget b k n s1).isSome then none else throttlePay b n s1
     else dispatchAt s s.cur fun k s1 => if (takeBudget b k 1 s1).isSome then none else throttlePay b 1 s1)

/-! ## Message arrival (R135, R196, R199) -/

/-- A message that left an interface is delivered, quarantined, or stays where it is. -/
def deliverMessage (s : State) (launch : Nat) (m : Message) : Option State :=
  let l := s.launch launch
  let r := l.rank m.dest
  if r.st == rankInvalid then some (quarantine s launch m 2 none)
  else if r.st == rankTransit then none
  else placeMessage s launch m

/-- The first message in flight from a bench to a rank finds no room there, and is held at its interface (R135, R200). -/
def holdFlight (s : State) (bench launch dest : Nat) : State :=
  let b := s.bench bench
  match s.flights.find? fun x => x.source == some bench && x.launch == launch && x.message.dest == dest with
  | none => s
  | some x =>
    if 64 ≤ b.held.length then s
    else
      let s1 : State := { s with flights := s.flights.filter fun y => !(y.launch == launch && y.message.key == x.message.key) }
      countEvent (s1.setBench bench { b with held := b.held ++ [{ launch := launch, message := x.message }] }) launch bench 15 1

/-- MESSAGE_ARRIVAL: the messages of a bench's interface are its held ones and then those in flight; of those to one rank
the first goes first (R196, R200). Where it finds no room, the next one in flight is held behind it (R135). -/
def arrival (bench index : Nat) (s : State) : State :=
  let b := s.bench bench
  let flying := s.flights.filter fun x => x.source == some bench
  let all := b.held ++ flying.map fun x => { launch := x.launch, message := x.message : HeldMessage }
  match all[index]? with
  | none => s
  | some h =>
    match all.find? fun x => x.launch == h.launch && x.message.dest == h.message.dest with
    | none => s
    | some first =>
      let m := first.message
      let l := s.launch first.launch
      let wasHeld := b.held.any fun x => x.launch == first.launch && x.message.key == m.key
      if l.stopped then s
      else
        let s1 : State :=
          if wasHeld then
            s.setBench bench { b with held := b.held.filter fun x => !(x.launch == first.launch && x.message.key == m.key) }
          else { s with flights := s.flights.filter fun x => !(x.launch == first.launch && x.message.key == m.key) }
        match deliverMessage s1 first.launch m with
        | some s2 => slotFreed s2 first.launch m.dest
        | none => holdFlight s bench first.launch m.dest

def execMessageArrival (bench index : Nat) (s : State) : Out := .next (arrival bench index s)

/-! ## The end of a task (R124) -/

/-- The first arm of a descriptor is decremented. -/
def endDescriptor (s : State) (launch : Nat) (d : Option Nat) : State :=
  match d with
  | none => s
  | some n =>
    match (s.launch launch).descriptors[n]? with
    | some x => decrementAll s launch (x.arms.headD [])
    | none => s

/-- TASK_END: every strand has ended and every engine command is over (R124, R132, R160). -/
def taskEnd (launch task : Nat) (s : State) : State :=
  let l := s.launch launch
  match l.tasks.find task with
  | none => s
  | some t =>
    if t.live != 0 || !(taskStrands s launch task).isEmpty || taskEngineWork s t.bench launch task then s
    else
      let s1 := if t.fate = .halted then endDescriptor s launch t.descriptor else s
      let s2 := if decide (t.fate = .halted) || decide (t.fate = .failed) then removeMessage s1 t.bench launch t.rank task else s1
      let l2 := s2.launch launch
      let s3 := s2.setLaunch launch { l2 with tasks := l2.tasks.drop task }
      slotFreed (snapEnded s3 launch t.snapshot) launch t.rank

def execTaskEnd (launch task : Nat) (s : State) : Out := .next (taskEnd launch task s)

/-! ## Control nodes (R133) -/

/-- Counters of a loop's body are set again. -/
def rearmBody (l : Launch) (first last : Nat) : Launch :=
  { l with
    deps := (upFrom first (last + 1 - first)).foldl
      (fun d i => d.put i (match l.descriptors[i]? with
        | some x => x.deps
        | none => 0)) l.deps }

/-- One control node is evaluated. -/
def evaluateNode (s : State) (launch task : Nat) (d : Descriptor) (w : Word) : State :=
  let arm :=
    match d.kind with
    | 4 => min w.toNat (d.armCount - 1)
    | _ => if w != 0 then 0 else 1
  let l := s.launch launch
  let l1 := if d.kind == 3 && arm == 0 then rearmBody l d.first d.last else l
  let l2 := { l1 with deps := l1.deps.put task d.deps }
  decrementAll (s.setLaunch launch l2) launch (d.arms.getD arm [])

/-- CONTROL_NODE_EVALUATION (R133): the oldest ready control node that waits for no record. -/
def controlNode (launch : Nat) (s : State) : State :=
  let l := s.launch launch
  let control (u : Unread) : Bool :=
    u.record.isNone && (match l.descriptors[u.task]? with
      | some d => decide (2 ≤ d.kind)
      | none => false)
  if l.stopped then s
  else
    match l.unread.find? control with
    | none => s
    | some u =>
      match l.descriptors[u.task]? with
      | none => s
      | some d =>
        let s1 := s.setLaunch launch { l with unread := l.unread.filter fun x => !(control x && x.task == u.task) }
        match deviceRead s1 l.ctx d.control 8 with
        | .ok bs s2 => evaluateNode s2 launch u.task d (byteWord bs 0)
        | .trap t s2 =>
          let r := deviceFault s2 l.ctx t
          keepUnread r.1 launch u.task (some r.2) u.since
        | _ => s

def execControlNodeEvaluation (launch : Nat) (s : State) : Out := .next (controlNode launch s)

/-! ## Watchdog and deadlock (R141, R144) -/

/-- The live strand of a task with the lowest strand index. -/
def lowestStrand (s : State) (launch key : Nat) : Option Focus :=
  (taskStrands s launch key).foldl
    (fun (o : Option Focus) f =>
      let index (g : Focus) : Nat := match s.strandAt g with
        | some t => t.gangIndex
        | none => 0
      match o with
      | some g => if index f < index g then some f else o
      | none => some f) none

/-- WATCHDOG (R141): the budget of the strand that State.cur names is used up. -/
def watchdog (s : State) : State :=
  match s.strand with
  | none => s
  | some t =>
    let l := s.launch t.launch
    let live := taskStrands s t.launch t.message.key
    if t.clocks < l.budget || live.any (inCtxOp s) then s
    else
      match lowestStrand s t.launch t.message.key with
      | none => s
      | some f =>
        countEvent (abortTask s { first := f, info := { cause := .watchdog }, expire := true }) t.launch f.bench 9 1

def execWatchdog (s : State) : Out := .next (watchdog s)

/-- A strand is in a gang-local wait, and what it waits for has not come (R144). -/
def gangLocalWait (s : State) (f : Focus) : Bool :=
  match s.strandAt f with
  | none => false
  | some t =>
    match t.wait with
    | none => false
    | some w =>
      match w.why with
      | .ldw off => !(s.core f.core).full.contains (off / 8)
      | .barwait object => !barwaitReady s f.bench t object w.slot
      | .queueRead n | .queueWrite n => decide (8 ≤ n) && !queueReady (s.setCur f) t w.why
      | .claim =>
        match (s.core f.core).claim with
        | some h =>
          match (if (s.core f.core).holds h then s.strandAt { f with hc := h } else none) with
          | some o => o.launch == t.launch && o.message.key == t.message.key
          | none => false
        | none => false
      | _ => false

/-- Every live strand of a gang is in a gang-local wait, and none of its engine commands is outstanding (R144). -/
def gangStuck (s : State) (f : Focus) : Bool :=
  match s.strandAt f with
  | none => false
  | some t =>
    t.message.cls == 3 && (taskStrands s t.launch t.message.key).all (gangLocalWait s)
      && !taskEngineWork s f.bench t.launch t.message.key

/-- GANG_DEADLOCK (R144): the wait has held for 256 core clocks. -/
def gangDeadlock (s : State) : State :=
  match s.strand with
  | none => s
  | some t =>
    let live := taskStrands s t.launch t.message.key
    let long (f : Focus) : Bool := match s.strandAt f with
      | some x => decide (256 ≤ x.gangWait)
      | none => false
    if !gangStuck s s.cur || !live.all long then s
    else
      match live with
      | [] => s
      | f :: _ => abortTask s { first := f, info := { cause := .gangDeadlock }, others := .gangDeadlock, expire := true }

def execGangDeadlock (s : State) : Out := .next (gangDeadlock s)

/-! ## Launch completion (R130) -/

/-- No strand or task of a launch is at work. -/
def launchQuiet (s : State) (launch : Nat) : Bool :=
  (s.launch launch).tasks.isEmpty
    && !(s.hcs.any fun h => match h.2.strand with
        | some t => t.launch == launch
        | none => false)

/-- A message of a launch is on its way, or held at an interface. -/
def launchSends (s : State) (launch : Nat) : Bool :=
  (s.flights.any fun f => f.launch == launch) || s.benches.any fun b => b.2.held.any fun h => h.launch == launch

/-- Nothing of a launch is left to do (R130); one whose bench was fenced starts no more tasks, and is over once those it had
started have ended (R145). -/
def launchDone (s : State) (launch : Nat) : Bool :=
  let l := s.launch launch
  launchQuiet s launch && l.collectives.all (fun c => !c.2.running && c.2.waiting.isEmpty)
    && (l.fenced ||
      (!launchSends s launch && l.pool.isEmpty && l.spill.isEmpty && l.unread.isEmpty && l.deviceHeld.isEmpty
        && l.waiting.isEmpty && l.mailboxes.all (·.2.isEmpty) && l.overflow.all (·.2.isEmpty)
        && l.blocks.all (fun b => b.2.queue.isEmpty && b.2.snapshot.isEmpty)))

/-- A task was reported failed, or a counter never reached zero (R130). -/
def launchFailed (l : Launch) : Bool := l.failed || l.fenced || (List.range l.taskCount).any fun i => !l.reached.contains i

/-- The lines of a block: first and last address. -/
def blockRange (l : Launch) (gb : Nat × Nat) : Nat × Nat :=
  match l.regions[gb.1]? with
  | some g =>
    let size := 2 ^ (g.bsz + 14)
    (g.base + gb.2 * size, g.base + gb.2 * size + size - 1)
  | none => (1, 0)

/-- A block's frame is written back and dropped, once the atomics accepted at its lines have been performed (R161). -/
def evictFrame (s : State) (launch : Nat) (gb : Nat × Nat) : State :=
  let r := blockRange (s.launch launch) gb
  let s1 := performAll (fun n => decide (r.1 ≤ n.va) && decide (n.va ≤ r.2)) s
  ((llcOverlap s1.mem r.1 r.2).filter (·.frame)).foldl dropLine s1

/-- Every frame of a launch is given up (R130, R165). -/
def evictAll (s : State) (launch : Nat) : State :=
  (s.launch launch).blocks.foldl (fun s b => evictFrame s launch (b.1 / 2 ^ 28, b.1 % 2 ^ 28)) s

/-- The benches of a launch are given up: sessions closed, queues emptied, reservations and kept banks dropped (R180, R188,
R202). -/
def releaseBench (s : State) (bench : Nat) : State :=
  let b := s.bench bench
  let s1 := s.setBench bench { b with sessions := [], gang := none, store := [], queues := [] }
  (upFrom (bench * 8) 8).foldl
    (fun s k =>
      let s2 := settleBanks s k none
      s2.setCore k { s2.core k with queues := [] }) s1

/-- A message that the controller makes for a rank of a launch (R194, R302). -/
def controllerMessage (s : State) (launch rank handler : Nat) (words : List Word) : State :=
  let m : Message := { hidx := handler, cls := 4, plen := 1, dest := rank, payload := wordsToBytes words }
  let n := numberDevice s launch m
  placeDevice n.1 launch n.2

/-- The issuer of a CTXSTART is told that the launch is over (R302). -/
def tellIssuer (s : State) (l : Launch) (failed : Bool) : State :=
  match l.issuer with
  | .nobody => s
  | .host fn slot tag =>
    postCompletion s fn
      { w0 := completionWord tag 0 slot, w1 := launchId l ||| place 49 1 1 ||| place 48 1 failed.toNat }
  | .strand k _ =>
    if !l.notify.getLsbD 31 then s
    else
      let rank := field l.notify 0 12
      let words := [launchId l, if failed then 1 else 0, 0, 0]
      if ((s.launch k).rank rank).st == rankValid then controllerMessage s k rank (field l.notify 16 8) words
      else
        let n := numberDevice s k
          { hidx := field l.notify 16 8, cls := 4, plen := 1, dest := rank, payload := wordsToBytes words }
        quarantine n.1 k { n.2 with ctx := s.parentOf l.ctx } 2 none

/-- The messages of a launch that wait at a rank: in its mailbox, and device-made ones that find no room there, which an image
saves as entries of it (R165). -/
def Launch.boxed (l : Launch) (rank : Nat) : List Message :=
  l.mailboxes.get rank [] ++ l.deviceHeld.filter fun m => m.dest == rank

/-- Messages of a launch in the order of the sections of an image (R69, R71, R360): tasks of the pool, mailboxes, overflow
queues, park queues, then capsules and migrants: those of the mailboxes, of the park queues, held and in flight. -/
def launchMessages (s : State) (launch : Nat) : List Message :=
  let l := s.launch launch
  let plain (ms : List Message) : List Message := ms.filter fun m => m.capsule.isNone
  let bodies (ms : List Message) : List Message := ms.filter fun m => m.capsule.isSome
  let held := (s.benches.flatMap (·.2.held)).filter fun h => h.launch == launch
  let boxes := (List.range l.rankCount).flatMap l.boxed
  let parked := l.blocks.flatMap fun b => b.2.snapshot ++ b.2.queue
  l.readyTasks ++ plain boxes ++ (List.range l.rankCount).flatMap (fun r => l.overflow.get r [])
    ++ plain parked ++ bodies boxes ++ bodies parked
    ++ held.map (·.message) ++ (s.flights.filter fun f => f.launch == launch).map (·.message)

/-- Messages of a launch that stand in mailboxes and hold a capsule body, by bench. -/
def capsuleBodies (l : Launch) (bench : Nat) : Nat :=
  l.mailboxes.foldl
    (fun n e => if (l.rank e.1).bench == bench then n + (e.2.filter fun m => m.capsule.isSome).length else n) 0

/-- Every message of a launch leaves its place. -/
def dropMessages (s : State) (launch : Nat) : State :=
  let l := s.launch launch
  let s1 := l.rect.benches.foldl
    (fun s b =>
      let x := s.bench b
      s.setBench b { x with capsules := x.capsules - capsuleBodies l b }) s
  { s1 with
    flights := s1.flights.filter fun f => f.launch != launch
    benches := s1.benches.mapAll fun _ b => { b with held := b.held.filter fun h => h.launch != launch } }

/-- What a launch holds is released (R130). The messages that a fenced launch leaves undispatched find their ranks INVALID
(R145, R198, R207, log 88). -/
def releaseLaunch (s : State) (launch : Nat) : State :=
  let l := s.launch launch
  let s0 := dropMessages ((launchMessages s launch).foldl (fun s m => quarantine s launch m 2 none) s) launch
  let s1 := evictAll s0 launch
  let s2 := l.rect.benches.foldl releaseBench s1
  { s2 with launches := s2.launches.drop launch }

/-- A context with no launch left is IDLE again (R50). -/
def idleIfDone (s : State) (ctx : Nat) : State :=
  match s.ctx ctx with
  | some c => if decide (c.st = .running) && !(s.launches.any fun e => e.2.ctx == ctx) then s.setCtx ctx { c with st := .idle } else s
  | none => s

/-- LAUNCH_COMPLETE (R130). -/
def launchComplete (launch : Nat) (s : State) : State :=
  match s.launches.find launch with
  | none => s
  | some l =>
    if l.stopped || !launchDone s launch then s
    else tellIssuer (idleIfDone (releaseLaunch s launch) l.ctx) l (launchFailed l)

def execLaunchComplete (launch : Nat) (s : State) : Out := .next (launchComplete launch s)

end Sys2Proof.Machine
end

