-- ==== Sys2Proof/Machine/Links.lean ====
section
/-! DEFINITION. Trobin links (R18 to R22): flits, credits, the link-level retry protocol, retraining and the loss of a link. -/

namespace Sys2Proof.Machine

/-! ## Flits (R20) -/

/-- One bit of CRC-32C, least significant bit first. -/
def crcBit (c : BitVec 32) : BitVec 32 := if c.getLsbD 0 then (c >>> 1) ^^^ 0x82F63B78#32 else c >>> 1

/-- One byte of CRC-32C. -/
def crcByte (c : BitVec 32) (b : Byte) : BitVec 32 :=
  crcBit (crcBit (crcBit (crcBit (crcBit (crcBit (crcBit (crcBit (c ^^^ b.setWidth 32))))))))

/-- CRC-32C of a list of bytes. -/
def crc32c (bs : List Byte) : BitVec 32 := ~~~ (bs.foldl crcByte (BitVec.allOnes 32))

/-- Flit types. -/
def flitIdle : Nat := 0
def flitData : Nat := 1
def flitControl : Nat := 2
def flitManage : Nat := 3

/-- A flit from its fields; byte 0 is the least significant. -/
def mkFlit (type channel : Nat) (seq : BitVec 12) (returns : Nat) (ack : BitVec 12) (payload : BitVec 448) : BitVec 512 :=
  let body : BitVec 480 := payload ++ BitVec.ofNat 4 returns ++ ack ++ BitVec.ofNat 2 type ++ BitVec.ofNat 2 channel ++ seq
  crc32c (natToBytes body.toNat 60) ++ body

def flitSeq (x : BitVec 512) : BitVec 12 := x.extractLsb' 0 12
def flitChannel (x : BitVec 512) : Nat := (x.extractLsb' 12 2).toNat
def flitType (x : BitVec 512) : Nat := (x.extractLsb' 14 2).toNat
def flitAck (x : BitVec 512) : BitVec 12 := x.extractLsb' 16 12
def flitReturn (x : BitVec 512) : Nat := (x.extractLsb' 28 4).toNat
def flitPayload (x : BitVec 512) : BitVec 448 := x.extractLsb' 32 448
def flitCrc (x : BitVec 512) : BitVec 32 := x.extractLsb' 480 32

/-- The type that a channel allows (R18). -/
def channelAllows (channel type : Nat) : Bool :=
  match channel with
  | 1 => type == flitControl
  | 2 => type == flitManage
  | _ => type == flitData

/-- The check of R20. -/
def flitGood (x : BitVec 512) : Bool :=
  flitCrc x == crc32c (natToBytes x.toNat 60)
    && (flitReturn x == 15 || decide (flitReturn x < 4))
    && (if flitType x == flitIdle then flitChannel x == 0 else channelAllows (flitChannel x) (flitType x))

/-! ## Sending -/

/-- Receive buffers of a channel (R18). -/
def channelCredits (channel : Nat) : Nat :=
  match channel with
  | 0 => 256
  | 1 => 64
  | 2 => 16
  | _ => 128

/-- A link that has just been brought up (R18, R22). -/
def freshLink (l : TrobinLink) (lanes : Nat) : TrobinLink :=
  { l with
    up := true, lanes := lanes, txSeq := 0, rxSeq := 0, replay := [], retries := 0, retrySeq := 0, asked := 0
    retraining := false, outbox := [], told := []
    credits := (List.range 4).map fun v => (v, channelCredits v) }

/-- A link carries flits. -/
def TrobinLink.live (l : TrobinLink) : Bool := l.up && !l.retraining

/-- A non-idle flit is sent on a channel that has a credit, and kept for a resend (R18, R21). -/
def sendFlit (l : TrobinLink) (type channel : Nat) (payload : BitVec 448) : Option TrobinLink :=
  let credit := l.credits.get channel 0
  if !l.live || credit = 0 then none
  else
    let x := mkFlit type channel l.txSeq 15 (l.rxSeq - 1) payload
    some { l with
      txSeq := l.txSeq + 1, replay := l.replay ++ [(l.txSeq, x)], credits := l.credits.put channel (credit - 1)
      sent := x :: l.sent }

/-- The type of the flits of a channel. -/
def channelType (channel : Nat) : Nat := if channel = 1 then flitControl else if channel = 2 then flitManage else flitData

/-- The flits that wait go while their channel has a credit, oldest first on each channel (R18). -/
def pumpLink (l : TrobinLink) : TrobinLink :=
  l.outbox.foldl
    (fun x q =>
      match sendFlit x (channelType q.1) q.1 q.2 with
      | some y => y
      | none => { x with outbox := x.outbox ++ [q] }) { l with outbox := [] }

/-- A flit is given to a link that is up, and goes once its channel has a credit. -/
def offerFlit (l : TrobinLink) (channel : Nat) (payload : BitVec 448) : TrobinLink :=
  if l.up then pumpLink { l with outbox := l.outbox ++ [(channel, payload)] } else l

/-- An idle flit acknowledges what has been received and returns a credit (R18, R20). -/
def sendIdle (l : TrobinLink) (returns : Nat) : TrobinLink :=
  { l with sent := mkFlit flitIdle 0 l.txSeq returns (l.rxSeq - 1) 0 :: l.sent }

/-! ## Receiving (R21) -/

/-- Flits up to the acknowledged one leave the replay buffer. The count of successive retries of a sequence number ends where its
flit is among them; the acknowledgement of an earlier flit leaves it (R22). -/
def acknowledge (l : TrobinLink) (ack : BitVec 12) : TrobinLink :=
  match indexWhere (fun (e : BitVec 12 × BitVec 512) => e.1 == ack) l.replay with
  | some i =>
    { l with
      replay := l.replay.drop (i + 1)
      retries := if (l.replay.take (i + 1)).any fun e => e.1 == l.retrySeq then 0 else l.retries }
  | none => l

/-- A credit comes back. -/
def returnCredit (l : TrobinLink) (channel : Nat) : TrobinLink :=
  if channel < 4 then { l with credits := l.credits.change channel 0 fun n => min (n + 1) (channelCredits channel) } else l

/-- Successive retries of one sequence number after which a link retrains (R22). -/
def retryLimit : Nat := 8

/-- A flit that fails its check or is out of sequence is discarded, with a retry request, of which the eighth for one number
makes the link retrain (R22); any other is delivered. -/
def receiveFlit (l : TrobinLink) (x : BitVec 512) : TrobinLink :=
  if !l.live then l
  else if !flitGood x || flitSeq x != l.rxSeq then
    { l with requests := l.rxSeq :: l.requests, asked := l.asked + 1, retraining := decide (retryLimit ≤ l.asked + 1) }
  else
    let l1 := pumpLink (returnCredit (acknowledge l (flitAck x)) (flitReturn x))
    if flitType x == flitIdle then l1
    else
      let l2 := { l1 with rxSeq := l1.rxSeq + 1, asked := 0, delivered := (flitChannel x, flitPayload x) :: l1.delivered }
      sendIdle l2 (flitChannel x)

/-- FLIT_RECEIVED. -/
def execFlitReceived (link : Nat) (flit : BitVec 512) (s : State) : Out :=
  .next (if s.mgc.mainOn then s.setLink link (receiveFlit (s.link link) flit) else s)

/-- Held flits from a sequence number on are sent again. -/
def resendFrom (l : TrobinLink) (seq : BitVec 12) : TrobinLink :=
  match indexWhere (fun (e : BitVec 12 × BitVec 512) => e.1 == seq) l.replay with
  | some i => { l with sent := ((l.replay.drop i).map (·.2)).reverse ++ l.sent }
  | none => l

/-- RETRY_REQUEST (R21, R22): go-back-N; the eighth successive one for a sequence number makes the link retrain. -/
def retryLink (l : TrobinLink) (seq : BitVec 12) : TrobinLink :=
  if !l.live then l
  else
    let n := if l.retrySeq == seq && l.retries != 0 then l.retries + 1 else 1
    let l1 := { l with retrySeq := seq, retries := n }
    if retryLimit ≤ n then { l1 with retraining := true } else resendFrom l1 seq

def execRetryRequest (link : Nat) (seq : BitVec 12) (s : State) : Out :=
  .next (s.setLink link (retryLink (s.link link) seq))

/-! ## Training (R22) -/

/-- The largest width whose lanes all pass. -/
def trainedWidth (passing : List Nat) : Option Nat := [8, 4, 2].find? fun w => (List.range w).all passing.contains

/-- Lanes of a link that the boot has not withdrawn (R11). -/
def Package.lanesOf (p : Package) (link : Nat) : Nat := p.linkLanes.getD link 0

/-- LINK_RETRAIN: buffers, numbers and credits are kept, and held flits are resent; a lane withdrawn at boot does not pass. -/
def linkRetrain (link : Nat) (passing : List Nat) (s : State) : State :=
  let l := s.link link
  match trainedWidth (passing.filter fun n => decide (n < s.pkg.lanesOf link)) with
  | some w =>
    if l.up && l.retraining then
      let l1 := { l with lanes := w, retraining := false, retries := 0, asked := 0 }
      let s1 := s.setLink link (pumpLink { l1 with sent := (l1.replay.map (·.2)).reverse ++ l1.sent })
      if w == l.lanes then s1 else pageChanged s1
    else s
  | none => s

def execLinkRetrain (link : Nat) (passing : List Nat) (s : State) : Out := .next (linkRetrain link passing s)

/-- The links of a step's mask (R297). -/
def maskedLinks (operands : List Word) : List Nat := (List.range 16).filter fun n => (operands.getD 4 0).getLsbD n

/-- Control flits of a link that the peer has not acknowledged. -/
def TrobinLink.unacked (l : TrobinLink) : Nat :=
  (l.replay.filter fun e => flitChannel e.2 == 1).length + (l.outbox.filter fun q => q.1 == 1).length

/-- The step instances that the unacknowledged control flits of a link spoke of. -/
def TrobinLink.lost (l : TrobinLink) : List (Nat × Nat × Nat) := l.told.drop (l.told.length - l.unacked)

/-- The steps that depend on a link that goes down end with status 1 (R22, R148): a step that has started with it in its mask, and
one that has not, whose posting count the link has not delivered. A step that had failed otherwise ends with status 1 too, which
the spec leaves open (log 110). -/
def failSteps (s : State) (link : Nat) : State :=
  let lost := (s.link link).lost
  { s with launches := s.launches.mapAll fun k l =>
      { l with collectives := l.collectives.mapAll fun i c =>
          if (c.started && (maskedLinks c.operands).contains link) || lost.contains (k, i, c.instance_) then { c with failed := 1 }
          else c } }

/-- A link goes down: its unacknowledged flits are reported failed, and the host is told (R22, R30). -/
def dropLink (s : State) (link : Nat) : State :=
  let l := s.link link
  if l.up then
    pageChanged ((failSteps s link).setLink link
      { l with up := false, lanes := 0, retraining := false, replay := [], outbox := [], told := [] })
  else s

/-- LINK_DOWN: no width has trained within 1 ms. -/
def execLinkDown (link : Nat) (s : State) : Out :=
  .next (if (s.link link).retraining then dropLink s link else s)

/-- The width at which a link trains, of the lanes that the boot has left it: what the wires allow is a free choice, which may be
none (R22, log 19). -/
def linkWidth (s : State) (link : Nat) : Nat :=
  let k := Config.freeNat s.fresh % 4
  min (if k = 0 then 0 else 2 ^ k) (s.pkg.lanesOf link)

/-- LINKUP (R22, R45): a link that is down trains. What the MGC then says on its channel is free (R18, log 16). -/
def bringUp (s : State) (link : Nat) : State :=
  let l := s.link link
  let w := linkWidth s link
  if l.up then s
  else if w = 0 then s.nextFresh
  else
    let l1 := freshLink l w
    let l2 := if Config.freeNat (s.fresh + 1) % 2 = 0 then l1 else offerFlit l1 2 (BitVec.ofNat 448 (Config.freeNat (s.fresh + 2)))
    pageChanged (({ s with fresh := s.fresh + 3 } : State).setLink link l2)

end Sys2Proof.Machine
end

