-- ==== Sys2Proof/Machine/Sfu.lean ====
section
/-! DEFINITION. The special functions of R325 in fixed point, and the error bounds of its table. A value is an integer
multiple of 2^−512; series are cut where their terms fall below that, so an approximation here is many hundred bits
nearer to the exact value than any bound of the table (log 14). -/

namespace Sys2Proof.Machine

/-- The places of the fixed point. -/
def fxPlaces : Nat := 512

/-- One in fixed point. -/
def fxOne : Int := 2 ^ fxPlaces

/-- A product and a quotient in fixed point. -/
def fxMul (a b : Int) : Int := a * b / fxOne
def fxDiv (a b : Int) : Int := a * fxOne / b

/-- A dyadic value in fixed point; exact for every operand of VSFU, whose exponent is at least −149. -/
def fxOf (n : Bool) (m : Nat) (e : Int) : Int :=
  let x : Int := (m * 2 ^ (e + fxPlaces).toNat : Nat)
  if n then -x else x

/-- Σ z^(2k+1) × s^k ÷ (2k+1) from the term of `k` on, `p` being z^(2k+1) × s^k: atanh for s = 1 and atan for s = −1. -/
def fxAtanFrom (s zz : Int) : Nat → Int → Int → Int
  | 0, _, _ => 0
  | fuel + 1, d, p => p / d + fxAtanFrom s zz fuel (d + 2) (s * fxMul p zz)

/-- atanh z, and atan z. -/
def fxAtanh (z : Int) : Int := fxAtanFrom 1 (fxMul z z) 180 1 z
def fxAtan (z : Int) : Int := fxAtanFrom (-1) (fxMul z z) 180 1 z

/-- ln 2 = 2 atanh(1/3), and π = 16 atan(1/5) − 4 atan(1/239). -/
def fxLn2 : Int := 2 * fxAtanh (fxOne / 3)
def fxPi : Int := 16 * fxAtan (fxOne / 5) - 4 * fxAtan (fxOne / 239)

/-- Σ r^k ÷ k! from a term on. -/
def fxExpFrom (r : Int) : Nat → Int → Int → Int
  | 0, _, _ => 0
  | fuel + 1, k, term => term + fxExpFrom r fuel (k + 1) (fxMul term r / k)

/-- e^y as a fixed-point number in [1, 2] and an exponent of two. -/
def fxExp (y : Int) : Int × Int :=
  let l := fxLn2
  let k := y / l
  (fxExpFrom (y - k * l) 140 1 fxOne, k)

/-- A fixed-point number times 2^k. -/
def fxShift (x k : Int) : Int := if 0 ≤ k then x * 2 ^ k.toNat else x / 2 ^ (-k).toNat

/-- e^y in fixed point. -/
def fxExpOf (y : Int) : Int := fxShift (fxExp y).1 (fxExp y).2

/-- The alternating series of sin from a term on. -/
def fxSinFrom (rr : Int) : Nat → Int → Int → Int
  | 0, _, _ => 0
  | fuel + 1, k, term => term + fxSinFrom rr fuel (k + 2) (-(fxMul term rr) / (k * (k + 1)))

/-- sin x, and cos x = sin (x + π/2). -/
def fxSin (x : Int) : Int :=
  let r := x % (2 * fxPi)
  fxSinFrom (fxMul r r) 140 2 r
def fxCos (x : Int) : Int := fxSin (x + fxPi / 2)

/-- The series Σ (−1)^k x^(2k+1) ÷ (k! (2k+1)) from a term on, `term` being (−1)^k x^(2k+1) ÷ k!. -/
def fxErfFrom (xx : Int) : Nat → Int → Int → Int
  | 0, _, _ => 0
  | fuel + 1, k, term => term / (2 * k + 1) + fxErfFrom xx fuel (k + 1) (-(fxMul term xx) / (k + 1))

/-- erf, tanh and the logistic function of a magnitude; from 6, 64 and 200 on they are within 2^−50 of 1. -/
def fxErf (x : Int) : Int :=
  if 6 * fxOne ≤ x then fxOne - 1
  else fxDiv (2 * fxErfFrom (fxMul x x) 360 0 x) (isqrt (fxPi * fxOne).toNat : Nat)
def fxTanh (x : Int) : Int :=
  if 64 * fxOne ≤ x then fxOne - 1
  else
    let t := fxExpOf (-2 * x)
    fxDiv (fxOne - t) (fxOne + t)
def fxSigmoid (x : Int) : Int :=
  if 200 * fxOne ≤ x then fxOne - 1 else fxDiv fxOne (fxOne + fxExpOf (-x))

/-- log2 of m × 2^e, m not 0: the exponent, and twice atanh of (f − 1) ÷ (f + 1) over ln 2 for f in [1/√2, √2]. -/
def fxLog2 (m : Nat) (e : Int) : Int :=
  let l := m.log2
  let f : Int := (m * 2 ^ (fxPlaces - l) : Nat)
  let high := decide (2 * fxOne * fxOne < f * f)
  let g : Int := if high then f / 2 else f
  let k : Int := e + l + (if high then 1 else 0)
  k * fxOne + fxDiv (2 * fxAtanh (fxDiv (g - fxOne) (g + fxOne))) fxLn2

/-- A fixed-point number as a value. -/
def fvOfFx (x : Int) : Fv := .fin (decide (x < 0)) x.natAbs (-(fxPlaces : Int))

/-- The function `fn` of R325's table at a finite operand that is not 0, and that lies in the function's domain. -/
def sfuExact (fn : Nat) (n : Bool) (m : Nat) (e : Int) : Fv :=
  let x := fxOf n m e
  let a := fxOf false m e
  let odd (v : Int) : Fv := fvOfFx (if n then -v else v)
  match fn with
  | 0 =>
    let k := clampInt (-1024) 1024 (x / fxOne)
    let t := fxExp (fxMul (clampInt 0 fxOne (x - k * fxOne)) fxLn2)
    .fin false t.1.toNat (t.2 + k - fxPlaces)
  | 1 => fvOfFx (fxLog2 m e)
  | 2 => (divFv (.fin false 1 0) (.fin n m e)).1
  | 3 => (divFv (.fin false 1 0) (sqrtFv (.fin n m e)).1).1
  | 5 => fvOfFx (fxSin x)
  | 6 => fvOfFx (fxCos x)
  | 7 => odd (fxTanh a)
  | 8 => odd (fxErf a)
  | _ => if n then .fin false (fxOne - fxSigmoid a).toNat (-(fxPlaces : Int))
         else fvOfFx (fxSigmoid a)

/-- The exponent of the last place of a format at a value (R325's ulp). -/
def ulpExp (f : Fmt) (m : Nat) (e : Int) : Int := max (e + bitLen m - 1) (1 - (f.bias : Int)) - f.fb

/-- The bound of R325 as a count and an exponent of two: the absolute bounds of the table for `.f32`, the ulp bounds
for `.f32`, and 1 ulp for `.f16` and `.bf16`. -/
def sfuBound (fn : Nat) (f : Fmt) (m : Nat) (e : Int) (y : Nat) (ye : Int) : Nat × Int :=
  let middle := !dyadicGt 1 (-1) m e && !dyadicGt m e 2 0
  if f = fmtF32 then
    if fn = 5 || fn = 6 || (fn = 1 && middle) then (1, -22)
    else (if fn = 2 || fn = 3 then 1 else 2, ulpExp f y ye)
  else (1, ulpExp f y ye)

/-- Two dyadic values lie within `b` × 2^be of each other. -/
def dyadicNear (n1 : Bool) (m1 : Nat) (e1 : Int) (n2 : Bool) (m2 : Nat) (e2 : Int) (b : Nat) (be : Int) : Bool :=
  let e := min (min e1 e2) be
  let x1 : Int := (m1 * 2 ^ (e1 - e).toNat : Nat)
  let x2 : Int := (m2 * 2 ^ (e2 - e).toNat : Nat)
  decide (((if n1 then -x1 else x1) - (if n2 then -x2 else x2)).natAbs ≤ b * 2 ^ (be - e).toNat)

/-- The limits that R325 puts on some functions beside the error bound: |sin|, |cos|, |tanh| and |erf| at most 1, and
sigmoid in [0, 1]. -/
def sfuWithin (fn : Nat) (f : Fmt) (code : Nat) : Bool :=
  let mag := code % 2 ^ (f.bits - 1)
  let one := f.bias * 2 ^ f.fb
  if fn < 5 then decide (mag ≤ maxCode f)
  else if fn < 9 then decide (mag ≤ one)
  else decide (code ≤ one) || mag == 0

/-- A code that R325 allows as the result of `fn`, the exact result being ±y × 2^ye. -/
def sfuAllowed (fn : Nat) (f : Fmt) (m : Nat) (e : Int) (yn : Bool) (y : Nat) (ye : Int) (code : Nat) : Bool :=
  let b := sfuBound fn f m e y ye
  match decodeFp f code with
  | .fin cn cm ce => sfuWithin fn f code && dyadicNear cn cm ce yn y ye b.1 b.2
  | _ => false

/-- A result that R325 bounds and does not fix: the free code where the bound allows it, else the exact result rounded
to nearest; the flags follow R219 and R325 (log 14). A result past the largest finite value overflows. -/
def sfuOpen (fn : Nat) (f : Fmt) (ftz : Bool) (n : Bool) (m : Nat) (e : Int) (free : Nat) : Nat × Flags :=
  match sfuExact fn n m e with
  | .fin yn y ye =>
    let near := roundFin f {} yn y ye
    if near.2.ovf then near
    else
      let code := if sfuAllowed fn f m e yn y ye free then free else near.1
      let s := signBit f (2 ^ (f.bits - 1) ≤ code)
      let tiny := code % 2 ^ (f.bits - 1) / 2 ^ f.fb == 0
      (if tiny && ftz then s else code, { uf := tiny, nx := true })
  | v => roundFp f {} v

end Sys2Proof.Machine
end

