-- ==== Sys2Proof/Machine/Parking.lean ====
section
/-! DEFINITION. The drawer controller (R150 to R165): fetch selection, fills, fill faults and evictions. -/

namespace Sys2Proof.Machine

/-- The blocks of a region that a launch has a record of, by block number. -/
def regionBlocks (l : Launch) (region : Nat) : List (Nat × Block) :=
  (l.blocks.filter fun b => b.1 / 2 ^ 28 == region).map fun b => (b.1 % 2 ^ 28, b.2)

/-- Frames in use: a fill that waits for a victim will use the victim's frame, and a block selected again before its
write-back is done has its old frame until then (R159). -/
def framesUsed (l : Launch) (region : Nat) : Nat :=
  (regionBlocks l region).foldl (fun n b =>
    n + (decide (b.2.st = .resident) || b.2.leaving).toNat + (decide (b.2.st = .filling) && b.2.waitsFor.isNone).toNat) 0

/-- Of two candidates, the one that the better-than test prefers; the first of equals. -/
def bestOf (better : Nat × Block → Nat × Block → Bool) (bs : List (Nat × Block)) : Option (Nat × Block) :=
  bs.foldl (fun o b =>
    match o with
    | none => some b
    | some x => if better b x then some b else some x) none

/-- The queue that R159 selects, with threshold A. -/
def selectQueue (threshold : Nat) (cands : List (Nat × Block)) : Option (Nat × Block) :=
  let old := cands.filter fun b => decide (threshold ≤ b.2.age)
  let elder (b x : Nat × Block) : Bool := decide (x.2.age < b.2.age) || (b.2.age == x.2.age && decide (b.1 < x.1))
  if old.isEmpty then
    bestOf (fun b x =>
      decide (x.2.queue.length < b.2.queue.length) || (b.2.queue.length == x.2.queue.length && elder b x)) cands
  else bestOf elder old

/-- The evictable block that became evictable earliest (R154, R159). -/
def selectVictim (bs : List (Nat × Block)) : Option (Nat × Block) :=
  bestOf (fun b x => decide (b.2.since < x.2.since))
    (bs.filter fun b => decide (b.2.st = .resident) && b.2.snap == 0 && b.2.hold == 0)

/-- The newest parked message of a region that carries holds gives them up (R158, R159). One that a fill has released is none, though
it still has its park slot (log 105). -/
def dropNewestHolds (s : State) (launch region : Nat) : State :=
  let l := s.launch launch
  let parked := (regionBlocks l region).flatMap fun b => b.2.queue ++ b.2.snapshot
  match (parked.filter fun m => !m.holds.isEmpty).foldl (fun (o : Option Message) m =>
      match o with
      | some x => if x.entered < m.entered then some m else o
      | none => some m) none with
  | none => s
  | some m =>
    let clear (x : Message) : Message := if x.key == m.key then { x with holds := [] } else x
    let s1 := s.setLaunch launch { l with
      blocks := l.blocks.mapAll fun _ b => { b with queue := b.queue.map clear, snapshot := b.snapshot.map clear } }
    m.holds.foldl (fun s h => releaseHold s launch (h.region, h.block)) s1

/-- The range of a fill or a write-back, in the table of every bench of the launch (R112, R161). -/
def blockWants (l : Launch) (gb : Nat × Nat) (dest : Bool) : List (Nat × Span) :=
  let r := blockRange l gb
  l.rect.benches.map fun b => (b, { space := .global, lo := r.1, hi := r.2, dest := dest })

/-- A fill or a write-back belongs to no task. -/
def noTask : Nat := 2 ^ 64

/-- The entries of an operation in the tables of a launch's benches are released. -/
def unlockAll (s : State) (launch : Nat) (op : LockOp) : State :=
  (s.launch launch).rect.benches.foldl (fun s b => releaseLocks s b fun k => decide (k.op = op)) s

/-- A fill record of the launch is held on chip, so no new fill starts (R36). -/
def fillRecordHeld (s : State) (l : Launch) : Bool :=
  l.blocks.any fun b => match b.2.heldOut with
    | some k => s.fns.any fun f => f.2.heldFr.any fun r => r.key == k
    | none => false

/-- The chosen queue's fill opens: its snapshot is the queue, and every other nonempty queue ages (R159, R160). It is registered
once the write-back of the block's last frame is done. -/
def openFill (s : State) (launch region block : Nat) (victim : Option Nat) : State :=
  let l := s.launch launch
  let s0 := if (l.block (region, block)).leaving then s
    else addLocks s (blockWants l (region, block) true) (.fill launch region block) launch noTask
  let blocks := l.blocks.mapAll fun k b =>
    if k / 2 ^ 28 == region then
      if k % 2 ^ 28 == block then
        { b with st := BlockState.filling, snapshot := b.queue, queue := [], snap := b.queue.length, waitsFor := victim }
      else if b.queue.isEmpty then b
      else { b with age := b.age + 1 }
    else b
  s0.setLaunch launch { l with blocks := blocks }

/-- The victim's write-back begins (R154, R161). -/
def openEviction (s : State) (launch region block : Nat) : State :=
  let gb := (region, block)
  (addLocks s (blockWants (s.launch launch) gb false) (.evict launch region block) launch noTask).changeBlock launch gb fun x =>
    { x with st := .evicting, leaving := true }

/-- One fetch selection in a region (R159). It waits while the tables do not take the ranges of its fill and its write-back
(R112). -/
def fetchSelection (launch region : Nat) (s : State) : State :=
  let l := s.launch launch
  match l.regions[region]? with
  | none => s
  | some g =>
    let blocks := regionBlocks l region
    let cands := blocks.filter fun b => !b.2.queue.isEmpty && b.2.heldOut.isNone
    let threshold := if g.thr = 0 then 8 else g.thr
    if l.stopped || startsNothing s l.ctx || fillRecordHeld s l then s
    else
      match selectQueue threshold cands with
      | none => s
      | some b =>
        let fill := if b.2.leaving then [] else blockWants l (region, b.1) true
        let free (wants : List (Nat × Span)) : Bool := tablesFree s wants && !registersLater s none none wants
        if framesUsed l region < g.frames then (if free fill then openFill s launch region b.1 none else s)
        else
          match selectVictim blocks with
          | some v =>
            if free (fill ++ blockWants l (region, v.1) false) then
              openFill (openEviction s launch region v.1) launch region b.1 (some v.1)
            else s
          | none => dropNewestHolds s launch region

def execFetchSelection (launch region : Nat) (s : State) : Out := .next (fetchSelection launch region s)

/-- A frame line whose walk met an uncorrectable error: it holds poison, and lies nowhere in memory (R162). -/
def lostLine (ctx va : Nat) : LlcLine :=
  { line := va / 256, phys := 2 ^ 48, owner := ctx, valid := BitVec.allOnes 8, dirty := 0, poison := BitVec.allOnes 8, data := 0
    frame := true, lost := true }

/-- The backing memory of a block as LLC lines of its frame, or the fault that a fill meets: the walk checks no rights of the
page table, the fill reads, and an uncorrectable error on the way poisons the line (R54, R79, R152, R160, R162). A page whose leaf
has BLK = 0 stays ordinary (R151). -/
def fillLines (s : State) (ctx : Nat) : List Nat → Res (List LlcLine)
  | [] => .ok [] s
  | va :: rest =>
    match leafWalk s va with
    | .leaf w =>
      let ia := w.inter + va % 65536
      if !w.blk then fillLines s ctx rest
      else
        match stage2 s w.owner ia kRead with
        | none =>
          .trap { cause := .range, addr := some (BitVec.ofNat 64 va), detail := BitVec.ofNat 64 ia, searched := some w.owner } s
        | some pa =>
          let l : LlcLine :=
            { line := va / 256, phys := pa / 256, owner := w.owner, valid := 0, dirty := 0, poison := 0, data := 0, frame := true
              view := (viewAt s.mem pa).isSome, inter := ia }
          (fillLines s ctx rest).andThen fun ls s1 => .ok (l :: ls) s1
    | .poisoned => (fillLines s ctx rest).andThen fun ls s1 => .ok (lostLine ctx va :: ls) s1
    | r => .trap (walkTrap r va) s

/-- The first addresses of the lines of a block. -/
def blockLines (l : Launch) (gb : Nat × Nat) : List Nat :=
  let r := blockRange l gb
  (List.range ((r.2 + 1 - r.1) / 256)).map fun i => r.1 + 256 * i

/-- The frame is written: every sector of every line. A line that the LLC still holds under its tag is written back first. -/
def fillFrame (s : State) (ls : List LlcLine) : State :=
  ls.foldl
    (fun s l =>
      let s1 := match llcFind s (l.line * 256) with
        | some old => dropLine s old
        | none => s
      ((List.range 8).foldl (fun (r : State × LlcLine) i => fillSector r.1 r.2 i) (s1.setMem (llcPut s1.mem l), l)).1) s

/-- The snapshot's messages go to their mailboxes in park order; each frees its slot when it is placed (R157, R160). -/
def releaseSnapshot (s : State) (launch region block : Nat) (ms : List Message) : State :=
  ms.foldl (fun s m => placeDevice s launch { m with snapshot := some (region, block) }) s

/-- The block fills, and the frame it waited for is free; so is its own last frame. -/
def fillReady (s : State) (launch region block : Nat) : Bool :=
  let b := (s.launch launch).block (region, block)
  decide (b.st = .filling) && b.waitsFor.isNone && !b.leaving

/-- FILL_COMPLETE (R160): all writes of the fill, the locks, then the snapshot. -/
def fillComplete (launch region block : Nat) (s : State) : State :=
  let l := s.launch launch
  if !fillReady s launch region block then s
  else
    match fillLines s l.ctx (blockLines l (region, block)) with
    | .ok ls _ =>
      let waiting := (l.block (region, block)).snapshot
      let s1 := unlockAll (fillFrame s ls) launch (.fill launch region block)
      let s2 := s1.changeBlock launch (region, block) fun b =>
        { b with st := .resident, snapshot := [], since := s1.ticket, age := 0 }
      releaseSnapshot s2.nextTicket launch region block waiting
    | _ => s

def execFillComplete (launch region block : Nat) (s : State) : Out := .next (fillComplete launch region block s)

/-- FILL_FAULT (R162): one record; the snapshot returns to the head of the queue, which is held out until the record is
consumed. -/
def fillFault (launch region block : Nat) (s : State) : State :=
  let l := s.launch launch
  if !fillReady s launch region block then s
  else
    match fillLines s l.ctx (blockLines l (region, block)) with
    | .trap t _ =>
      let t1 := { t with addr := some (BitVec.ofNat 64 (blockRange l (region, block)).1) }
      let r := postDeviceRecord s t1 l.ctx { item := true }
      let s1 := unlockAll r.1 launch (.fill launch region block)
      s1.changeBlock launch (region, block) fun b =>
        { b with st := .waiting, queue := b.snapshot ++ b.queue, snapshot := [], snap := 0, heldOut := some r.2 }
    | _ => s

def execFillFault (launch region block : Nat) (s : State) : Out := .next (fillFault launch region block s)

/-- What an evicted block becomes: one that has been selected again goes on filling (R154, R159). -/
def Block.evicted (b : Block) : Block :=
  { b with
    leaving := false
    st := if decide (b.st ≠ .evicting) then b.st else if b.queue.isEmpty then .absent else .waiting }

/-- A release that has been accepted at a line of a block still waits for what is older (R103, R109). -/
def frameWaits (s : State) (launch : Nat) (gb : Nat × Nat) : Bool :=
  let r := blockRange (s.launch launch) gb
  s.mem.nr.any fun n => decide (r.1 ≤ n.va) && decide (n.va ≤ r.2) && n.waits s

/-- EVICTION_DONE (R161, R154): accepted accesses are performed, the frame is written back and freed, and the fill of the same
block, if it has been selected again, is registered. -/
def evictionDone (launch region block : Nat) (s : State) : State :=
  let gb := (region, block)
  if !((s.launch launch).block gb).leaving || frameWaits s launch gb then s
  else
    let s0 := unlockAll (evictFrame s launch gb) launch (.evict launch region block)
    let l0 := s0.launch launch
    let s1 :=
      if (l0.block gb).st = .filling then addLocks s0 (blockWants l0 gb true) (.fill launch region block) launch noTask else s0
    let s2 := s1.changeBlock launch gb Block.evicted
    let l := s2.launch launch
    s2.setLaunch launch { l with
      blocks := l.blocks.mapAll fun k b =>
        if k / 2 ^ 28 == region && b.waitsFor == some block then { b with waitsFor := none } else b }

def execEvictionDone (launch region block : Nat) (s : State) : Out := .next (evictionDone launch region block s)

end Sys2Proof.Machine
end

