-- ==== Sys2Proof/Machine/VectorUnit.lean ====
section
/-! DEFINITION. The vector unit as a machine: the claim (R168, R169), rows and lanes (R172), the command queue (R170) and how a
command meets memory (R309 to R311, R323, R324). -/

namespace Sys2Proof.Machine

/-! ## The claim -/

/-- A core whose claim a context takes: accumulators, masks and link control are cleared (R169). -/
def claimed (c : Core) (hc : Nat) : Core :=
  { c with
    claim := some hc, rows := [], ym := [], xm := [], linkIn := false, linkFwd := false, linkFeed := false, linkQueue := [] }

/-- A context takes the claim, or waits for it (R168). -/
def takeClaim (s : State) : Res Unit :=
  let c := s.curCore
  if c.holds s.cur.hc then .ok () s
  else
    if c.claim.isSome || olderWaiter s s.cur (upFrom (s.cur.core * 8) 8) .claim then .wait .claim
    else .ok () (s.setCurCore (claimed c s.cur.hc))

/-! ## Rows and lanes (R172) -/

/-- The lanes of a number, lowest first. -/
def lanesFrom (w : Nat) : Nat → Nat → List Nat
  | 0, _ => []
  | n + 1, v => v % 2 ^ w :: lanesFrom w n (v / 2 ^ w)

/-- Lanes of a row. -/
def lanes (w : Nat) (r : Row) : List Nat := lanesFrom w (2048 / w) r.toNat

/-- A number from lanes. -/
def fromLanes (w : Nat) : List Nat → Nat
  | [] => 0
  | l :: rest => l % 2 ^ w + 2 ^ w * fromLanes w rest

/-- A row from lanes. -/
def rowOf (w : Nat) (ls : List Nat) : Row := BitVec.ofNat 2048 (fromLanes w ls)

/-- A row's lanes from index `at_` replaced. -/
def setLanes (w : Nat) (r : Row) (at_ : Nat) (ls : List Nat) : Row :=
  let old := lanes w r
  rowOf w (old.take at_ ++ ls ++ old.drop (at_ + ls.length))

/-- Rows of a core. -/
def Core.row (c : Core) (n : Nat) : Row := c.rows.get n 0
def Core.setRow (c : Core) (n : Nat) (r : Row) : Core := { c with rows := c.rows.put n r }

/-- Consecutive rows written. -/
def Core.setRows (c : Core) (n : Nat) : List Row → Core
  | [] => c
  | r :: rest => Core.setRows (c.setRow n r) (n + 1) rest

/-! ## Commands -/

/-- A command joins the queue, once there is room (R170). -/
def enqueue (v : VecCmd) (s : State) : Res Unit :=
  let c := s.curCore
  if 16 ≤ c.commands.length then .wait .engineFull
  else .ok () ((s.setCurCore { c with commands := c.commands ++ [{ v with key := s.ticket }] }).nextTicket)

/-- A command of the present strand: its slot, operands and controls as captured at issue (R168, R216). -/
def captureCmd (t : Strand) (opcode : Nat) (f : Slot) (s : State) : VecCmd :=
  { hc := s.cur.hc, opcode := opcode, slot := f, a := xOf t f.a, b := xOf t f.b, c := xOf t f.c
    ea := if selWin f.d then BitVec.ofNat 64 (imm32 f) else effAddr t f
    fcr := t.fcr, launch := t.launch, task := t.message.key, pc := t.group }

/-- Tiles and masks that a selector names, by number: tiles 0 to 3, ym 4 to 7, xm 8 to 11. A register group lies in one
tile. -/
def selUnits : Sel → List Nat
  | .v n => [n.val / 16]
  | .acc n => [n.val]
  | .ym n => [4 + n.val]
  | .xm n => [8 + n.val]
  | _ => []

/-- Masks that a matrix command's IMM32 names (R331). -/
def maskUnits (v : VecCmd) : List Nat :=
  if v.opcode == 0xD0 || v.opcode == 0xD1 || v.opcode == 0xD2 then
    [4 + immField v.slot 30 2, 8 + immField v.slot 28 2]
  else []

/-- What a command writes and reads of the scoreboard (R171); 12 stands for the order of the strand's vector memory commands
(R311). -/
def VecCmd.writes (v : VecCmd) : List Nat := selUnits v.slot.d ++ (if v.isMem then [12] else [])
def VecCmd.reads (v : VecCmd) : List Nat := selUnits v.slot.a ++ selUnits v.slot.b ++ selUnits v.slot.c ++ maskUnits v

/-- A command waits for one in progress of the other unit: one that shares a tile or a mask which either writes. -/
def waitsOn (younger older : VecCmd) : Bool :=
  (younger.writes.any fun u => older.writes.contains u || older.reads.contains u)
    || younger.reads.any older.writes.contains

/-- The command that a unit of a core works on: the one it has in progress, or the first of the queue, which is left in issue
order, where it is of the unit's kind and does not wait for the other unit (R170, R171). -/
def Core.next (c : Core) (matrix : Bool) : Option VecCmd :=
  match (if matrix then c.matrix else c.vector) with
  | some v => some v
  | none =>
    c.commands.head?.filter fun v =>
      isMatrixOp v.opcode == matrix && !(if matrix then c.vector else c.matrix).any (waitsOn v)

/-- The command that a unit works on, with the focus of its strand. -/
def headCommand (s : State) (f : Focus) (matrix : Bool) : Option (VecCmd × Focus) :=
  ((s.core f.core).next matrix).map fun v => (v, { f with hc := v.hc })

/-- A core without a command. -/
def Core.without (c : Core) (key : Nat) : Core :=
  { c with
    commands := c.commands.filter fun v => v.key != key
    vector := c.vector.filter fun v => v.key != key, matrix := c.matrix.filter fun v => v.key != key }

/-- A command is over. -/
def popCommand (s : State) (f : Focus) (key : Nat) : State := s.setCore f.core ((s.core f.core).without key)

/-- A command stands in its unit, as far as it has come. -/
def holdCommand (s : State) (f : Focus) (v : VecCmd) : State :=
  let c := (s.core f.core).without v.key
  s.setCore f.core (if isMatrixOp v.opcode then { c with matrix := some v } else { c with vector := some v })

/-- The loads for which an acquire fence of a strand holds younger accesses are being performed: once one is over, the lines that have
come into the core's L1 since the fence go as those before it did, so that no younger load reads an older write (R104, R106). -/
def fencedLoad (v : VecCmd) (f : Focus) (s : State) : State :=
  match s.strandAt f with
  | some t => if t.fences.any fun h => h.2.contains v.key then dropUnRc s f.core else s
  | none => s

/-- A command is over, with its flags and its holds. -/
def endCommand (v : VecCmd) (f : Focus) (fl : Flags) (s : State) : State :=
  orFlagsAt f fl (fencedLoad v f (releaseHolds (popCommand s f v.key) v.launch v.blocks))

/-- A command is executed on behalf of its strand: it finishes, or goes on as `after` says, waits, or ends its strand as R309
says, once no strand of its task performs a context operation (R51). -/
def runCommand (s : State) (v : VecCmd) (f : Focus) (body : State → Res Flags)
    (after : Flags → State → State := endCommand v f) : State :=
  match s.strandAt f with
  | none => popCommand s f v.key
  | some st =>
    let back (x : State) : State := { x with cur := s.cur, issue := s.issue }
    let stays := (taskStrands s st.launch st.message.key).any (inCtxOp s)
    match body (s.setCur f) with
    | .ok fl s1 => back (after fl s1)
    | .wait _ => s
    | .trap t s1 => if stays then s else back (takeTrap s1 f { t with pc := some v.pc })
    | .park g b s1 => if stays then s else back (takePark s1 f g b)

/-! ## Memory of commands -/

/-- The rows of a VLD, VST or MSTA: their addresses. -/
def rowAddrs (ea stride : Word) (n : Nat) : List Word := (List.range n).map fun r => ea + BitVec.ofNat 64 r * stride

/-- A stride register, or 256 where none is named (R323). -/
def strideOf (t : Strand) (sel : Sel) : Word :=
  match sel with
  | .x n => if n = 0 then 256 else t.x n.val
  | _ => 256

/-- Bounds, then alignment, then rights of rows, at issue (R309). -/
def checkRows (t : Strand) (sp : LockSpace) (addrs : List Word) (stride : Word) (len align : Nat) (need : Kind) (s : State) :
    Res Unit :=
  let ea := addrs.headD 0
  match (if sp = .global then none else addrs.find? fun a => !localInside t sp a.toNat len) with
  | some a => .failAt .prot a s
  | none =>
    if ea.toNat % align != 0 || stride.toNat % align != 0 then .failAt .align ea s
    else if sp = .global then
      Res.each addrs s fun a s1 =>
        (checkRights (curWho t s1) a.toNat need s1).andThen fun _ s2 =>
          (checkRights (curWho t s2) (a.toNat + len - 1) need s2).andThen fun _ s3 => .ok () s3
    else .ok () s

/-- No row meets an absent block or a locked range, before any part of the command is performed (R113, R155). -/
def clearRows (t : Strand) (sp : LockSpace) (addrs : List Word) (len : Nat) (write : Bool) (s : State) : Res Unit :=
  let w := curWho t s
  if sp = .global then
    (Res.each (addrs.flatMap fun a => parts a.toNat len) s fun p s1 => parkCheck w p.1 s1).andThen fun _ s1 =>
      Res.each addrs s1 fun a s2 => lockCheck w sp a.toNat (a.toNat + len - 1) write s2
  else if sp = .msg || sp = .cap then .ok () s
  else Res.each addrs s fun a s1 => lockCheck w sp a.toNat (a.toNat + len - 1) write s1

/-- An access of a vector command that reads: at the home slice, never from L1, whose older copy of the line goes, so that no
later load of the strand reads an earlier write (R98, R311). -/
def vecRead (t : Strand) (sp : LockSpace) (a n : Nat) (s : State) : Res (List Byte) :=
  if sp = .global then
    (llcRead (curWho t s) a n kRead s).andThen fun bs s1 => .ok bs (keepL1 s1 s1.cur.core fun l => l.line != a / 32)
  else localRead t sp a n s

/-- An access of a vector command that writes. -/
def vecWrite (t : Strand) (sp : LockSpace) (a : Nat) (bs : List Byte) (full : Bool) (s : State) : Res Unit :=
  if sp = .global then storePart (curWho t s) a bs s else localWrite (strandNow t s) sp a bs full s

/-! ## The accesses of a command, one by one (R323, R324, R328) -/

/-- The parts of rows, by 32-byte line (R74); a row of `cap` is one access, whose edit of entries is checked as a whole (R205). -/
def rowParts (sp : LockSpace) (addrs : List Word) (len : Nat) : List (Nat × Nat) :=
  if sp = .cap then addrs.map fun a => (a.toNat, len) else addrs.flatMap fun a => parts a.toNat len

/-- Bytes of a row that MSTA writes (R336). -/
def mstaRow (f : Slot) : Nat := (if f.m == 12 then 32 else 64) * (tyBits f.ty / 8)

/-- How many accesses a command makes. -/
def VecCmd.accesses (v : VecCmd) (seat : Nat) : Nat :=
  let sp := memSpace v.slot seat
  match v.opcode with
  | 0xC6 => (rowParts sp (rowAddrs v.ea v.b (rowCount v.slot.m)) 256).length
  | 0xC7 => (rowParts sp (rowAddrs v.ea v.c (rowCount v.slot.m)) 256).length
  | 0xD4 => (rowParts sp (rowAddrs v.ea v.c 16) (mstaRow v.slot)).length
  | 0xC8 | 0xC9 => 2048 / tyBits v.slot.ty
  | _ => if selWin v.slot.d then (parts v.ea.toNat 256).length else 0

/-- Of the accesses that a command has still to make, the next `n`. -/
def VecCmd.now {α : Type} (v : VecCmd) (n : Nat) (xs : List α) : List α := (xs.drop v.done).take n

/-- A command that has made `k` accesses more, which have read some bytes. -/
def VecCmd.advance (v : VecCmd) (k : Nat) (bs : List Byte) : VecCmd := { v with done := v.done + k, got := v.got ++ bs }

/-- The next `n` accesses of a command that reads. -/
def vecReads (t : Strand) (v : VecCmd) (n : Nat) (sp : LockSpace) (ps : List (Nat × Nat)) (s : State) : Res VecCmd :=
  (Res.collect (v.now n ps) s fun p s1 => vecRead t sp p.1 p.2 s1).andThen fun bss s1 => .ok (v.advance bss.length bss.flatten) s1

/-- The next `n` accesses of a command that writes. -/
def vecWrites (v : VecCmd) (n : Nat) (write : Nat → List Byte → State → Res Unit) (ps : List ((Nat × Nat) × List Byte))
    (s : State) : Res VecCmd :=
  (Res.each (v.now n ps) s fun p s1 => write p.1.1 p.2 s1).andThen fun _ s1 =>
    .ok (v.advance (v.now n ps).length []) s1

/-- A command that has not made all its accesses stands in its unit. -/
def keepGoing (v : VecCmd) (total : Nat) (s : State) : State := if v.done < total then holdCommand s s.cur v else s

/-- The bytes of a row. -/
def rowBytes (r : Row) : List Byte := natToBytes r.toNat 256

/-- A result row goes to D, or the next `n` parts of it through a window with the full bits of its words set (R310). -/
def writeResult (t : Strand) (v : VecCmd) (n : Nat) (r : Row) (s : State) : Res Unit :=
  match v.slot.d with
  | .win seat =>
    let off := immField v.slot 0 32
    let ps := parts off 256
    (lockCheck (curWho t s) (.spad seat.val) off (off + 255) true s).andThen fun _ s1 =>
      (vecWrites v n (fun a bs => vecWrite t (.spad seat.val) a bs true) (splitParts ps (rowBytes r)) s1).andThen fun v1 s2 =>
        .ok () (keepGoing v1 ps.length s2)
  | d => .ok () (s.setCurCore (s.curCore.setRow (selNum d) r))

/-- The window destination of a command (R310): bounds, then alignment. -/
def checkWindow (f : Slot) (s : State) : Res Unit :=
  match f.d with
  | .win _ =>
    let off := imm32 f
    if Config.spadBytes < off + 256 then .failAt .prot (BitVec.ofNat 64 off) s
    else if off % 8 != 0 then .failAt .align (BitVec.ofNat 64 off) s
    else .ok () s
  | _ => .ok () s

/-- q0 of the strand has room for one more word (R312). -/
def q0Room (t : Strand) : Bool := decide ((t.qs.get 0 []).length < 4) && (t.qPending.get 0 []).isEmpty

/-- The strand only waits for its trap or its park: no word for q0 holds its older vector memory commands up (R156, R309). -/
def Strand.trapping (t : Strand) : Bool :=
  match t.wait with
  | some { why := .trap _, .. } | some { why := .park .., .. } => true
  | _ => false

/-- One word pushed into q0; one that finds no room is dropped, which is a strand's that only waits for its end. -/
def pushQ0 (w : Word) (s : State) : State :=
  match s.strand with
  | some t => if q0Room t then s.setStrand (pushEntry t 0 { word := w }) else s
  | none => s

/-! ## Issuing a vector instruction (R309) -/

/-- The checks in their order, then the queue. -/
def vecIssue (opcode : Nat) (f : Slot) (s : State) (check : Strand → State → Res Unit)
    (fill : Strand → VecCmd → VecCmd := fun _ v => v) : State :=
  issue f s fun t s0 =>
    (takeClaim s0).andThen fun _ s1 =>
      (check t s1).andThen fun _ s2 =>
        (checkWindow f s2).andThen fun _ s3 =>
          (enqueue (fill t (captureCmd t opcode f s3)) s3).andThen fun _ s4 => .ok .seq s4

/-- A register command with no check of its own. -/
def noCheck (_ : Strand) (s : State) : Res Unit := .ok () s

end Sys2Proof.Machine
end

