-- ==== Sys2Proof/Machine/Vector.lean ====
section
/-! DEFINITION. Vector instructions, opcodes 0xB0 to 0xCB (R308 to R327), and the execution of queued vector commands and SFU
requests. -/

namespace Sys2Proof.Machine

/-! ## Lane operations -/

/-- A result on a float or an integer lane (R313). -/
def onLane (ty : Ty) (fl : Fmt → Nat × Flags) (int : Int) : Nat × Flags :=
  match fmtOf ty with
  | some fmt => fl fmt
  | none => (wrapInt (tyBits ty) int, {})

/-- An integer result that saturates where `.sat` asks for it (R313). -/
def satInt (sat : Bool) (ty : Ty) (x : Int) : Int := if sat then clampInt (intBounds ty).1 (intBounds ty).2 x else x

/-- A code with its sign changed. -/
def flipSign (fmt : Fmt) (w : Nat) : Nat := (w % 2 ^ fmt.bits) ^^^ 2 ^ (fmt.bits - 1)

/-- A lane as a sign-extended word, whatever the TYPE (R314). -/
def laneWord (w v : Nat) : Word := BitVec.ofInt 64 (signedOf w v)

/-- One lane of an element-wise command (R313 to R315). -/
def laneOp (opcode m : Nat) (ty : Ty) (ctl : FpCtl) (a b c : Nat) : Nat × Flags :=
  let w := tyBits ty
  let ia := intLane ty a
  let ib := intLane ty b
  let sat := m == 1
  let mask (p : Bool) : Nat := if p then 2 ^ w - 1 else 0
  match opcode with
  | 0xB0 => onLane ty (fun f => fpAdd f ctl a b) (satInt sat ty (ia + ib))
  | 0xB1 => onLane ty (fun f => fpSub f ctl a b) (satInt sat ty (ia - ib))
  | 0xB2 => onLane ty (fun f => fpMul f ctl a b) (satInt sat ty (ia * ib))
  | 0xB3 =>
    onLane ty (fun f => fpFma f ctl (if m % 2 == 1 then flipSign f a else a) b (if 2 ≤ m then flipSign f c else c)) 0
  | 0xB4 => onLane ty (fun f => minMaxFp f false ctl.daz a b) (min ia ib)
  | 0xB5 => onLane ty (fun f => minMaxFp f true ctl.daz a b) (max ia ib)
  | 0xB6 => onLane ty (fun f => (a % 2 ^ (f.bits - 1), {})) (satInt sat ty ia.natAbs)
  | 0xB7 =>
    match fmtOf ty with
    | some f =>
      let r := fpCompare (floatCond m) (readFp f ctl.daz a) (readFp f ctl.daz b)
      (mask r.1, r.2)
    | none => (mask (intCond m (laneWord w a) (laneWord w b)), {})
  | 0xB8 => (if c != 0 then a else b, {})
  | 0xB9 => (a &&& b, {})
  | 0xBA => (a ||| b, {})
  | 0xBB => (a ^^^ b, {})
  | 0xBC => (a * 2 ^ (b % w), {})
  | _ => (if m == 1 then wrapInt w (signedOf w a / 2 ^ (b % w)) else a / 2 ^ (b % w), {})

/-- An element-wise command over all lanes (R308), with its flags. -/
def laneMap (opcode m : Nat) (ty : Ty) (ctl : FpCtl) : List Nat → List Nat → List Nat → List Nat × Flags
  | a :: as, b :: bs, c :: cs =>
    let r := laneOp opcode m ty ctl a b c
    let rest := laneMap opcode m ty ctl as bs cs
    (r.1 :: rest.1, r.2.or rest.2)
  | _, _, _ => ([], {})

/-- A lane as it is read: bits [7:6] of an F6E2 lane count as zero (R214). -/
def laneIn (ty : Ty) (v : Nat) : Nat := if ty = .f6e2 then v % 64 else v

/-- The lanes of a row, as they are read by a TYPE. -/
def lanesAs (ty : Ty) (r : Row) : List Nat := (lanes (tyBits ty) r).map (laneIn ty)

/-- The lanes of a source: a vector register, or an x register's low bits in every lane (R308). -/
def laneSource (c : Core) (ty : Ty) (sel : Sel) (x : Word) : List Nat :=
  match sel with
  | .v n => lanesAs ty (c.row n.val)
  | _ => List.replicate (2048 / tyBits ty) (laneIn ty (x.toNat % 2 ^ tyBits ty))

/-- Conversion of one lane (R316). -/
def convertLane (ctl : FpCtl) (src dst : Ty) (v : Nat) : Nat × Flags :=
  match fmtOf src, fmtOf dst with
  | some sf, some df => fpConvert sf df ctl (v % 2 ^ sf.bits)
  | some sf, none =>
    let r := intOfFp sf ctl (intBounds dst).1 (intBounds dst).2 (v % 2 ^ sf.bits)
    (wrapInt (tyBits dst) r.1, r.2)
  | none, some df => fpOfInt df ctl (intLane src v)
  | none, none => (wrapInt (tyBits dst) (clampInt (intBounds dst).1 (intBounds dst).2 (intLane src v)), {})

/-- A function of each lane, with flags. -/
def mapFlags {α β : Type} (f : α → β × Flags) : List α → List β × Flags
  | [] => ([], {})
  | x :: t =>
    let r := f x
    let rest := mapFlags f t
    (r.1 :: rest.1, r.2.or rest.2)

/-- VCVT's lanes: the part read, or the part written (R316). -/
def convertRow (ctl : FpCtl) (src dst : Ty) (part : Nat) (a d : Row) : Row × Flags :=
  let ws := tyBits src
  let wd := tyBits dst
  let l := 2048 / max ws wd
  let from_ := if ws < wd then part * l else 0
  let r := mapFlags (convertLane ctl src dst) (((lanes ws a).drop from_).take l)
  if wd < ws then (setLanes wd d (part * l) r.1, r.2) else (rowOf wd r.1, r.2)

/-! ## QC4 (R317, R318) -/

/-- A finite magnitude as a dyadic number, or none (R317). -/
def finiteMag (v : Fv) : Option (Nat × Int) :=
  match v with
  | .fin _ m e => some (m, e)
  | _ => none

/-- The larger of two dyadic magnitudes. -/
def maxMag (a b : Nat × Int) : Nat × Int := if dyadicGt b.1 b.2 a.1 a.2 then b else a

/-- m × 2^e over the denominators of the exact quotient `num/den × 2^e`. -/
def scaledRatio (num den : Nat) (e : Int) : Nat × Nat :=
  if 0 ≤ e then (num * 2 ^ e.toNat, den) else (num, den * 2 ^ (-e).toNat)

/-- ⌈255 × m ÷ G⌉ (R317). -/
def qcScale (m g : Nat × Int) : Nat :=
  if g.1 = 0 then 0
  else
    let r := scaledRatio (255 * m.1) g.1 (m.2 - g.2)
    (r.1 + r.2 - 1) / r.2

/-- The nearest level's code to num ÷ den in 256ths, the lower code on a tie (R213). -/
def nearestLevel (num : Int) (den : Nat) : Nat :=
  ((List.range 16).foldl
    (fun (o : Nat × Nat) code =>
      let d := (num - qc4Level code * den).natAbs
      if code = 0 || d < o.2 then (code, d) else o) (0, 0)).1

/-- Encoding of a value against S and a finite G (R213). -/
def qcEncode (v : Fv) (s : Nat) (g : Nat × Int) : Nat × Flags :=
  match v with
  | .nan _ => (7, { nv := true })
  | .inf n => if s * g.1 = 0 then (7, {}) else (if n then 0 else 15, {})
  | .fin n m e =>
    if s * g.1 = 0 then (7, {})
    else
      let r := scaledRatio (m * 255 * 256) (s * g.1) (e - g.2)
      (nearestLevel (if n then -(r.1 : Int) else r.1) r.2, {})

/-- VQ of 256 values: the codes, the scale record and the flags (R317). -/
def quantise (vs : List Fv) : List Nat × Word × Flags :=
  let mags := (List.range 4).map fun j =>
    (((vs.drop (64 * j)).take 64).filterMap finiteMag).foldl maxMag (0, 0)
  let hasInf := vs.any fun v =>
    match v with
    | .inf _ => true
    | _ => false
  let big := mags.foldl maxMag (0, 0)
  let scales := if hasInf then [0, 0, 0, 0] else mags.map fun m => qcScale m big
  let g := if hasInf then infCode fmtF32 else (roundFin fmtF32 {} false big.1 big.2).1
  let codes := mapFlags (fun (p : Fv × Nat) => qcEncode p.1 (scales.getD (p.2 / 64) 0) big) (vs.zip (List.range 256))
  let record := fromLanes 8 scales + 2 ^ 32 * g
  (codes.1, BitVec.ofNat 64 record, { codes.2 with nv := codes.2.nv || hasInf })

/-! ## Reductions and scans (R319, R320) -/

/-- One reduction operation of VRED and VSCAN: 0 add, 1 min, 2 max, 3 and, 4 or, 5 xor. -/
def reduceOp (m : Nat) (ty : Ty) (ctl : FpCtl) (a b : Nat) : Nat × Flags :=
  match m with
  | 0 => laneOp 0xB0 0 ty ctl a b 0
  | 1 => laneOp 0xB4 0 ty ctl a b 0
  | 2 => laneOp 0xB5 0 ty ctl a b 0
  | 3 => (a &&& b, {})
  | 4 => (a ||| b, {})
  | _ => (a ^^^ b, {})

/-- One level of the fixed tree: neighbours are added (R319). -/
def treeLevel (op : Nat → Nat → Nat × Flags) : List Nat → List Nat × Flags
  | a :: b :: rest =>
    let r := op a b
    let t := treeLevel op rest
    (r.1 :: t.1, r.2.or t.2)
  | l => (l, {})

/-- The tree down to one value. -/
def treeReduce (op : Nat → Nat → Nat × Flags) : Nat → List Nat → Nat × Flags
  | 0, l => (l.headD 0, {})
  | n + 1, l =>
    let r := treeLevel op l
    let t := treeReduce op n r.1
    (t.1, r.2.or t.2)

/-- A reduction of all lanes (R319). -/
def reduceLanes (m : Nat) (ty : Ty) (ctl : FpCtl) (ls : List Nat) : Nat × Flags :=
  match m with
  | 6 => (if ls.any (· != 0) then 1 else 0, {})
  | 7 => (if ls.all (· != 0) then 1 else 0, {})
  | _ => treeReduce (reduceOp m ty ctl) 8 ls

/-- A q0 entry of a lane: sign-extended for `.i`, zero-extended otherwise (R319). -/
def entryOf (ty : Ty) (v : Nat) : Word :=
  if isSigned ty then BitVec.ofInt 64 (signedOf (tyBits ty) v) else BitVec.ofNat 64 (v % 2 ^ tyBits ty)

/-- The identity of a scan (R320). -/
def scanIdentity (op : Nat) (ty : Ty) : Nat :=
  match fmtOf ty with
  | some f =>
    match op with
    | 0 => signBit f true
    | 1 => infCode f
    | _ => signBit f true + infCode f
  | none =>
    match op with
    | 0 => 0
    | 1 => wrapInt (tyBits ty) (intBounds ty).2
    | _ => wrapInt (tyBits ty) (intBounds ty).1

/-- A scan in lane order: the lanes, the total and the flags (R320). -/
def scanLanes (op : Nat) (excl : Bool) (ty : Ty) (ctl : FpCtl) : Nat → List Nat → List Nat × Nat × Flags
  | acc, [] => ([], acc, {})
  | acc, a :: rest =>
    let r := reduceOp op ty ctl acc a
    let t := scanLanes op excl ty ctl r.1 rest
    ((if excl then acc else r.1) :: t.1, t.2.1, r.2.or t.2.2)

/-- A lane that VNZ lists (R321). -/
def laneNonzero (ty : Ty) (daz : Bool) (v : Nat) : Bool :=
  match fmtOf ty with
  | some f =>
    match readFp f daz (v % 2 ^ f.bits) with
    | .fin _ m _ => m != 0
    | _ => true
  | none => v != 0

/-! ## Special functions (R325, R326) -/

/-- A dyadic value that is an integer. -/
def integerOf (n : Bool) (m : Nat) (e : Int) : Option Int :=
  if 0 ≤ e then some ((if n then -1 else 1) * (m * 2 ^ e.toNat : Int))
  else if m % 2 ^ (-e).toNat = 0 then some ((if n then -1 else 1) * ((m / 2 ^ (-e).toNat : Nat) : Int))
  else none

/-- The exponent of a positive power of two. -/
def powerOf (m : Nat) (e : Int) : Option Int := if m = 2 ^ m.log2 then some (e + m.log2) else none

/-- The exact cases of R325: exp2 of an integer, where the result is representable, log2 and rcp of a power of two; they
round to nearest, since no result depends on the rounding mode. -/
def sfuExactCase (fn : Nat) (fmt : Fmt) (ctl : FpCtl) (n : Bool) (m : Nat) (e : Int) : Option (Nat × Flags) :=
  let c : FpCtl := { ftz := ctl.ftz }
  match fn with
  | 0 =>
    match integerOf n m e with
    | some k =>
      if 1 - (fmt.bias : Int) - fmt.fb ≤ k && k ≤ fmt.bias then some (roundFin fmt c false 1 k) else none
    | none => none
  | 1 => (powerOf m e).map fun k => fpOfInt fmt c k
  | 2 => (powerOf m e).map fun k => roundFin fmt c n 1 (-k)
  | _ => none

/-- A special function of one lane (R325, R326). Every finite result raises NX but the exact cases of R325 (log 28). -/
def sfuLane (fn : Nat) (ty : Ty) (ctl : FpCtl) (x : Nat) : Nat × Flags :=
  let fmt := (fmtOf ty).getD fmtF32
  let one := fmt.bias * 2 ^ fmt.fb
  let nan : Nat × Flags := (canonicalNan fmt, { nv := true })
  let inf (n : Bool) : Nat := signBit fmt n + infCode fmt
  let free := (Config.sfuResult fn (tyCode ty) ctl.ftz ctl.daz (BitVec.ofNat 64 x)).toNat % 2 ^ fmt.bits
  match readFp fmt ctl.daz x with
  | .nan sig => (canonicalNan fmt, { nv := sig })
  | .inf n =>
    match fn with
    | 0 => if n then (0, { nx := true }) else (inf false, {})
    | 1 | 4 => if n then nan else (inf false, {})
    | 3 => if n then nan else (0, { nx := true })
    | 2 => (signBit fmt n, { nx := true })
    | 5 | 6 => nan
    | 7 | 8 => (signBit fmt n + one, { nx := true })
    | _ => (if n then 0 else one, { nx := true })
  | .fin n m e =>
    if m = 0 then
      match fn with
      | 0 => (one, {})
      | 6 => (one, { nx := true })
      | 1 => (inf true, { dz := true })
      | 2 | 3 => (inf n, { dz := true })
      | 4 => (signBit fmt n, {})
      | 5 | 7 | 8 => (signBit fmt n, { nx := true })
      | _ => ((roundFin fmt {} false 1 (-1)).1, { nx := true })
    else if n && (fn = 1 || fn = 3 || fn = 4) then nan
    else if fn = 4 then fpSqrt fmt ctl x
    else (sfuExactCase fn fmt ctl n m e).getD (sfuOpen fn fmt ctl.ftz n m e free)

/-! ## The queued command's effect -/

/-- The controls captured with a command (R216). -/
def cmdCtl (v : VecCmd) : FpCtl := fpCtl v.fcr v.slot.rnd

/-- An element-wise command (R308). -/
def runLanes (t : Strand) (v : VecCmd) (n : Nat) (s : State) : Res Flags :=
  let ty := v.slot.ty
  let w := tyBits ty
  let c := s.curCore
  let r := laneMap v.opcode v.slot.m.toNat ty (cmdCtl v) (laneSource c ty v.slot.a v.a) (laneSource c ty v.slot.b v.b)
    (laneSource c ty v.slot.c v.c)
  (writeResult t v n (rowOf w r.1) s).andThen fun _ s1 => .ok r.2 s1

/-- VCVT (R316). -/
def runConvert (t : Strand) (v : VecCmd) (n : Nat) (s : State) : Res Flags :=
  let c := s.curCore
  let part := if selWin v.slot.d then 0 else immField v.slot 0 3
  let r := convertRow (cmdCtl v) (tyOfCode v.slot.m.toNat) v.slot.ty part (c.row (selNum v.slot.a)) (c.row (selNum v.slot.d))
  (writeResult t v n r.1 s).andThen fun _ s1 => .ok r.2 s1

/-- Registers that 256 elements of a TYPE fill. -/
def groupRegs (ty : Ty) : Nat := tyBits ty / 8

/-- VQ (R317). -/
def runVq (v : VecCmd) (s : State) : Res Flags :=
  let ty := v.slot.ty
  let fmt := (fmtOf ty).getD fmtF32
  let c := s.curCore
  let src := (upFrom (selNum v.slot.a) (groupRegs ty)).flatMap fun n => lanes (tyBits ty) (c.row n)
  let r := quantise (src.map (readFp fmt (cmdCtl v).daz))
  .ok r.2.2 (pushQ0 r.2.1 (s.setCurCore (c.setRow (selNum v.slot.d) (rowOf 4 r.1))))

/-- VDQ (R318). -/
def runVdq (v : VecCmd) (s : State) : Res Flags :=
  let ty := v.slot.ty
  let fmt := (fmtOf ty).getD fmtF32
  let c := s.curCore
  let codes := (lanes 4 (c.row (selNum v.slot.a))).take 256
  let r := mapFlags (fun (p : Nat × Nat) =>
    qc4Value fmt (cmdCtl v) p.1 (field v.b (8 * (p.2 / 64)) 8) (field v.b 32 32)) (codes.zip (List.range 256))
  let n := 2048 / tyBits ty
  let rows := (List.range (groupRegs ty)).map fun i => rowOf (tyBits ty) ((r.1.drop (i * n)).take n)
  .ok r.2 (s.setCurCore (c.setRows (selNum v.slot.d) rows))

/-- VRED (R319). -/
def runVred (v : VecCmd) (s : State) : Res Flags :=
  let ty := v.slot.ty
  let r := reduceLanes v.slot.m.toNat ty (cmdCtl v) (lanesAs ty (s.curCore.row (selNum v.slot.a)))
  .ok r.2 (pushQ0 (if 6 ≤ v.slot.m.toNat then BitVec.ofNat 64 r.1 else entryOf ty r.1) s)

/-- VSCAN (R320). -/
def runVscan (v : VecCmd) (s : State) : Res Flags :=
  let ty := v.slot.ty
  let m := v.slot.m.toNat
  let op := m % 4
  let c := s.curCore
  let start := if selNum v.slot.b = 0 then scanIdentity op ty else v.b.toNat % 2 ^ tyBits ty
  let r := scanLanes op (decide (4 ≤ m)) ty (cmdCtl v) start (lanes (tyBits ty) (c.row (selNum v.slot.a)))
  .ok r.2.2 (pushQ0 (entryOf ty r.2.1) (s.setCurCore (c.setRow (selNum v.slot.d) (rowOf (tyBits ty) r.1))))

/-- VNZ (R321): 16-bit indices in ascending order, then zeros. The index list has as many lanes as A; where A has fewer than
D, the spec gives the lanes of D beyond it no value, and they are free (log 22). -/
def runVnz (v : VecCmd) (s : State) : Res Flags :=
  let ty := v.slot.ty
  let w := tyBits ty
  let c := s.curCore
  let ls := lanes w (c.row (selNum v.slot.a))
  let base := field v.b 0 16
  let hits := (ls.zip (List.range ls.length)).filterMap fun p =>
    if laneNonzero ty (cmdCtl v).daz p.1 then some ((base + p.2) % 65536) else none
  let idx := hits ++ List.replicate (ls.length - hits.length) 0
  let d := selNum v.slot.d
  let beyond := lanes 16 (BitVec.ofNat 2048 (Config.freeNat s.fresh))
  let c1 :=
    if w = 8 then c.setRows d [rowOf 16 (idx.take 128), rowOf 16 (idx.drop 128)]
    else c.setRow d (rowOf 16 (idx ++ beyond.drop ls.length))
  .ok {} (pushQ0 (BitVec.ofNat 64 hits.length) (s.nextFresh.setCurCore c1))

/-- VSHUF and VBCAST (R322). -/
def runMove (t : Strand) (v : VecCmd) (n : Nat) (s : State) : Res Flags :=
  let w := tyBits v.slot.ty
  let count := 2048 / w
  let c := s.curCore
  let a := lanesAs v.slot.ty (c.row (selNum v.slot.a))
  let ls :=
    if v.opcode == 0xC4 then
      (lanes w (c.row (selNum v.slot.b))).map fun i => if v.slot.m == 1 && count ≤ i then 0 else a.getD (i % count) 0
    else if v.slot.m == 1 then List.replicate count (a.getD (imm32 v.slot) 0)
    else List.replicate count (v.a.toNat % 2 ^ w)
  (writeResult t v n (rowOf w ls) s).andThen fun _ s1 => .ok {} s1

/-- VLD (R323). -/
def runVld (t : Strand) (v : VecCmd) (n : Nat) (s : State) : Res Flags :=
  let sp := memSpace v.slot s.cur.seat
  let addrs := rowAddrs v.ea v.b (rowCount v.slot.m)
  (clearRows t sp addrs 256 false s).andThen fun _ s1 =>
    let ps := rowParts sp addrs 256
    (vecReads t v n sp ps s1).andThen fun v1 s2 =>
      if v1.done < ps.length then .ok {} (keepGoing v1 ps.length s2)
      else
        .ok {} (s2.setCurCore (s2.curCore.setRows (selNum v.slot.d)
          ((List.range addrs.length).map fun r => BitVec.ofNat 2048 (bytesToNat ((v1.got.drop (256 * r)).take 256)))))

/-- VST (R323): rows in ascending order. -/
def runVst (t : Strand) (v : VecCmd) (n : Nat) (s : State) : Res Flags :=
  let sp := memSpace v.slot s.cur.seat
  let addrs := rowAddrs v.ea v.c (rowCount v.slot.m)
  let c := s.curCore
  let bs := (List.range addrs.length).flatMap fun r => rowBytes (c.row (selNum v.slot.b + r))
  (clearRows t sp addrs 256 true s).andThen fun _ s1 =>
    let ps := rowParts sp addrs 256
    (vecWrites v n (fun a bs => vecWrite t sp a bs (selWin v.slot.c)) (splitParts ps bs) s1).andThen fun v1 s2 => .ok {} (keepGoing v1 ps.length s2)

/-- The element addresses of a gather or scatter (R324). -/
def elementAddrs (c : Core) (v : VecCmd) (index : Nat) : List Word :=
  let w := tyBits v.slot.ty
  let n := 2048 / w
  let regs := (n + 63) / 64
  let idx := ((upFrom index regs).flatMap fun r => lanes 32 (c.row r)).take n
  idx.map fun i => v.ea + BitVec.ofNat 64 (i * (w / 8))

/-- The rights of every element of a gather or scatter in global memory (R309). -/
def elementRights (t : Strand) (sp : LockSpace) (addrs : List Word) (need : Kind) (s : State) : Res Unit :=
  if sp = .global then
    Res.each addrs s fun a s1 => (checkRights (curWho t s1) a.toNat need s1).andThen fun _ s2 => .ok () s2
  else .ok () s

/-- One element is within its space and may be reached (R309, R324). -/
def checkElement (t : Strand) (sp : LockSpace) (a : Word) (n : Nat) (write : Bool) (s : State) : Res Unit :=
  if sp = .global then
    (parkCheck (curWho t s) a.toNat s).andThen fun _ s1 =>
      lockCheck (curWho t s1) sp a.toNat (a.toNat + n - 1) write s1
  else if !localInside t sp a.toNat n then .failAt .prot a s
  else lockCheck (curWho t s) sp a.toNat (a.toNat + n - 1) write s

/-- VGATH (R324): a fault writes no register. -/
def runVgath (t : Strand) (v : VecCmd) (n : Nat) (s : State) : Res Flags :=
  let sp := memSpace v.slot s.cur.seat
  let w := tyBits v.slot.ty
  let addrs := elementAddrs s.curCore v (selNum v.slot.b)
  (Res.collect (v.now n addrs) s fun a s1 =>
    (checkElement t sp a (w / 8) false s1).andThen fun _ s2 => vecRead t sp a.toNat (w / 8) s2).andThen fun bss s1 =>
      let v1 := v.advance bss.length bss.flatten
      if v1.done < addrs.length then .ok {} (keepGoing v1 addrs.length s1)
      else
        let elems := (List.range addrs.length).map fun i => bytesToNat ((v1.got.drop (w / 8 * i)).take (w / 8))
        .ok {} (s1.setCurCore (s1.curCore.setRow (selNum v.slot.d) (rowOf w elems)))

/-- Every element of a scatter that waits for the task's own lock waits before any is performed. -/
def scatterWaits (t : Strand) (sp : LockSpace) (addrs : List Word) (n : Nat) (s : State) : Bool :=
  addrs.any fun a =>
    match lockCheck (curWho t s) sp a.toNat (a.toNat + n - 1) true s with
    | .wait _ => true
    | _ => false

/-- VSCAT (R324): elements in ascending order; those below a fault may be performed. -/
def runVscat (t : Strand) (v : VecCmd) (n : Nat) (s : State) : Res Flags :=
  let sp := memSpace v.slot s.cur.seat
  let w := tyBits v.slot.ty
  let c := s.curCore
  let addrs := elementAddrs c v (selNum v.slot.c)
  if scatterWaits t sp addrs (w / 8) s then .wait .rangeLock
  else
    let items := v.now n (addrs.zip (lanesAs v.slot.ty (c.row (selNum v.slot.b))))
    (Res.each items s fun p s1 =>
      (checkElement t sp p.1 (w / 8) true s1).andThen fun _ s2 =>
        vecWrite t sp p.1.toNat (natToBytes p.2 (w / 8)) false s2).andThen fun _ s1 =>
          .ok {} (keepGoing (v.advance items.length []) addrs.length s1)

/-- VSFU (R325). -/
def runVsfu (t : Strand) (v : VecCmd) (n : Nat) (s : State) : Res Flags :=
  let w := tyBits v.slot.ty
  let r := mapFlags (sfuLane v.slot.m.toNat v.slot.ty (cmdCtl v)) (lanes w (s.curCore.row (selNum v.slot.a)))
  (writeResult t v n (rowOf w r.1) s).andThen fun _ s1 => .ok r.2 s1

/-- A command that pushes into q0 waits while that queue is full (R312). -/
def needsQ0 (op : Nat) : Bool := op == 0xBF || op == 0xC1 || op == 0xC2 || op == 0xC3

/-- The effect of a vector command, which makes its next `n` accesses of memory. -/
def vectorBody (v : VecCmd) (n : Nat) (s : State) : Res Flags :=
  match s.strand with
  | none => .ok {} s
  | some t =>
    if needsQ0 v.opcode && !q0Room t && !t.trapping then .wait .older
    else
      match v.opcode with
      | 0xBE => runConvert t v n s
      | 0xBF => runVq v s
      | 0xC0 => runVdq v s
      | 0xC1 => runVred v s
      | 0xC2 => runVscan v s
      | 0xC3 => runVnz v s
      | 0xC4 | 0xC5 => runMove t v n s
      | 0xC6 => runVld t v n s
      | 0xC7 => runVst t v n s
      | 0xC8 => runVgath t v n s
      | 0xC9 => runVscat t v n s
      | 0xCA => runVsfu t v n s
      | _ => runLanes t v n s

/-- VECTOR_COMMAND_EXECUTE: the next vector command, unless it waits for the SFU (R170). -/
def vectorExecute (s : State) : State :=
  match headCommand s s.cur false with
  | none => s
  | some (v, f) => if v.opcode == 0xCA then s else runCommand s v f (vectorBody v (v.accesses f.seat))

def execVectorCommandExecute (s : State) : Out := .next (vectorExecute s)

/-- The request of a command leaves the SFU queue once the command is over. -/
def answered (key : Nat) (s : State) : State :=
  let c := s.core s.cur.core
  if c.inFlight.any fun x => x.key == key then s
  else s.setCore s.cur.core { c with sfu := c.sfu.filter fun r => r.command != some key }

/-- SFU_REQUEST_SERVED: the oldest request; a VSFU's is answered when its command is the next to execute (R173). -/
def sfuServe (s : State) : State :=
  let c := s.core s.cur.core
  match c.sfu with
  | [] => s
  | r :: rest =>
    match r.command with
    | none => s.setCore s.cur.core { c with sfu := rest }
    | some key =>
      match headCommand s s.cur false with
      | some (v, f) => if v.key == key then answered key (runCommand s v f (vectorBody v (v.accesses f.seat))) else s
      | none => answered key s

def execSfuRequestServed (s : State) : Out := .next (sfuServe s)

/-! ## Issue -/

/-- A first register that must be a multiple of a count. -/
def multipleOf (sel : Sel) (n : Nat) (s : State) : Res Unit :=
  if selNum sel % n = 0 then .ok () s else .fail .illegalOperand s

def execVadd (f : Slot) (s : State) : Out := .next (vecIssue 0xB0 f s noCheck)
def execVsub (f : Slot) (s : State) : Out := .next (vecIssue 0xB1 f s noCheck)
def execVmul (f : Slot) (s : State) : Out := .next (vecIssue 0xB2 f s noCheck)
def execVfma (f : Slot) (s : State) : Out := .next (vecIssue 0xB3 f s noCheck)
def execVmin (f : Slot) (s : State) : Out := .next (vecIssue 0xB4 f s noCheck)
def execVmax (f : Slot) (s : State) : Out := .next (vecIssue 0xB5 f s noCheck)
def execVabs (f : Slot) (s : State) : Out := .next (vecIssue 0xB6 f s noCheck)
def execVcmp (f : Slot) (s : State) : Out := .next (vecIssue 0xB7 f s noCheck)
def execVsel (f : Slot) (s : State) : Out := .next (vecIssue 0xB8 f s noCheck)
def execVand (f : Slot) (s : State) : Out := .next (vecIssue 0xB9 f s noCheck)
def execVor (f : Slot) (s : State) : Out := .next (vecIssue 0xBA f s noCheck)
def execVxor (f : Slot) (s : State) : Out := .next (vecIssue 0xBB f s noCheck)
def execVshl (f : Slot) (s : State) : Out := .next (vecIssue 0xBC f s noCheck)
def execVshr (f : Slot) (s : State) : Out := .next (vecIssue 0xBD f s noCheck)

/-- VCVT's part is below the ratio of the widths (R316). -/
def checkPart (f : Slot) (s : State) : Res Unit :=
  let ws := tyBits (tyOfCode f.m.toNat)
  let wd := tyBits f.ty
  let q := max ws wd / min ws wd
  if selWin f.d then (if q = 1 then .ok () s else .fail .illegalOperand s)
  else if imm32 f < q then .ok () s
  else .fail .illegalOperand s

def execVcvt (f : Slot) (s : State) : Out := .next (vecIssue 0xBE f s fun _ s0 => checkPart f s0)
def execVq (f : Slot) (s : State) : Out := .next (vecIssue 0xBF f s fun _ s0 => multipleOf f.a (groupRegs f.ty) s0)
def execVdq (f : Slot) (s : State) : Out := .next (vecIssue 0xC0 f s fun _ s0 => multipleOf f.d (groupRegs f.ty) s0)
def execVred (f : Slot) (s : State) : Out := .next (vecIssue 0xC1 f s noCheck)
def execVscan (f : Slot) (s : State) : Out := .next (vecIssue 0xC2 f s noCheck)
def execVnz (f : Slot) (s : State) : Out :=
  .next (vecIssue 0xC3 f s fun _ s0 => multipleOf f.d (if tyBits f.ty = 8 then 2 else 1) s0)
def execVshuf (f : Slot) (s : State) : Out := .next (vecIssue 0xC4 f s noCheck)
def execVbcast (f : Slot) (s : State) : Out :=
  .next (vecIssue 0xC5 f s fun _ s0 =>
    if f.m == 1 && 2048 / tyBits f.ty ≤ imm32 f then .fail .illegalOperand s0 else .ok () s0)

/-- VLD: first register, bounds, alignment, rights (R323, R309). -/
def execVld (f : Slot) (s : State) : Out :=
  .next (vecIssue 0xC6 f s
    (fun t s0 =>
      let stride := strideOf t f.b
      (multipleOf f.d (rowCount f.m) s0).andThen fun _ s1 =>
        checkRows t (memSpace f s1.cur.seat) (rowAddrs (effAddr t f) stride (rowCount f.m)) stride 256 32 kRead s1)
    fun t v => { v with b := strideOf t f.b })

/-- VST. -/
def execVst (f : Slot) (s : State) : Out :=
  .next (vecIssue 0xC7 f s
    (fun t s0 =>
      let stride := strideOf t f.c
      (multipleOf f.b (rowCount f.m) s0).andThen fun _ s1 =>
        checkRows t (memSpace f s1.cur.seat) (rowAddrs (effAddr t f) stride (rowCount f.m)) stride 256 32 kWrite s1)
    fun t v => { v with c := strideOf t f.c })

/-- VSFU also takes an entry of the SFU queue (R173, R325). -/
def execVsfu (f : Slot) (s : State) : Out :=
  .next (issue f s fun t s0 =>
    (takeClaim s0).andThen fun _ s1 =>
      (checkWindow f s1).andThen fun _ s2 =>
        if 32 ≤ s2.curCore.sfu.length then .wait .engineFull
        else
          let key := s2.ticket
          (enqueue (captureCmd t 0xCA f s2) s2).andThen fun _ s3 =>
            let c := s3.curCore
            .ok .seq (s3.setCurCore { c with sfu := c.sfu ++ [{ hc := s3.cur.hc, command := some key }] }))

/-- VFENCE (R327): takes the claim, and waits for the strand's vector, matrix and SFU work. -/
def execVfence (f : Slot) (s : State) : Out :=
  .next (issue f s fun _ s0 =>
    (takeClaim s0).andThen fun _ s1 =>
      if !s1.curCore.inFlight.isEmpty || pendingSfu s1 s1.cur then .wait .older else .ok .seq s1)

end Sys2Proof.Machine
end

