-- ==== Sys2Proof/Machine/Engines.lean ====
section
/-! DEFINITION. What every engine instruction shares (R329, R330): registration in the range-lock table (R112), the rights and
the blocks of its spans (R78, R155), completion words (R181) and the records of late faults. -/

namespace Sys2Proof.Machine

/-- A range of `n` bytes, or none. -/
def spanOf (space : LockSpace) (lo n : Nat) (dest : Bool) : List Span :=
  if n = 0 then [] else [{ space := space, lo := lo, hi := lo + n - 1, dest := dest }]

/-! ## Checks at issue (R329) -/

/-- Bytes of an engine's local space; the barrier area is out of bounds. -/
def engineLimit : LockSpace → Option Nat
  | .spad _ => some Config.spadBytes
  | .bench => some Config.barrierBase
  | .shelf _ => some Config.shelfBytes
  | _ => none

/-- The bounds of a local span, with ADDR holding the offset; one of no bytes may begin at the end of its space (R341). -/
def engineBounds (sp : LockSpace) (lo n : Nat) (s : State) : Res Unit :=
  match engineLimit sp with
  | some limit => if limit < lo + n then .failAt .prot (BitVec.ofNat 64 lo) s else .ok () s
  | none => .ok () s

/-- The rights of every page from `lo` to `hi`. -/
def rightsPages (w : Who) (need : Kind) : Nat → Nat → Nat → State → Res Unit
  | 0, _, _, s => .ok () s
  | n + 1, lo, hi, s =>
    if hi < lo then .ok () s
    else (checkRights w lo need s).andThen fun _ s1 => rightsPages w need n (lo / 65536 * 65536 + 65536) hi s1

/-- Rights over a global span; an address of 2^56 or more fails at the first page it reaches. -/
def engineRights (t : Strand) (sp : LockSpace) (lo n : Nat) (dest : Bool) (s : State) : Res Unit :=
  if sp = .global && n ≠ 0 then
    rightsPages (curWho t s) (if dest then kEngineWrite else kEngineRead) (n / 65536 + 2) lo (lo + n - 1) s
  else .ok () s

/-- Blocks of a region whose block-mapped pages a global span covers, in ascending order. -/
def regionCovered (s : State) (region : Nat) (g : Region) (lo hi : Nat) : List (Nat × Nat) :=
  let size := 2 ^ (g.bsz + 14)
  if g.base + g.blocks * size ≤ lo || hi < g.base then []
  else
    let first := (lo - g.base) / size
    let last := min ((hi - g.base) / size) (g.blocks - 1)
    (upFrom first (last + 1 - first)).filterMap fun b =>
      let from_ := max lo (g.base + b * size)
      let to_ := min hi (g.base + b * size + size - 1)
      if (upFrom (from_ / 65536) (to_ / 65536 + 1 - from_ / 65536)).any fun p => pageBlocked s (p * 65536) then
        some (region, b)
      else none

/-- Blocks that the global ranges of a command cover, each once, in ascending order: by region, and then by
block (R155, log 92). -/
def coveredBlocks (s : State) (l : Launch) (spans : List Span) : List (Nat × Nat) :=
  let all := (spans.filter fun p => decide (p.space = .global)).flatMap fun p =>
    (l.regions.zip (List.range l.regions.length)).flatMap fun g => regionCovered s g.2 g.1 p.lo p.hi
  (all.foldl (fun ks gb => addRising (blockKey gb.1 gb.2) ks) []).map fun k => (k / 2 ^ 28, k % 2 ^ 28)

/-- The first byte that global ranges cover of a block-mapped page whose leaf is invalid for the launch (R79). -/
def foreignByte (s : State) (l : Launch) (spans : List Span) : Option Nat :=
  let bytes := (spans.filter fun p => decide (p.space = .global)).flatMap fun p => l.regions.flatMap fun g =>
    let lo := max p.lo g.base
    let hi := min p.hi (g.base + g.blocks * 2 ^ (g.bsz + 14) - 1)
    (upFrom (lo / 65536) (hi / 65536 + 1 - lo / 65536)).map fun n => max lo (n * 65536)
  bytes.find? fun a => (blockedOwner s a).any (· != l.ctx)

/-- The blocks of a command (R155): at most four for a span, in ascending order, by region and then by block (log 92), all RESIDENT, or
the strand parks on the first that is not, with TOUCH holds on those before it. Where all are RESIDENT, the command's own holds are
the only ones (log 107). -/
def engineBlocks (t : Strand) (spans : List Span) (s : State) : Res (List (Nat × Nat)) :=
  let l := s.launch t.launch
  let bs := coveredBlocks s l spans
  match spans.find? fun p => decide (4 < (coveredBlocks s l [p]).length) with
  | some p => .failAt .prot (BitVec.ofNat 64 p.lo) s
  | none =>
    match foreignByte s l spans with
    | some a => .trap { cause := .page, addr := some (BitVec.ofNat 64 a), regionOwner := blockedOwner s a } s
    | none =>
      let resident (gb : Nat × Nat) : Bool := decide ((l.block gb).st = .resident)
      match bs.find? fun gb => !resident gb with
      | some gb => .park gb.1 gb.2 ((bs.takeWhile resident).foldl touchBlock s)
      | none => .ok bs s

/-- A command holds each of its blocks until its completion (R158). -/
def holdBlocks (s : State) (launch : Nat) (bs : List (Nat × Nat)) : State :=
  bs.foldl (fun s gb => s.changeBlock launch gb fun b => { b with hold := b.hold + 1 }) s

/-! ## Completions (R181) -/

/-- Completion STATUS codes. -/
def stDone : Nat := 0
def stCancelled : Nat := 1
def stMeta : Nat := 2
def stPoison : Nat := 3
def stFault : Nat := 4
def stWalker : Nat := 5

/-- A completion word. -/
def completionOf (status tag count : Nat) : Word := place 56 8 status ||| place 48 8 tag ||| place 0 48 count

/-- The completion word of a command with a key and the blocks that it holds. -/
def doneEntry (launch key status tag count : Nat) (blocks : List (Nat × Nat)) : QEntry :=
  { word := completionOf status tag count, op := some key, launch := launch, blocks := blocks }

/-- The status that a fault of an engine access posts. -/
def faultStatus (t : TrapInfo) : Nat := if t.cause = .poison then stPoison else stFault

/-- One record of an engine (R329, R38): of the strand's context, naming its message, the PC of its instruction and its
placement, with its detail word. The second part is its key. -/
def engineRecord (s : State) (t : TrapInfo) (item : Bool) (detail : Word) (ctx : Nat) (msgId pc : Word) (rank : Nat)
    (f : Focus) : State × Nat :=
  let recipient := recipientOf s t ctx
  let key := s.ticket
  let r := mkRecord s key { t with addr := some (t.addr.getD 0), detail := detail } ctx recipient { item := item } msgId pc (placementWord recipient rank f)
  (deliverRecord s.nextTicket (fnFor s recipient) r, key)

end Sys2Proof.Machine
end

