-- ==== Sys2Proof/Machine/Matrix.lean ====
section
/-! DEFINITION. The matrix unit, opcodes 0xD0 to 0xD6 (R174 to R178, R224, R329 to R336): issue, the link, and the execution
of matrix commands. -/

namespace Sys2Proof.Machine

/-! ## Shapes (R174, R331, R332) -/

/-- Element bytes, columns and result width of a matrix TYPE. -/
def matBytes (ty : Ty) : Nat := tyBits ty / 8
def matCols (ty : Ty) : Nat := if ty = .f64 then 32 else 64
def matWidth (ty : Ty) : Nat := if ty = .f64 then 64 else 32

/-- Logical columns for each compressed one: 1 dense, 2 for 2:4, 4 for 1:4. -/
def matSparsity (opcode m : Nat) : Nat := if opcode == 0xD1 then (if m < 2 then 2 else 4) else 1

/-- Fields of IMM32 (R331). -/
def matK (f : Slot) : Nat := immField f 0 13
def matTag (f : Slot) : Nat := immField f 16 8
def matCpl (f : Slot) : Bool := f.imm.getLsbD 25
def matSource (f : Slot) : Nat := immField f 26 2

/-- Link words of an A block of `k` compressed columns (R332). -/
def matWords (e k : Nat) : Nat := (k * e + 1) / 2

/-- Link words that a command reads. -/
def cmdWords (opcode : Nat) (f : Slot) : Nat := matWords (matBytes f.ty) (matK f / matSparsity opcode f.m.toNat)

/-- Bytes of the B block, and of the metadata (R334). -/
def matBBytes (f : Slot) : Nat := matK f * matCols f.ty * matBytes f.ty
def metaBytes (opcode : Nat) (f : Slot) : Nat :=
  match matSparsity opcode f.m.toNat with
  | 1 => 0
  | 2 => 8 * (matK f / 4)
  | _ => 4 * (matK f / 4)

/-- The memory of a local A block. -/
def matSpace (f : Slot) (seat : Nat) : LockSpace := if matSource f == 1 then .bench else .spad seat

/-- The ranges of an MMA or MMAS, all of them sources (R112, R333). -/
def matSpans (opcode : Nat) (f : Slot) (a b c : Word) (seat : Nat) : List Span :=
  (if matSource f == 2 then [] else spanOf (matSpace f seat) a.toNat (32 * cmdWords opcode f) false)
    ++ spanOf (.spad seat) c.toNat (metaBytes opcode f) false
    ++ spanOf (.shelf seat) b.toNat (matBBytes f) false

/-- K is from 1 to 4,096, and a multiple of 4 for MMAS (R331). -/
def kOk (opcode : Nat) (f : Slot) : Bool :=
  decide (1 ≤ matK f) && decide (matK f ≤ 4096) && (opcode != 0xD1 || matK f % 4 == 0)

/-! ## Issue -/

/-- Alignment of an operand, with ADDR holding the offset. -/
def alignTo (n : Nat) (off : Word) (s : State) : Res Unit := if off.toNat % n = 0 then .ok () s else .failAt .align off s

/-- Field values, bounds and alignment of an MMA or MMAS with operands `a`, `b` and `c` (R329, R331, R332, R334). -/
def matChecks (opcode : Nat) (f : Slot) (a b c : Word) (s : State) : Res Unit :=
  if !kOk opcode f then .fail .illegalOperand s
  else
    let seat := s.cur.seat
    let link := matSource f == 2
    (if link then .ok () s else engineBounds (matSpace f seat) a.toNat (32 * cmdWords opcode f) s).andThen fun _ s1 =>
      (engineBounds (.shelf seat) b.toNat (matBBytes f) s1).andThen fun _ s2 =>
        (engineBounds (.spad seat) c.toNat (metaBytes opcode f) s2).andThen fun _ s3 =>
          (if link then .ok () s3 else alignTo 32 a s3).andThen fun _ s4 =>
            (alignTo 128 b s4).andThen fun _ s5 => if opcode == 0xD1 then alignTo 8 c s5 else .ok () s5

/-- A matrix command is issued: the claim, its checks, then the queue and the range-lock table (R309, R329). -/
def matIssue (opcode : Nat) (f : Slot) (s : State) (check : Strand → State → Res (List Span))
    (fill : Strand → VecCmd → VecCmd := fun _ v => v) : State :=
  issue f s fun t s0 =>
    (takeClaim s0).andThen fun _ s1 =>
      (check t s1).andThen fun spans s2 =>
        (storeHold t s2).andThen fun _ s3 =>
          let key := s3.ticket
          (enqueue (fill t (captureCmd t opcode f s3)) s3).andThen fun _ s4 =>
            (register t (spans.map fun p => (s4.cur.bench, p)) (.command key) s4).andThen fun _ s5 => .ok .seq s5

/-- MMA and MMAS. -/
def mmaIssue (opcode : Nat) (f : Slot) (s : State) : State :=
  matIssue opcode f s fun t s0 =>
    let a := xOf t f.a
    let b := xOf t f.b
    let c := xOf t f.c
    (matChecks opcode f a b c s0).andThen fun _ s1 => .ok (matSpans opcode f a b c s1.cur.seat) s1

def execMma (f : Slot) (s : State) : Out := .next (mmaIssue 0xD0 f s)
def execMmas (f : Slot) (s : State) : Out := .next (mmaIssue 0xD1 f s)

/-- A tile command that names no memory (R335). -/
def execMzero (f : Slot) (s : State) : Out := .next (matIssue 0xD2 f s fun _ s0 => .ok [] s0)
def execMpred (f : Slot) (s : State) : Out := .next (matIssue 0xD3 f s fun _ s0 => .ok [] s0)
def execMlnk (f : Slot) (s : State) : Out := .next (matIssue 0xD5 f s fun _ s0 => .ok [] s0)

/-- The stride of an MSTA: a register, or the row size. -/
def mstaStride (t : Strand) (f : Slot) : Word :=
  match f.c with
  | .x n => if n = 0 then BitVec.ofNat 64 (mstaRow f) else t.x n.val
  | _ => BitVec.ofNat 64 (mstaRow f)

/-- The span of rows: the smallest range that covers them all. -/
def rowsBounds (sp : LockSpace) (addrs : List Word) (len : Nat) : Span :=
  let offs := addrs.map (·.toNat)
  let lo := offs.foldl min (offs.headD 0)
  { space := sp, lo := lo, hi := offs.foldl max lo + len - 1, dest := true }

/-- MSTA (R336): a vector memory command, whose destination needs W and E (R329), which holds the blocks that it covers and registers
the bytes that its rows may touch as one range (R112, R155, log 73). Like every engine command it waits for the strand's older
vector memory commands (R81), which would meet that range. -/
def execMsta (f : Slot) (s : State) : Out :=
  .next (issue f s fun t s0 =>
    (takeClaim s0).andThen fun _ s1 =>
      let stride := mstaStride t f
      let sp := memSpace { f with c := .x 0 } s1.cur.seat
      let addrs := rowAddrs (effAddr t f) stride 16
      (checkRows t sp addrs stride (mstaRow f) 32 kEngineWrite s1).andThen fun _ s2 =>
        let span := rowsBounds sp addrs (mstaRow f)
        (engineBlocks t [span] s2).andThen fun bs s3 =>
          (storeHold t s3).andThen fun _ s4 =>
            (enqueue { captureCmd t 0xD4 f s4 with c := stride, blocks := bs } s4).andThen fun _ s5 =>
              (register t [(s5.cur.bench, span)] (.command s4.ticket) s5).andThen fun _ s6 =>
                .ok .seq (holdBlocks s6 t.launch bs))

/-- A queued matrix command writes a tile. -/
def writesTile (tile : Nat) (v : VecCmd) : Bool :=
  (v.opcode == 0xD0 || v.opcode == 0xD1 || v.opcode == 0xD2) && selNum v.slot.d == tile

/-- Older matrix commands that MWAIT waits for, follow-on commands of CPYMM included (R335, R340); one whose word still waits for
room in q1 has completed. -/
def mwaitPending (s : State) (f : Focus) (t : Strand) (sel : Sel) : Bool :=
  match sel with
  | .acc n =>
    ((strandCommands s f t).any (writesTile n.val))
      || (s.bench f.bench).copies.any fun c =>
          decide (c.issuer = f) && c.launch == t.launch && c.task == t.message.key
            && (match c.follow with
                | some v => writesTile n.val v
                | none => false)
  | _ => matrixWork s f t

/-- MWAIT (R335): it takes the claim, and is not queued. -/
def execMwait (f : Slot) (s : State) : Out :=
  .next (issue f s fun t s0 =>
    (takeClaim s0).andThen fun _ s1 => if mwaitPending s1 s1.cur t f.a then .wait .older else .ok .seq s1)

/-! ## Arithmetic (R224) -/

/-- The exact sum of a group's products, with its flags. Infinities of both signs raise NV where they meet in the order of the sum,
from the last product to the first, before a quiet NaN does (log 106). -/
def sumGroup : List (Fv × Flags) → Fv × Flags
  | [] => (.fin false 0 0, {})
  | [p] => p
  | p :: rest =>
    let r := sumGroup rest
    let a := addFv .rne p.1 r.1
    (a.1, (p.2.or r.2).or a.2)

/-- Products in groups of eight by k, each rounded once and added once into the FP32 element. -/
def accGroups (c : FpCtl) : Nat → Nat → List (Fv × Flags) → Nat × Flags
  | 0, acc, _ => (acc, {})
  | n + 1, acc, ps =>
    if ps.isEmpty then (acc, {})
    else
      let g := sumGroup (ps.take 8)
      let r := roundFp fmtF32 c g.1
      let a := fpAdd fmtF32 { c with daz := false } acc r.1
      let rest := accGroups c n a.1 (ps.drop 8)
      (rest.1, ((g.2.or r.2).or a.2).or rest.2)

/-- The FP64 chain of fused multiply-adds along k. -/
def accChain (c : FpCtl) (acc : Nat) : List (Fv × Fv) → Nat × Flags
  | [] => (acc, {})
  | p :: rest =>
    let s := fmaFv .rne p.1 p.2 (readFp fmtF64 false acc)
    let r := roundFp fmtF64 c s.1
    let t := accChain c r.1 rest
    (t.1, (s.2.or r.2).or t.2)

/-- One element: the accumulator and the operand pairs by k, where no pair stands for a zero product (R224). -/
def accumulate (ty : Ty) (c : FpCtl) (acc : Nat) (ps : List (Option Nat × Nat)) : Nat × Flags :=
  match fmtOf ty with
  | none =>
    let sum := ps.foldl (fun (n : Int) p =>
      match p.1 with
      | some a => n + intLane ty a * intLane ty p.2
      | none => n) (acc : Int)
    (wrapInt 32 sum, {})
  | some fmt =>
    if ty = .f64 then
      accChain c acc (ps.map fun p => (readFp fmt c.daz (p.1.getD 0), readFp fmt c.daz p.2))
    else
      accGroups c (ps.length / 8 + 1) acc (ps.map fun p =>
        match p.1 with
        | some a => mulFv (readFp fmt c.daz a) (readFp fmt c.daz p.2)
        | none => (.fin false 0 0, {}))

/-! ## Operands -/

/-- Element (m, k) of the compressed A from its link words (R176). -/
def aElem (e : Nat) (ws : List (BitVec 256)) (m k : Nat) : Nat :=
  let off := k * 16 * e + m * e
  (ws.getD (off / 32) 0).toNat / 2 ^ (8 * (off % 32)) % 2 ^ (8 * e)

/-- Metadata of row `m` in group `g`: the positions of its compressed columns (R334). -/
def metaOf (sp : Nat) (bs : List Byte) (m g : Nat) : List Nat :=
  if sp = 2 then
    let w := bytesToNat ((bs.drop (8 * g)).take 8) / 2 ^ (4 * m) % 16
    [w % 4, w / 4]
  else [bytesToNat ((bs.drop (4 * g)).take 4) / 2 ^ (2 * m) % 4]

/-- A 2:4 group that names one position twice (R334). -/
def metaBad (sp : Nat) (bs : List Byte) (groups : Nat) : Bool :=
  sp == 2 && (List.range groups).any fun g => (List.range 16).any fun m =>
    match metaOf sp bs m g with
    | [p, q] => p == q
    | _ => false

/-- Row `m` of the dense equivalent of A by logical k: none where the metadata selects no value (R334). -/
def aRow (opcode : Nat) (f : Slot) (ws : List (BitVec 256)) (md : List Byte) (m : Nat) : List (Option Nat) :=
  let e := matBytes f.ty
  let sp := matSparsity opcode f.m.toNat
  if sp = 1 then (List.range (matK f)).map fun k => some (aElem e ws m k)
  else
    (List.range (matK f / 4)).flatMap fun g =>
      let ps := metaOf sp md m g
      (List.range 4).map fun p => (indexWhere (fun q => q == p) ps).map fun i => aElem e ws m (ps.length * g + i)

/-- Column `n` of B by k, from the bytes of the block (R175). -/
def bCol (f : Slot) (bs : List Byte) (n : Nat) : List Nat :=
  let e := matBytes f.ty
  (List.range (matK f)).map fun k => bytesToNat ((bs.drop ((k * matCols f.ty + n) * e)).take e)

/-! ## The link (R176, R177) -/

/-- The next seat accepts a link word. -/
def linkRoom (s : State) (f : Focus) : Bool :=
  let c := s.core (f.core + 1)
  c.linkIn && decide (c.linkQueue.length < 16)

/-- A link word pushed to the next seat. -/
def linkPush (s : State) (f : Focus) (w : BitVec 256) : State :=
  let c := s.core (f.core + 1)
  s.setCore (f.core + 1) { c with linkQueue := c.linkQueue ++ [w] }

/-- A matrix command touches the scratchpad of its core (R202). -/
def touchBy (v : VecCmd) (f : Focus) (off n : Nat) (s : State) : State :=
  engineTouch { ctx := (s.launch v.launch).ctx, launch := v.launch, task := v.task, unit := f } v.key f.core off n s

/-- The A word at index `i` of a local block, and whether it is poisoned. -/
def localWord (s : State) (v : VecCmd) (f : Focus) (i : Nat) : BitVec 256 × Bool :=
  let off := v.a.toNat + 32 * i
  let bad (poison : List Nat) : Bool := (wordsOf off 32).any poison.contains
  if matSource v.slot == 1 then
    let b := s.bench f.bench
    (BitVec.ofNat 256 (bytesToNat (cellBytes b.mem off 32)), bad b.poison)
  else
    let c := s.core f.core
    (BitVec.ofNat 256 (bytesToNat (cellBytes c.spad off 32)), bad c.spadPoison)

/-- A word that the unit has read goes to the next seat where `push` says so, or waits for room there; one of an aborted
strand that would wait is discarded (R177). -/
def passWord (s : State) (v : VecCmd) (f : Focus) (push : Bool) (w : BitVec 256) : Option State :=
  if !(push && f.seat < 7) then some s
  else if linkRoom s f then some (linkPush s f w)
  else if v.aborted then some s
  else none

/-- One more A word, with its push to the next seat, or none while the unit waits on the link. -/
def nextWord (s : State) (v : VecCmd) (f : Focus) : Option (State × VecCmd) :=
  let c := s.core f.core
  if matSource v.slot == 2 then
    match c.linkQueue with
    | [] => none
    | w :: rest =>
      (passWord (s.setCore f.core { c with linkQueue := rest }) v f c.linkFwd w).map fun s1 =>
        (s1, { v with words := v.words ++ [w] })
  else
    let w := localWord s v f v.words.length
    let s0 := if matSource v.slot == 1 then s else touchBy v f (v.a.toNat + 32 * v.words.length) 32 s
    (passWord s0 v f c.linkFeed w.1).map fun s1 =>
      (s1, { v with words := v.words ++ [w.1], poisoned := v.poisoned || w.2 })

/-- A words up to `n` more, as far as the link allows. -/
def gatherWords (f : Focus) : Nat → State → VecCmd → State × VecCmd
  | 0, s, v => (s, v)
  | n + 1, s, v =>
    match nextWord s v f with
    | some r => gatherWords f n r.1 r.2
    | none => (s, v)

/-! ## Execution (R333, R335, R336) -/

/-- A mask as it acts on rows or columns. -/
def Core.ymMask (c : Core) (n : Nat) : BitVec 16 := c.ym.get n (BitVec.allOnes 16)
def Core.xmMask (c : Core) (n : Nat) : Word := c.xm.get n (BitVec.allOnes 64)

/-- The lanes of a row of a tile, each changed where its column bit is set. -/
def maskLanes (xm : Word) (f : Nat → Nat → Nat × Flags) (ls : List Nat) : List Nat × Flags :=
  mapFlags (fun (p : Nat × Nat) => if xm.getLsbD p.2 then f p.2 p.1 else (p.1, {})) (ls.zip (List.range ls.length))

/-- The rows of a tile, each changed where its row bit is set. -/
def maskRows (ym : BitVec 16) (w tile : Nat) (f : Nat → List Nat → List Nat × Flags) : Nat → Core → Core × Flags
  | 0, c => (c, {})
  | n + 1, c =>
    let r := maskRows ym w tile f n c
    if ym.getLsbD n then
      let row := f n (lanes w (c.row (16 * tile + n)))
      (r.1.setRow (16 * tile + n) (rowOf w row.1), r.2.or row.2)
    else r

/-- The masks a command names. -/
def maskOf (c : Core) (v : VecCmd) : BitVec 16 × Word := (c.ymMask (immField v.slot 30 2), c.xmMask (immField v.slot 28 2))

/-- The product of an MMA or MMAS into its tile (R333). -/
def matProduct (v : VecCmd) (c : Core) (md bs : List Byte) : Core × Flags :=
  let ty := v.slot.ty
  let zero := v.slot.m.toNat % 2 == 1
  let ctl : FpCtl := { fpCtl v.fcr .rne with rm := .rne }
  let masks := maskOf c v
  let cols := (List.range (matCols ty)).map (bCol v.slot bs)
  maskRows masks.1 (matWidth ty) (selNum v.slot.d)
    (fun m ls =>
      let a := aRow v.opcode v.slot v.words md m
      maskLanes masks.2 (fun n old => accumulate ty ctl (if zero then 0 else old) (a.zip (cols.getD n []))) ls) 16 c

/-- Units of 512 MACs that a matrix command makes, one for each product of its compressed columns (R306, log 74). -/
def matMacs (v : VecCmd) : Nat := 16 * matCols v.slot.ty * (matK v.slot / matSparsity v.opcode v.slot.m.toNat) / 512

/-- Units of 512 MACs are counted: event 11 counts 1,024s, and the odd one stands beside it under a number that no event has
(R306). -/
def countMacs (s : State) (launch bench n : Nat) : State :=
  let l := s.launch launch
  let half := (l.counters.get (bench * 64 + 16) 0).toNat + n
  countEvent (s.setLaunch launch { l with counters := l.counters.put (bench * 64 + 16) (BitVec.ofNat 64 (half % 2)) })
    launch bench 11 (half / 2)

/-- A matrix command without a completion word is over: its entries and holds are released (R112, R155). -/
def matOver (s : State) (v : VecCmd) (f : Focus) : State :=
  releaseOp (releaseHolds (popCommand s f v.key) v.launch v.blocks) v.key

/-- A matrix command posts its completion word, with which its entries and holds go. -/
def matPost (s : State) (v : VecCmd) (f : Focus) (status : Nat) : State :=
  postEntry (popCommand s f v.key) f v.launch v.task 1 (doneEntry v.launch v.key status (matTag v.slot) 0 v.blocks)

/-- The end of a matrix command of an aborted strand: its result is discarded, and the claim is released (R142, R168). -/
def matDiscard (s : State) (v : VecCmd) (f : Focus) : State := releaseClaim (matOver s v f) f

/-- The end of an MMA or MMAS whose A words are all read (R333): META, POISON, or the product; then its completion. -/
def matFinish (s0 : State) (v : VecCmd) (f : Focus) : State :=
  let s := touchBy v f v.c.toNat (metaBytes v.opcode v.slot) s0
  let c := s.core f.core
  let md := cellBytes c.spad v.c.toNat (metaBytes v.opcode v.slot)
  let bs := cellBytes c.shelf v.b.toNat (matBBytes v.slot)
  let hit (poison : List Nat) (off n : Nat) : Bool := n != 0 && (wordsOf off n).any poison.contains
  let poisoned := v.poisoned || hit c.spadPoison v.c.toNat (metaBytes v.opcode v.slot)
    || hit c.shelfPoison v.b.toNat (matBBytes v.slot)
  if metaBad (matSparsity v.opcode v.slot.m.toNat) md (matK v.slot / 4) then matPost s v f stMeta
  else if poisoned then matPost s v f stPoison
  else
    let r := matProduct v c md bs
    let s2 := countMacs (orFlagsAt f r.2 (s.setCore f.core r.1)) v.launch f.bench (matMacs v)
    if matCpl v.slot then matPost s2 v f stDone else matOver s2 v f

/-- An MMA or MMAS goes as far as the link allows (R177), and ends once it has every A word. One of an aborted strand ends
where the link has no word for it (log 75). -/
def matAdvance (s : State) (v : VecCmd) (f : Focus) : State :=
  let need := cmdWords v.opcode v.slot
  let r := gatherWords f (need - v.words.length) s v
  if v.aborted then matDiscard r.1 v f
  else if r.2.words.length < need then holdCommand r.1 f r.2
  else matFinish r.1 r.2 f

/-- MZERO (R335). -/
def zeroTile (v : VecCmd) (c : Core) : Core :=
  let w := matWidth v.slot.ty
  let masks := maskOf c v
  (maskRows masks.1 w (selNum v.slot.d) (fun _ ls => maskLanes masks.2 (fun _ _ => (0, {})) ls) 16 c).1

/-- MPRED and MPRED.cnt (R335). -/
def setMask (v : VecCmd) (c : Core) : Core :=
  let count (w : Nat) : Nat := 2 ^ min v.a.toNat w - 1
  match v.slot.d with
  | .ym n => { c with ym := c.ym.put n.val (if v.slot.m == 1 then BitVec.ofNat 16 (count 16) else v.a.setWidth 16) }
  | .xm n => { c with xm := c.xm.put n.val (if v.slot.m == 1 then BitVec.ofNat 64 (count 64) else v.a) }
  | _ => c

/-- MLNK (R335): seat 0 has no predecessor, and its IN accepts nothing (R176). -/
def setLink (v : VecCmd) (c : Core) : Core :=
  { c with linkIn := v.slot.imm.getLsbD 0, linkFwd := v.slot.imm.getLsbD 1, linkFeed := v.slot.imm.getLsbD 2 }

/-- One element of an MSTA (R336): converted with RNE, the captured FTZ and DAZ (R219), and saturation. -/
def mstaLane (v : VecCmd) (ty : Ty) (x : Nat) : Nat × Flags :=
  let ctl : FpCtl := { fpCtl v.fcr .rne with rm := .rne, satn := true }
  let src : Ty := if v.slot.m == 11 then .f32 else if v.slot.m == 12 then .f64 else .i32
  match fmtOf src, fmtOf ty with
  | some sf, some df => fpConvert sf df ctl x
  | _, _ => (wrapInt (tyBits ty) (clampInt (intBounds ty).1 (intBounds ty).2 (intLane src x)), {})

/-- A part of a row that MSTA stores: its range is registered and its blocks are held, so that it meets neither. -/
def mstaStore (t : Strand) (sp : LockSpace) (a : Nat) (bs : List Byte) (s : State) : Res Unit :=
  match sp with
  | .global => storePartAs kEngineWrite (curWho t s) a bs s
  | .bench => .ok () (benchWrite s.cur.bench a bs s)
  | _ => .ok () (spadWrite s.cur.core a bs false (noteBanks a bs.length s))

/-- MSTA (R336): rows in ascending order. -/
def runMsta (v : VecCmd) (n : Nat) (s : State) : Res Flags :=
  match s.strand with
  | none => .ok {} s
  | some t =>
    let ty := v.slot.ty
    let sp := memSpace { v.slot with c := .x 0 } s.cur.seat
    let addrs := rowAddrs v.ea v.c 16
    let w := if v.slot.m == 12 then 64 else 32
    let tile := selNum v.slot.b
    let rows := (List.range 16).map fun r => mapFlags (mstaLane v ty) (lanes w (s.curCore.row (16 * tile + r)))
    let ps := rowParts sp addrs (mstaRow v.slot)
    let bs := rows.flatMap fun r => r.1.flatMap fun x => natToBytes x (tyBits ty / 8)
    (vecWrites v n (mstaStore t sp) (splitParts ps bs) s).andThen fun v1 s1 =>
      .ok (rows.foldl (fun fl r => fl.or r.2) {}) (keepGoing v1 ps.length s1)

/-- MATRIX_COMMAND_COMPLETE: the oldest matrix command of the core that State.cur names, as far as the scoreboard and the link
allow (R171, R177). -/
def matrixExecute (s : State) : State :=
  match headCommand s s.cur true with
  | none => s
  | some (v, f) =>
    let onCore (g : Core → Core) : State := popCommand (s.setCore f.core (g (s.core f.core))) f v.key
    match v.opcode with
    | 0xD2 => onCore (zeroTile v)
    | 0xD3 => onCore (setMask v)
    | 0xD4 => runCommand s v f (runMsta v (v.accesses f.seat)) fun fl s1 => orFlagsAt f fl (matOver s1 v f)
    | 0xD5 => onCore (setLink v)
    | _ => matAdvance s v f

/-- The memory command that a core may make an access of now: of its vector unit, VSFU's once the SFU comes to it, or an MSTA. -/
def partHead (s : State) (f : Focus) : Option (VecCmd × Focus) :=
  let ready (p : VecCmd × Focus) : Bool :=
    p.1.isMem && (p.1.opcode != 0xCA || ((s.core f.core).sfu.head?.map (·.command)) == some (some p.1.key))
      && decide (p.1.done + 1 < p.1.accesses p.2.seat)
  ((headCommand s f false).filter ready).or ((headCommand s f true).filter ready)

/-- A turn of the vector unit: one access of a memory command, which has others still to make (R323, R324, R328). -/
def vectorPart (bench seat : Nat) (s : State) : State :=
  match partHead s { bench := bench, seat := seat } with
  | none => s
  | some (v, f) =>
    runCommand s v f (if v.opcode == 0xD4 then runMsta v 1 else vectorBody v 1) fun _ s1 => s1

def execMatrixCommandComplete (s : State) : Out := .next (matrixExecute s)

/-! ## Gathers and scatters at issue (R309, R324) -/

/-- An older command is still to write an index register: the indices are not known yet. -/
def indexPending (index : Sel) (s : State) : Bool := s.curCore.inFlight.any fun v => v.writes.any (selUnits index).contains

/-- The units of the core as they will stand when its older commands have written an index register: they are run in order on a
copy of the state, in which no full q0 holds them up. -/
def indexSettled (index : Sel) : Nat → State → State
  | 0, s => s
  | n + 1, s =>
    match s.strand with
    | none => s
    | some t =>
      if !indexPending index s then s
      else
        indexSettled index n (matrixExecute (sfuServe (vectorExecute
          (s.setStrand { t with qs := t.qs.put 0 [], qPending := t.qPending.put 0 [] }))))

/-- The checks of a gather or scatter at issue: the index registers, the base's alignment, and the rights of every page that its
indices reach (R309, R324). It waits where an older command must wait before the indices can be known; where one would fault, that
fault comes first (log 72). -/
def checkIndexed (opcode : Nat) (t : Strand) (f : Slot) (index : Sel) (s : State) : Res Unit :=
  let e := tyBits f.ty / 8
  (multipleOf index ((2048 / tyBits f.ty + 63) / 64) s).andThen fun _ s1 =>
    if (effAddr t f).toNat % e ≠ 0 then .failAt .align (effAddr t f) s1
    else
      let s2 := indexSettled index 64 s1
      if s2.strand.isNone then .ok () s1
      else if indexPending index s2 then .wait .older
      else
        elementRights t (memSpace f s1.cur.seat) (elementAddrs s2.curCore (captureCmd t opcode f s1) (selNum index))
          (if opcode == 0xC8 then kRead else kWrite) s1

def execVgath (f : Slot) (s : State) : Out := .next (vecIssue 0xC8 f s fun t s0 => checkIndexed 0xC8 t f f.b s0)
def execVscat (f : Slot) (s : State) : Out := .next (vecIssue 0xC9 f s fun t s0 => checkIndexed 0xC9 t f f.c s0)

end Sys2Proof.Machine
end

