-- ==== Sys2Proof/Machine/Copy.lean ====
section
/-! DEFINITION. The copy engine, opcodes 0xE0 to 0xE5 (R183 to R185, R330, R337 to R343): issue, units and chunks, completions,
late faults. -/

namespace Sys2Proof.Machine

/-! ## Fields (R330, R337) -/

/-- A space code with its seat, or none where they are no space. -/
def spaceCode (code seat : Nat) : Option LockSpace :=
  match code with
  | 0 => if seat = 0 then some .global else none
  | 1 => if seat = 0 then some .bench else none
  | 2 => some (.spad seat)
  | _ => none

/-- A copy with the options of R330, before its operands. -/
def copyBase (t : Strand) (kind : CopyKind) (f : Slot) (s : State) : CopyCmd :=
  { key := s.ticket, kind := kind, issuer := s.cur, launch := t.launch, task := t.message.key
    ctx := (s.launch t.launch).ctx, pc := t.group, msgId := msgIdWord t.message, rank := t.rank
    src := .global, dst := .global, targetBench := s.cur.bench, srcBase := 0, dstBase := 0, rowBytes := 0, rowCount := 1
    srcStride := 0, dstStride := 0, full := immField f 21 1 == 1, ncpl := immField f 20 1 == 1, x6 := immField f 19 1 == 1
    barrier := if immField f 18 1 == 1 then some (immField f 12 6) else none, tag := immField f 0 8 }

/-- Destination bytes of a row (R184). -/
def CopyCmd.rowOut (c : CopyCmd) : Nat := if c.x6 then c.rowBytes / 3 * 4 else c.rowBytes

/-- All destination bytes of a command. -/
def CopyCmd.total (c : CopyCmd) : Nat :=
  match c.kind with
  | .getx | .placex => c.elements * c.elemBytes
  | _ => c.rowOut * c.rowCount

/-- First byte and length of the span of rows (R112, R338). -/
def rowsSpan (base : Word) (len rows : Nat) (stride : Int) : Int × Nat :=
  let reach : Int := ((rows : Int) - 1) * stride
  let lo : Int := (base.toNat : Int) + (if reach < 0 then reach else 0)
  (lo, if len = 0 then 0 else reach.natAbs + len)

def CopyCmd.srcSpan (c : CopyCmd) : Int × Nat := rowsSpan c.srcBase c.rowBytes c.rowCount c.srcStride
def CopyCmd.dstSpan (c : CopyCmd) : Int × Nat := rowsSpan c.dstBase c.rowOut c.rowCount c.dstStride

/-- The ranges a copy registers: its source and its destination. -/
def CopyCmd.spans (c : CopyCmd) : List Span :=
  spanOf c.src c.srcSpan.1.toNat c.srcSpan.2 false ++ spanOf c.dst c.dstSpan.1.toNat c.dstSpan.2 true

/-- A span that starts below zero is outside every space, and one of no bytes lies in every space but the shelf, where the
offset itself is bounded (R337, R341). -/
def spanBounds (sp : LockSpace) (p : Int × Nat) (s : State) : Res Unit :=
  let shelf : Bool := match sp with
    | .shelf _ => true
    | _ => false
  if p.2 = 0 && !shelf then .ok () s
  else if p.1 < 0 then .failAt .prot (BitVec.ofInt 64 p.1) s else engineBounds sp p.1.toNat p.2 s

/-- Bounds of both spans, alignment, then rights of both (R329). -/
def copyChecks (t : Strand) (c : CopyCmd) (align : State → Res Unit) (s : State) : Res Unit :=
  let d := c.dstSpan
  let r := c.srcSpan
  (spanBounds c.dst d s).andThen fun _ s1 =>
    (spanBounds c.src r s1).andThen fun _ s2 =>
      (align s2).andThen fun _ s3 =>
        (engineRights t c.src r.1.toNat r.2 false s3).andThen fun _ s4 => engineRights t c.dst d.1.toNat d.2 true s4

/-! ## Issue -/

/-- The combining node merges a command with the first of a merge, of which nothing has been read (R185): the same global source,
length, strides and options, the same offset in another seat's scratchpad, and an arrival within 16 fabric clocks, which are ten core
clocks (R23, log 68). A GETX has no global source (R342). -/
def CopyCmd.mergesWith (c first : CopyCmd) : Bool :=
  let seat (x : CopyCmd) : Option Nat := match x.dst with
    | .spad n => some n
    | _ => none
  decide (c.kind = .cpy) && decide (first.kind = .cpy) && decide (c.src = .global)
    && decide (first.src = .global) && (seat c).isSome && (seat first).isSome && seat c != seat first
    && c.launch == first.launch && !first.cancelled && c.srcBase == first.srcBase && c.dstBase == first.dstBase
    && c.rowBytes == first.rowBytes && c.rowCount == first.rowCount && decide (c.srcStride = first.srcStride)
    && decide (c.dstStride = first.dstStride) && c.full == first.full && c.ncpl == first.ncpl && c.x6 == first.x6
    && c.barrier == first.barrier && decide (c.issued ≤ first.issued + 10)
    && first.merge == some first.key && first.done == 0 && first.status.isNone

/-- A command joins a merge, and is counted (R185, R306), or is the first that later ones may merge with. -/
def combine (c : CopyCmd) (bench : Nat) (s : State) : CopyCmd × State :=
  match (s.bench bench).copies.find? c.mergesWith with
  | some first => ({ c with merge := some first.key }, countEvent s c.launch bench 6 1)
  | none => ({ c with merge := some c.key }, s)

/-- A command that has passed its checks waits for the store-hold rule, the engine and the range-lock tables, and is queued
(R183, R329). -/
def copyQueue (t : Strand) (c : CopyCmd) (local_ target : List Span) (s : State) : Res Flow :=
  (engineBlocks t local_ s).andThen fun bs s1 =>
    (storeHold t s1).andThen fun _ s2 =>
      let here := s2.cur.bench
      if 32 ≤ (s2.bench here).copies.length then .wait .engineFull
      else
        let wants := (local_.map fun p => (here, p)) ++ target.map fun p => (c.targetBench, p)
        (register t wants (.command s2.ticket) s2.nextTicket).andThen fun _ s3 =>
          let q := combine { c with key := s2.ticket, blocks := bs, issued := (s3.bench here).clocks } here s3
          let b := q.2.bench here
          .ok .seq (holdBlocks (q.2.setBench here { b with copies := b.copies ++ [q.1] }) t.launch bs)

/-- CPY and CPYX once their operands are known. -/
def copyPlan (t : Strand) (f : Slot) (s : State) (len rows : Nat) (ss ds : Int) (kind : CopyKind) : Res Flow :=
  match spaceCode (immField f 30 2) (immField f 27 3), spaceCode (immField f 25 2) (immField f 22 3) with
  | some src, some dst =>
    let c := { copyBase t kind f s with
      src := src, dst := dst, dstBase := xOf t f.a, srcBase := xOf t f.b, rowBytes := len, rowCount := rows, srcStride := ss
      dstStride := ds }
    if c.x6 && len % 3 != 0 then .fail .illegalOperand s
    else (copyChecks t c (fun s0 => .ok () s0) s).andThen fun _ s1 => copyQueue t c c.spans [] s1
  | _, _ => .fail .illegalOperand s

/-- CPY (R337). -/
def execCpy (f : Slot) (s : State) : Out :=
  .next (issue f s fun t s0 =>
    let len := (xOf t f.c).toNat
    if 2 ^ 32 < len then .fail .illegalOperand s0 else copyPlan t f s0 len 1 0 0 .cpy)

/-- The second register of a pair. -/
def xPair (t : Strand) (sel : Sel) : Word := t.x (selNum sel + 1)

/-- CPYX (R338). -/
def execCpyx (f : Slot) (s : State) : Out :=
  .next (issue f s fun t s0 =>
    let w := xOf t f.c
    let strides := xPair t f.c
    let len := field w 0 32
    if len = 0 || 2 ^ 24 < len || field w 48 16 != 0 then .fail .illegalOperand s0
    else
      copyPlan t f s0 len (field w 32 16 + 1) (signedOf 32 (field strides 0 32)) (signedOf 32 (field strides 32 32)) .cpyx)

/-- CPYSH (R341). -/
def execCpysh (f : Slot) (s : State) : Out :=
  .next (issue f s fun t s0 =>
    let len := (xOf t f.c).toNat
    match spaceCode (immField f 30 2) (immField f 27 3) with
    | some src =>
      let c := { copyBase t .cpysh f s0 with
        src := src, dst := .shelf (immField f 22 3), dstBase := xOf t f.a, srcBase := xOf t f.b, rowBytes := len }
      (copyChecks t c (fun s1 => (alignTo 32 (xOf t f.a) s1).andThen fun _ s2 => alignTo 32 (xOf t f.c) s2) s0).andThen
        fun _ s1 => copyQueue t c c.spans [] s1
    | none => .fail .illegalOperand s0)

/-- CPYMM (R340): the copy part moves the A block of its MMA into the own scratchpad. The shelf range that the MMA reads is
registered with the copy's, and all stay registered until the MMA's end (R112). -/
def execCpymm (f : Slot) (s : State) : Out :=
  .next (issue f s fun t s0 =>
    (takeClaim s0).andThen fun _ s1 =>
      let seat := s1.cur.seat
      let a := xOf t f.a
      let shelf := xOf t f.c
      if !kOk 0xD0 f then .fail .illegalOperand s1
      else
        let follow := { captureCmd t 0xD0 { f with b := f.c, c := .x 0 } s1 with a := a, b := shelf, c := 0 }
        let c := { copyBase t .cpymm f s1 with
          src := if f.space = .b then .bench else .global, dst := .spad seat, dstBase := a, srcBase := xOf t f.b
          rowBytes := 32 * cmdWords 0xD0 f, full := false, ncpl := false, x6 := false, barrier := none, tag := matTag f
          follow := some follow }
        (engineBounds (.shelf seat) shelf.toNat (matBBytes f) s1).andThen fun _ s2 =>
          (copyChecks t c (fun s3 => (alignTo 32 a s3).andThen fun _ s4 => alignTo 128 shelf s4) s2).andThen fun _ s3 =>
            copyQueue t c (c.spans ++ spanOf (.shelf seat) shelf.toNat (matBBytes f) false) [] s3)

/-- The end of a target space (R112, R342). -/
def targetEnd : LockSpace → Nat
  | .bench => Config.barrierBase
  | _ => Config.spadBytes

/-- GETX and PLACEX (R342). -/
def indexedIssue (put : Bool) (f : Slot) (s : State) : State :=
  issue f s fun t s0 =>
    let pair := xOf t f.c
    let base := xPair t f.c
    let count := field pair 0 32
    let rank := field pair 32 12
    let e := 2 ^ immField f 28 2
    let seat := s0.cur.seat
    let l := s0.launch t.launch
    let r := l.rank rank
    let tsp : Option LockSpace := match immField f 30 2 with
      | 1 => some .bench
      | 2 => some (.spad r.seat)
      | _ => none
    let lsp : Option LockSpace := match immField f 26 2 with
      | 1 => some .bench
      | 2 => some (.spad seat)
      | _ => none
    match tsp, lsp with
    | some tsp, some lsp =>
      if 65536 < count || field pair 44 20 != 0 then .fail .illegalOperand s0
      else if r.st == rankTransit then .wait .release
      else
        (rankChecks t rank true s0).andThen fun _ s1 =>
          let loc := xOf t f.a
          let idx := xOf t f.b
          (engineBounds lsp loc.toNat (count * e) s1).andThen fun _ s2 =>
            (engineBounds (.spad seat) idx.toNat (4 * count) s2).andThen fun _ s3 =>
              (alignTo e loc s3).andThen fun _ s4 =>
                (alignTo e base s4).andThen fun _ s5 =>
                  (alignTo 4 idx s5).andThen fun _ s6 =>
                    let c := { copyBase t (if put then .placex else .getx) f s6 with
                      src := if put then lsp else tsp, dst := if put then tsp else lsp
                      srcBase := if put then loc else base, dstBase := if put then base else loc, x6 := false
                      targetBench := r.bench, indexBase := idx.toNat, elemBytes := e, elements := count }
                    let near := spanOf lsp loc.toNat (count * e) (!put) ++ spanOf (.spad seat) idx.toNat (4 * count) false
                    let far := if count = 0 then [] else spanOf tsp base.toNat (targetEnd tsp - base.toNat) put
                    copyQueue t c near far s6
    | _, _ => .fail .illegalOperand s0

def execGetx (f : Slot) (s : State) : Out := .next (indexedIssue false f s)
def execPlacex (f : Slot) (s : State) : Out := .next (indexedIssue true f s)

/-! ## Data -/

/-- The agent of a command's accesses. -/
def CopyCmd.who (c : CopyCmd) : Who := { ctx := c.ctx, launch := c.launch, task := c.task, unit := c.issuer }

/-- Bytes that a command reads in a space of a bench. -/
def engineLoad (c : CopyCmd) (bench : Nat) (sp : LockSpace) (a n : Nat) (s : State) : Res (List Byte) :=
  match sp with
  | .global => engineRead c.who a n s
  | .bench => benchRead bench a n s
  | .spad seat => spadRead (bench * 8 + seat) a n (engineTouch c.who c.key (bench * 8 + seat) a n s)
  | _ => .ok [] s

/-- Bytes written to a shelf segment. -/
def shelfWrite (core off : Nat) (bs : List Byte) (s : State) : State :=
  let c := s.core core
  s.setCore core { c with shelf := cellWrites c.shelf off bs, shelfPoison := cleanWords c.shelfPoison off bs.length }

/-- Bytes that a command writes in a space of a bench. -/
def engineStore (c : CopyCmd) (bench : Nat) (sp : LockSpace) (a : Nat) (bs : List Byte) (s : State) : Res Unit :=
  match sp with
  | .global => engineWrite c.who a bs s
  | .bench => .ok () (benchWrite bench a bs s)
  | .spad seat =>
    .ok () (spadWrite (bench * 8 + seat) a bs c.full (engineTouch c.who c.key (bench * 8 + seat) a bs.length s))
  | .shelf seat => .ok () (shelfWrite (bench * 8 + seat) a bs s)
  | _ => .ok () s

/-- Codes of six bits from a byte string that starts at bit `skip` (R184). -/
def expandCodes (bs : List Byte) (skip n : Nat) : List Byte :=
  (List.range n).map fun j => BitVec.ofNat 8 (bytesToNat bs / 2 ^ (skip + 6 * j) % 64)

/-- A command that has moved bytes more, which land against its barrier object at a bench (R330). -/
def CopyCmd.landed (c : CopyCmd) (bench n : Nat) (s : State) : Res CopyCmd :=
  let c1 := { c with done := c.done + n }
  match c.barrier with
  | some k => (barrierRead bench k s).andThen fun o s1 => .ok c1 (s1.setBarrier bench k (o.land n))
  | none => .ok c1 s

/-- A command in its place in the engine. -/
def putCopy (bench : Nat) (c : CopyCmd) (s : State) : State :=
  let b := s.bench bench
  s.setBench bench { b with copies := b.copies.map fun x => if x.key == c.key then c else x }

/-- Two commands are of one merge, and as far as each other. -/
def CopyCmd.mergedWith (c x : CopyCmd) : Bool :=
  x.key != c.key && c.merge.isSome && x.merge == c.merge && x.done == c.done && !x.cancelled && x.status.isNone

/-- What the read of a merge has given goes to the destination of one of its commands; one that this faults leaves the merge, and
faults alone (R185). -/
def deliverMerged (bench dst : Nat) (out : List Byte) (s : State) (c : CopyCmd) : State :=
  match (engineStore c bench c.dst dst out s).andThen fun _ s1 => c.landed bench out.length s1 with
  | .ok c1 s1 => putCopy bench c1 s1
  | _ => putCopy bench { c with merge := none } s

/-- One unit of a copy (R339): at most 256 bytes of one row, up to the next multiple of 256 in the destination. The one read of a
merge serves all its commands. -/
def copyStep (bench : Nat) (c : CopyCmd) (s : State) : Res CopyCmd :=
  let row := c.done / c.rowOut
  let off := c.done % c.rowOut
  let dst := ((c.dstBase.toNat : Int) + row * c.dstStride).toNat + off
  let src := ((c.srcBase.toNat : Int) + row * c.srcStride).toNat
  let n := min (c.rowOut - off) (256 - dst % 256)
  let first := if c.x6 then 6 * off / 8 else off
  let past := if c.x6 then (6 * (off + n) + 7) / 8 else off + n
  (engineLoad c bench c.src (src + first) (past - first) s).andThen fun bs s1 =>
    let out := if c.x6 then expandCodes bs (6 * off - 8 * first) n else bs
    (engineStore c bench c.dst dst out s1).andThen fun _ s2 =>
      (c.landed bench n s2).andThen fun c1 s3 =>
        .ok c1 (((s3.bench bench).copies.filter c.mergedWith).foldl (deliverMerged bench dst out) s3)

/-- The offset that an index names in the target space, or the late fault of an element outside it (R342). -/
def elementAt (c : CopyCmd) (sp : LockSpace) (base : Word) (index : Nat) (s : State) : Res Nat :=
  let off := base.toNat + c.elemBytes * index
  if targetEnd sp < off + c.elemBytes then .failAt .prot (BitVec.ofNat 64 off) s else .ok off s

/-- The first element of each offset. -/
def firstOfEach (items : List (Nat × List Byte)) : List (Nat × List Byte) :=
  items.foldl (fun acc p => if acc.any fun q => q.1 == p.1 then acc else acc ++ [p]) []

/-- PLACEX writes of one chunk: where several elements have one index, a free choice says whose value is left (log 15). -/
def placeElements (c : CopyCmd) (items : List (Nat × List Byte)) (s : State) : Res Unit :=
  Res.each (firstOfEach items) s fun p s1 =>
    let same := items.filter fun q => q.1 == p.1
    if same.length ≤ 1 then engineStore c c.targetBench c.dst p.1 p.2 s1
    else engineStore c c.targetBench c.dst p.1 (same.getD (Config.freeNat s1.fresh % same.length) p).2 s1.nextFresh

/-- One chunk of at most 64 elements (R342). -/
def chunkStep (bench : Nat) (c : CopyCmd) (s : State) : Res CopyCmd :=
  let e := c.elemBytes
  let i := c.done / e
  let n := min 64 (c.elements - i)
  let put := decide (c.kind = .placex)
  (engineLoad c bench (.spad c.issuer.seat) (c.indexBase + 4 * i) (4 * n) s).andThen fun ib s1 =>
    let idx := (List.range n).map fun j => bytesToNat ((ib.drop (4 * j)).take 4)
    (Res.collect idx s1 fun k s2 =>
        elementAt c (if put then c.dst else c.src) (if put then c.dstBase else c.srcBase) k s2).andThen fun offs s2 =>
      if put then
        (engineLoad c bench c.src (c.srcBase.toNat + e * i) (e * n) s2).andThen fun bs s3 =>
          let items := (offs.zip (List.range n)).map fun p => (p.1, (bs.drop (e * p.2)).take e)
          (placeElements c items s3).andThen fun _ s4 => c.landed c.targetBench (e * n) s4
      else
        (Res.collect offs s2 fun o s3 => engineLoad c c.targetBench c.src o e s3).andThen fun bss s3 =>
          (engineStore c bench c.dst (c.dstBase.toNat + e * i) bss.flatten s3).andThen fun _ s4 =>
            c.landed bench (e * n) s4

/-- A command is one of the indexed ones. -/
def CopyCmd.indexed (c : CopyCmd) : Bool := decide (c.kind = .getx) || decide (c.kind = .placex)

/-- The next unit or chunk of a command. -/
def unitStep (bench : Nat) (c : CopyCmd) (s : State) : Res CopyCmd :=
  if c.indexed then chunkStep bench c s else copyStep bench c s

/-- How the units of a command end. -/
inductive UnitsEnd where
  | done (c : CopyCmd) (s : State)
  | fault (t : TrapInfo) (c : CopyCmd) (s : State)
  | stuck

/-- All units that are left, in order; a fault leaves the state as the units before it made it (R339). -/
def runUnits (bench : Nat) : Nat → CopyCmd → State → UnitsEnd
  | 0, _, _ => .stuck
  | n + 1, c, s =>
    if c.total ≤ c.done then .done c s
    else
      match unitStep bench c s with
      | .ok c1 s1 => runUnits bench n c1 s1
      | .trap t _ => .fault t c s
      | _ => .stuck

/-- More than the units a command has. -/
def CopyCmd.fuel (c : CopyCmd) : Nat := c.rowCount * (c.rowOut / 256 + 2) + c.elements / 64 + 2

/-! ## Completion -/

/-- A command leaves the engine. -/
def dropCopy (s : State) (bench : Nat) (c : CopyCmd) : State :=
  let b := s.bench bench
  s.setBench bench { b with copies := b.copies.filter fun x => x.key != c.key }

/-- The completion word of a command, with the range that its reader drops from L1 (R110, R181, R330). -/
def CopyCmd.completion (c : CopyCmd) (status : Nat) : QEntry :=
  let range := if c.dst = .global && c.dstSpan.2 ≠ 0 then (c.dstSpan.1.toNat, c.dstSpan.1.toNat + c.dstSpan.2 - 1) else (1, 0)
  { word := completionOf status c.tag (if decide (c.kind = .cpymm) then 0 else c.done), lo := range.1, hi := range.2
    op := some c.key, launch := c.launch, blocks := c.blocks }

/-- A command posts its completion with its status, and leaves (R181, R329, R330); its entries and its holds last until the word
is posted (R112, R155). -/
def postCopy (s : State) (bench : Nat) (c : CopyCmd) (status : Nat) : State :=
  let s1 := dropCopy s bench c
  let e := c.completion status
  if status == stDone && c.ncpl then entryPosted s1 e
  else postEntry s1 c.issuer c.launch c.task (if decide (c.kind = .cpymm) then 1 else 2) e

/-- Two commands are copies of one strand, the copy part of a CPYMM among them: they post in issue order (R183, R339). -/
def CopyCmd.sameStream (a b : CopyCmd) : Bool :=
  !a.indexed && !b.indexed && decide (a.issuer = b.issuer) && a.launch == b.launch && a.task == b.task

/-- Every command that has reached its end and has no earlier copy of its strand before it posts, in issue order. -/
def settleCopies (bench : Nat) (s : State) : State :=
  (s.bench bench).copies.foldl
    (fun s c =>
      match c.status with
      | none => s
      | some st =>
        let earlier := ((s.bench bench).copies.takeWhile fun x => x.key != c.key).any fun x => x.sameStream c
        if earlier then s else postCopy s bench c st) s

/-- A command has reached its end. -/
def endCopy (s : State) (bench : Nat) (c : CopyCmd) (status : Nat) : State :=
  let b := s.bench bench
  settleCopies bench (s.setBench bench
    { b with copies := b.copies.map fun x => if x.key == c.key then { c with status := some status } else x })

/-- The follow-on matrix command of a CPYMM is issued to the matrix unit (R340), once its queue has room. It has the entries
and the holds of its CPYMM, which last until its own completion (R112, R158). -/
def issueFollow (s : State) (bench : Nat) (c : CopyCmd) (v : VecCmd) : Option State :=
  let f := c.issuer
  let core := s.core f.core
  if 16 ≤ core.commands.length then none
  else
    let follow := { v with key := c.key, blocks := c.blocks }
    some (dropCopy (s.setCore f.core { core with commands := core.commands ++ [follow] }) bench c)

/-- A cancelled GETX or PLACEX goes on to the next 256-byte boundary (R142); the units of a copy end there anyway. -/
def reachBoundary (bench : Nat) : Nat → CopyCmd → State → CopyCmd × State
  | 0, c, s => (c, s)
  | n + 1, c, s =>
    if c.done % 256 = 0 || c.total ≤ c.done then (c, s)
    else
      match unitStep bench c s with
      | .ok c1 s1 => reachBoundary bench n c1 s1
      | _ => (c, s)

/-- A cancelled command posts CANCELLED with the bytes done, and leaves (R142, R330). -/
def cancelCopy (bench : Nat) (c : CopyCmd) (s : State) : State :=
  let r := if c.indexed then reachBoundary bench 4 c s else (c, s)
  settleCopies bench (postCopy r.2 bench r.1 stCancelled)

/-- COPY_COMPLETE and GETX_PLACEX_COMPLETE: the rest of a command's units, then its completion (R339, R342). A cancelled
command leaves wherever it stands (R142). -/
def completeCopy (bench index : Nat) (indexed : Bool) (s : State) : State :=
  match (s.bench bench).copies[index]? with
  | none => s
  | some c =>
    if c.indexed != indexed then s
    else if c.cancelled then cancelCopy bench c s
    else if c.status.isSome then s
    else
      match runUnits bench c.fuel c s with
      | .done c1 s1 =>
        match c1.follow with
        | some v => ((issueFollow s1 bench c1 v).map (settleCopies bench)).getD s
        | none => endCopy s1 bench c1 stDone
      | _ => s

def execCopyComplete (bench index : Nat) (s : State) : Out := .next (completeCopy bench index false s)
def execGetxPlacexComplete (bench index : Nat) (s : State) : Out := .next (completeCopy bench index true s)

/-- One unit of a command (a turn of the engine): a cancelled command does no more. -/
def copyUnit (bench index : Nat) (s : State) : State :=
  match (s.bench bench).copies[index]? with
  | none => s
  | some c =>
    if c.cancelled || c.status.isSome || c.total ≤ c.done then s
    else
      match unitStep bench c s with
      | .ok c1 s1 => putCopy bench c1 s1
      | _ => s

/-- ENGINE_LATE_FAULT (R329, R342): the units before the fault, one record, and the completion word. -/
def engineLateFault (bench index : Nat) (s : State) : State :=
  match (s.bench bench).copies[index]? with
  | none => s
  | some c =>
    if c.cancelled || c.status.isSome then s
    else
      match runUnits bench c.fuel c s with
      | .fault t c1 s1 =>
        let r := engineRecord s1 t true (BitVec.ofNat 64 c1.done) c.ctx c.msgId c.pc c.rank c.issuer
        endCopy r.1 bench c1 (faultStatus t)
      | _ => s

def execEngineLateFault (bench index : Nat) (s : State) : Out := .next (engineLateFault bench index s)

end Sys2Proof.Machine
end

