-- ==== Sys2Proof/Machine/Stream.lean ====
section
/-! DEFINITION. The sparse stream engine, opcodes 0xE8 to 0xED (R186 to R189, R344 to R347): sessions, merge steps, batches
and their faults. -/

namespace Sys2Proof.Machine

/-! ## Sessions -/

def State.session (s : State) (bench n : Nat) : Session := (s.bench bench).sessions.get n {}
def State.setSession (s : State) (bench n : Nat) (e : Session) : State :=
  let b := s.bench bench
  s.setBench bench { b with sessions := b.sessions.put n e }

/-- Bytes of an element (R344). -/
def Session.elemBytes (e : Session) : Nat := if e.wide then 8 else 4

/-- A session number is below 16 (R344). -/
def sessionNumber (w : Word) (s : State) : Res Nat := if w.toNat < 16 then .ok w.toNat s else .fail .illegalOperand s

/-- Bounds of a bench-memory stream, the barrier area apart (R344). -/
def streamBounds (bench : Bool) (base len e : Nat) (s : State) : Res Unit :=
  if bench && Config.barrierBase < base + e * len then .failAt .prot (BitVec.ofNat 64 base) s else .ok () s

/-- Alignment of a stream's base. -/
def streamAlign (base e : Nat) (s : State) : Res Unit :=
  if base % e = 0 then .ok () s else .failAt .align (BitVec.ofNat 64 base) s

/-- The SOURCE_FAULTED trap of a faulted session (R188, R345, R38). -/
def sessionTrap (e : Session) : TrapInfo := { cause := .sourceFaulted, detail := e.faultDetail }

/-! ## SSOPEN, the restarts and SSCLOSE (R344, R345, R347) -/

/-- A session from its descriptor, or none where a reserved bit or a MODE is wrong (R344). -/
def openedSession (bs : List Byte) (launch : Nat) : Option Session :=
  let w0 := byteWord bs 0
  let w1 := byteWord bs 1
  let w2 := byteWord bs 2
  let w3 := byteWord bs 3
  if field w0 56 8 != 0 || field w1 56 8 != 0 || field w2 60 1 != 0 || field w2 48 8 != 0 || field w3 48 16 != 0
      || 3 < field w2 56 4 then none
  else
    some
      { st := .idle, mode := field w2 56 4, wide := w2.getLsbD 61, baseA := field w0 0 56, baseB := field w1 0 56
        benchA := w2.getLsbD 63, benchB := w2.getLsbD 62, lenA := field w2 0 48, lenB := field w3 0 48, launch := launch }

/-- SSOPEN: from any state but BUSY the session is discarded and opened afresh. -/
def execSsopen (f : Slot) (s : State) : Out :=
  .next (issue f s fun t s0 =>
    (sessionNumber (xOf t f.a) s0).andThen fun n s1 =>
      (readSource t (sourceSpace { f with c := .x 0 } s1.cur.seat) (xOf t f.b) 32 s1).andThen fun bs s2 =>
        match openedSession bs t.launch with
        | none => .fail .illegalOperand s2
        | some e =>
          (streamBounds e.benchA e.baseA e.lenA e.elemBytes s2).andThen fun _ s3 =>
            (streamBounds e.benchB e.baseB e.lenB e.elemBytes s3).andThen fun _ s4 =>
              (streamAlign e.baseA e.elemBytes s4).andThen fun _ s5 =>
                (streamAlign e.baseB e.elemBytes s5).andThen fun _ s6 =>
                  if (s6.session s6.cur.bench n).st = .busy then .wait .session
                  else .ok .seq (s6.setSession s6.cur.bench n e))

/-- SSISECT, SSUNION and SSCOUNT: a restart against a new stream B. -/
def streamRestart (mode : Nat) (f : Slot) (s : State) : State :=
  issue f s fun t s0 =>
    (sessionNumber (xOf t f.a) s0).andThen fun n s1 =>
      let w := xOf t f.c
      let e := s1.session s1.cur.bench n
      let base := (xOf t f.b).toNat
      if field w 48 15 != 0 then .fail .illegalOperand s1
      else
        match e.st with
        | .closed => .fail .illegalOperand s1
        | .faulted => .trap (sessionTrap e) s1
        | .busy => .wait .session
        | _ =>
          (streamBounds (w.getLsbD 63) base (field w 0 48) e.elemBytes s1).andThen fun _ s2 =>
            (streamAlign base e.elemBytes s2).andThen fun _ s3 =>
              (storeHold t s3).andThen fun _ s4 =>
                .ok .seq (s4.setSession s4.cur.bench n
                  { e with
                    st := .idle, mode := mode, baseB := base, benchB := w.getLsbD 63, lenB := field w 0 48, pos := {}
                    committed := {} })

def execSsisect (f : Slot) (s : State) : Out := .next (streamRestart (if f.m == 1 then 2 else 0) f s)
def execSsunion (f : Slot) (s : State) : Out := .next (streamRestart 1 f s)
def execSscount (f : Slot) (s : State) : Out := .next (streamRestart 3 f s)

/-- SSCLOSE: waits while BUSY; nothing on a CLOSED session. Its issue is a release (R329). -/
def execSsclose (f : Slot) (s : State) : Out :=
  .next (issue f s fun t s0 =>
    (sessionNumber (xOf t f.a) s0).andThen fun n s1 =>
      if (s1.session s1.cur.bench n).st = .busy then .wait .session
      else
        (storeHold t s1).andThen fun _ s2 =>
          let b := s2.curBench
          .ok .seq (s2.setCurBench { b with sessions := b.sessions.drop n }))

/-! ## SSNEXT (R187, R188, R347) -/

/-- The status word of a batch (R187). -/
def statusWord (done : Bool) (count : Nat) : Word := place 63 1 1 ||| place 62 1 done.toNat ||| place 0 48 count

/-- The spans from the committed cursors to the ends of both streams, as sources. -/
def Session.spans (e : Session) : List Span :=
  let side (bench : Bool) (base len cursor : Nat) : List Span :=
    spanOf (if bench then .bench else .global) (base + e.elemBytes * cursor) (e.elemBytes * (len - cursor)) false
  side e.benchA e.baseA e.lenA e.committed.ca ++ side e.benchB e.baseB e.lenB e.committed.cb

/-- Reads of q3 trap for a FAULTED session until its record is consumed (R181); of several, the oldest comes first (log 99). -/
def Strand.faultQ3 (t : Strand) (record : Nat) (detail : Word) : Strand :=
  { t with q3Faults := t.q3Faults.filter (fun r => r.1 != record) ++ [(record, detail)] }

/-- SSNEXT by the state of its session. -/
def execSsnext (f : Slot) (s : State) : Out :=
  .next (issue f s fun t s0 =>
    (sessionNumber (xOf t f.a) s0).andThen fun n s1 =>
      let b := s1.cur.bench
      let e := s1.session b n
      match e.st with
      | .closed => .fail .illegalOperand s1
      | .busy => .wait .session
      | .done =>
        (storeHold t s1).andThen fun _ s2 =>
          .ok .seq (s2.setStrand (pushEntry t 3 { word := statusWord true e.committed.count }))
      | .faulted =>
        (storeHold t s1).andThen fun _ s2 =>
          .ok .seq (s2.setStrand (t.faultQ3 (e.faultRecord.getD 0) e.faultDetail))
      | .idle =>
        (engineBlocks t e.spans s1).andThen fun bs s2 =>
          (storeHold t s2).andThen fun _ s3 =>
            (register t (e.spans.map fun p => (b, p)) (.session n) s3).andThen fun _ s4 =>
              .ok .seq (holdBlocks (s4.setSession b n
                { e with
                  st := .busy, requester := some s4.cur, launch := t.launch, task := t.message.key, pc := t.group
                  msgId := msgIdWord t.message, rank := t.rank, posted := false, blocks := bs }) t.launch bs))

/-! ## Merge steps (R346) -/

/-- Whether the merge is done: bit 62 of R187. -/
def Session.mergeDone (e : Session) (p : StreamPos) : Bool :=
  let a := decide (e.lenA ≤ p.ca)
  let b := decide (e.lenB ≤ p.cb)
  match e.mode with
  | 1 => a && b
  | 2 => a
  | _ => a || b

/-- Which cursors a step moves, and what it emits: modes 0 intersect, 1 union, 2 difference, 3 count-only. -/
def mergeChoice (mode : Nat) (a b : Option Nat) : Bool × Bool × Option Nat :=
  match mode, a, b with
  | 1, some x, none => (true, false, some x)
  | 1, none, some y => (false, true, some y)
  | 1, some x, some y => if x < y then (true, false, some x) else if y < x then (false, true, some y) else (true, true, some x)
  | 2, some x, none => (true, false, some x)
  | 2, some x, some y => if x < y then (true, false, some x) else if y < x then (false, true, none) else (true, true, none)
  | _, some x, some y => if x < y then (true, false, none) else if y < x then (false, true, none) else (true, true, some x)
  | _, _, _ => (false, false, none)

/-- An element of a stream as it is read from memory (R347). A fault names the stream and the element (R189). -/
def readElement (w : Who) (e : Session) (second : Bool) (index : Nat) (s : State) : Res Word :=
  let base := if second then e.baseB else e.baseA
  let a := base + e.elemBytes * index
  let got : Res (List Byte) :=
    if (if second then e.benchB else e.benchA) then benchRead w.unit.bench a e.elemBytes s
    else if 2 ^ 56 ≤ a then .failAt .prot (BitVec.ofNat 64 a) s
    else if pageBlocked s a then .failAt .prot (BitVec.ofNat 64 a) s
    else (checkRights w a kEngineRead s).andThen fun _ s1 => engineRead w a e.elemBytes s1
  match got with
  | .ok bs s1 =>
    let v := BitVec.ofNat 64 (bytesToNat bs)
    .ok (if e.wide then v &&& 0x7FFFFFFFFFFFFFFF else v) s1
  | .trap t s1 => .trap { t with element := place 63 1 second.toNat ||| place 0 48 index } s1
  | .wait w => .wait w
  | .park g b s1 => .park g b s1

/-- Elements of a stream that are read and not yet decided: at least the one at the cursor, and at most 16 (R186). How many
more the engine reads ahead is a free choice (R356, log 76). -/
def readAhead (w : Who) (e : Session) (second : Bool) (p : StreamPos) (s : State) : Res (List Word) :=
  let have_ := if second then p.partB else p.partA
  let next := (if second then p.cb else p.ca) + have_.length
  let room := min (16 - have_.length) ((if second then e.lenB else e.lenA) - next)
  let need := if have_.isEmpty then min 1 room else 0
  let n := need + Config.freeNat s.fresh % (room - need + 1)
  (Res.collect (upFrom next n) s.nextFresh (readElement w e second)).andThen fun vs s1 => .ok (have_ ++ vs) s1

/-- One merge step: the position after it, and the value emitted. -/
def mergeStep (w : Who) (e : Session) (p : StreamPos) (s : State) : Res (StreamPos × Option Word) :=
  (readAhead w e false p s).andThen fun as_ s1 =>
    (readAhead w e true p s1).andThen fun bs s2 =>
      let a := as_.head?
      let b := bs.head?
      let r := mergeChoice e.mode (a.map BitVec.toNat) (b.map BitVec.toNat)
      let window := match a, b with
        | some x, some y => (p.window ++ [(x, y)]).drop (p.window.length + 1 - 16)
        | _, _ => p.window
      .ok ({ ca := p.ca + r.1.toNat, cb := p.cb + r.2.1.toNat, partA := as_.drop r.1.toNat, partB := bs.drop r.2.1.toNat
             window := window, count := (p.count + (if r.2.2.isSome then 1 else 0)) % 2 ^ 48 },
           r.2.2.map (BitVec.ofNat 64)) s2

/-- How a batch ends. -/
inductive BatchEnd where
  | ready (p : StreamPos) (words : List Word) (s : State)
  | fault (t : TrapInfo) (p : StreamPos) (s : State)
  | stuck

/-- Merge steps until fifteen words, the end of the merge, or 4,096 steps, except in count-only mode (R347). -/
def runBatch (w : Who) (e : Session) : Nat → Nat → StreamPos → List Word → State → BatchEnd
  | 0, _, p, words, s => .ready p words s
  | fuel + 1, steps, p, words, s =>
    if e.mergeDone p || words.length == 15 || (e.mode != 3 && steps == 4096) then .ready p words s
    else
      match mergeStep w e p s with
      | .ok r s1 => runBatch w e fuel (steps + 1) r.1 (if e.mode == 3 then words else words ++ r.2.toList) s1
      | .trap t s1 => .fault t p s1
      | _ => .stuck

/-- The batch of a session, from its committed copy (R187). -/
def sessionBatch (s : State) (bench n : Nat) : BatchEnd :=
  let e := s.session bench n
  match e.requester with
  | none => .stuck
  | some f =>
    let w : Who := { ctx := (s.launch e.launch).ctx, launch := e.launch, task := e.task, unit := f }
    if e.st ≠ .busy || e.posted then .stuck
    else runBatch w e (e.lenA + e.lenB + 1) 0 e.committed [] s

/-- STREAM_BATCH: the batch's words go to the requester's q3, the status word last (R187). -/
def streamBatch (bench n : Nat) (s : State) : State :=
  match sessionBatch s bench n with
  | .ready p words s1 =>
    let e := s1.session bench n
    match e.requester with
    | none => s
    | some f =>
      let s2 := s1.setSession bench n { e with pos := p, posted := true }
      let post (s : State) (q : QEntry) : State := postEntry s f e.launch e.task 3 q
      post (words.foldl (fun s v => post s { word := v }) s2)
        { word := statusWord (e.mergeDone p) p.count, session := some n }
  | _ => s

def execStreamBatch (bench session : Nat) (s : State) : Out := .next (streamBatch bench session s)

/-- STREAM_READ_FAULT (R188, R189): the session is FAULTED and rolled back; one record from the engine holds the requester's
rank; the requester's next read of q3 traps. Word 5 of a POISON record is zero (R38); that of a RANGE record has the stream layout, as
R189 says, and not the missed address of R38 and R65 (log 115). -/
def streamReadFault (bench n : Nat) (s : State) : State :=
  match sessionBatch s bench n with
  | .fault t _ s1 =>
    let e := s1.session bench n
    match e.requester with
    | none => s
    | some f =>
      let ctx := (s1.launch e.launch).ctx
      let detail := t.element ||| place 56 7 n
      let r := engineRecord s1 t false (if t.cause = .poison then 0 else detail) ctx e.msgId e.pc e.rank f
      let s2 := releaseHolds r.1 e.launch e.blocks
      let s3 := releaseLocks (s2.setSession bench n
        { e with
          st := .faulted, pos := e.committed, requester := none, posted := false, blocks := [], faultRecord := some r.2
          faultDetail := detail }) bench fun k => decide (k.op = .session n)
      let l := s3.launch e.launch
      let s4 := s3.setLaunch e.launch { l with rankHolds := { rank := e.rank, record := r.2 } :: l.rankHolds }
      match s4.strandAt f with
      | some st => s4.setStrandAt f (some (st.faultQ3 r.2 detail))
      | none => s4
  | _ => s

def execStreamReadFault (bench session : Nat) (s : State) : Out := .next (streamReadFault bench session s)

end Sys2Proof.Machine
end

