-- ==== Sys2Proof/Machine/Collective.lean ====
section
/-! DEFINITION. The collective engine (R147, R148, R297, R298): CLPOST, opcode 0x92, and the start and the finish of a step. -/

namespace Sys2Proof.Machine

/-! ## Steps and operand blocks (R147, R297) -/

/-- Word `i` of a step-table entry. -/
def Launch.stepWord (l : Launch) (step i : Nat) : Word := (l.steps.getD step []).getD i 0
def Launch.stepOp (l : Launch) (step : Nat) : Nat := field (l.stepWord step 0) 56 8
def Launch.stepBlock (l : Launch) (step : Nat) : Nat := field (l.stepWord step 3) 0 56

/-- Bytes of an element (R297). -/
def stepElem (op : Nat) : Nat :=
  match op with
  | 0x02 => 2
  | 0x03 | 0x04 => 8
  | 0x01 | 0x05 | 0x0A => 4
  | _ => 1

/-- Fields of an operand block. -/
def blockSource (ws : List Word) : Nat := field (ws.getD 0 0) 0 56
def blockDest (ws : List Word) : Nat := field (ws.getD 1 0) 0 56
def blockBytes (ws : List Word) : Nat := field (ws.getD 2 0) 0 48
def blockRoot (ws : List Word) : Nat := field (ws.getD 3 0) 16 4
def blockCount (ws : List Word) : Nat := field (ws.getD 3 0) 0 16

/-- Bytes that this package reads as its contribution. -/
def stepSourceBytes (op : Nat) (ws : List Word) : Nat :=
  match op with
  | 0x0F => 0
  | 0x09 => if blockRoot ws == 15 then blockBytes ws else 0
  | _ => blockBytes ws

/-- Bytes of the part at index 0 of a reduce-scatter, in whole elements. -/
def scatterBytes (op : Nat) (ws : List Word) : Nat :=
  blockBytes ws / stepElem op / (1 + (maskedLinks ws).length) * stepElem op

/-- Bytes that the step leaves at the destination. -/
def stepDestBytes (op : Nat) (ws : List Word) : Nat :=
  match op with
  | 0x0F => 0
  | 0x08 => blockBytes ws * (1 + (maskedLinks ws).length)
  | 0x0A => scatterBytes op ws
  | _ => blockBytes ws

/-- The ranges of a step (R112). -/
def stepSpans (op : Nat) (ws : List Word) : List Span :=
  spanOf .global (blockSource ws) (stepSourceBytes op ws) false ++ spanOf .global (blockDest ws) (stepDestBytes op ws) true

/-! ## Accesses of the engine -/

/-- A device access of the launch's context to one line: the right `need` and the access rule; a block-mapped page is PROT
(R153, R297). -/
def stepAccess {α : Type} (s : State) (ctx va : Nat) (need : Kind) (go : Who → State → Res α) : Res α :=
  let at_ := BitVec.ofNat 64 va
  if 2 ^ 56 ≤ va then .failAt .prot at_ s
  else
    match plbWalk s ctx va with
    | .leaf l =>
      if grants l.rights need && l.admitted then
        match go { ctx := ctx, launch := 2 ^ 64, task := 2 ^ 64, unit := {} } s with
        | .park _ _ s1 => .failAt .prot at_ s1
        | .trap t s1 => .trap (if pageBlocked s va then { cause := .prot, addr := some at_, regionOwner := some l.owner } else t) s1
        | r => r
      else .trap { cause := .prot, addr := some at_, regionOwner := some l.owner } s
    | r => .trap (walkTrap r va) s

def stepRead (s : State) (ctx va n : Nat) : Res (List Byte) :=
  (Res.collect (parts va n) s fun p s1 => stepAccess s1 ctx p.1 kEngineRead fun w s2 => llcRead w p.1 p.2 kEngineRead s2).andThen
    fun bss s1 => .ok bss.flatten s1

def stepWrite (s : State) (ctx va : Nat) (bs : List Byte) (need : Kind) : Res Unit :=
  Res.each (splitParts (parts va bs.length) bs) s fun p s1 =>
    stepAccess s1 ctx p.1.1 need fun w s2 => llcWrite w p.1.1 p.2 need s2

/-! ## Posting (R298) -/

/-- A q5 word: 0 ACCEPTED, 1 DUPLICATE, 2 NO_STEP. -/
def postReply (status step instance_ : Nat) : Word := place 56 8 status ||| place 32 16 step ||| place 0 32 instance_

def Launch.collective (l : Launch) (step : Nat) : Collective := l.collectives.get step {}
def State.setCollective (s : State) (launch step : Nat) (c : Collective) : State :=
  let l := s.launch launch
  s.setLaunch launch { l with collectives := l.collectives.put step c }

/-- A link is given a control flit that speaks of an instance of a step; of the instances it knows, those of acknowledged flits go. -/
def tellPeer (l : TrobinLink) (about : Nat × Nat × Nat) (payload : BitVec 448) : TrobinLink :=
  offerFlit { l with told := l.lost ++ [about] } 1 payload

/-- A control flit on each link of a list that is up: a posting count, a step open, a completion or an error status, whose payload
the spec does not lay out (R18, log 16). -/
def tellPeers (s : State) (launch step : Nat) (links : List Nat) : State :=
  let about := (launch, step, ((s.launch launch).collective step).instance_)
  links.foldl
    (fun s n =>
      if (s.link n).up then s.nextFresh.setLink n (tellPeer (s.link n) about (BitVec.ofNat 448 (Config.freeNat s.fresh))) else s) s

/-- A post taken: OPEN counts it, and tells the peers (R18), or finds it a duplicate; RUNNING keeps it waiting. -/
def takePost (launch step : Nat) (s : State) (p : Focus × (Nat × BitVec 32) × Nat) : State :=
  let c := (s.launch launch).collective step
  let answer (s : State) (status : Nat) : State :=
    postEntry s p.1 launch p.2.2 5 { word := postReply status step c.instance_ }
  if c.running then s.setCollective launch step { c with waiting := c.waiting ++ [p] }
  else if c.counted.contains p.2.1 || c.previous.contains p.2.1 then answer s 1
  else
    let counted := c.counted ++ [p.2.1]
    let s1 := tellPeers s launch step c.links
    answer (s1.setCollective launch step { c with counted := counted, running := decide (c.count ≤ counted.length) }) 0

/-- The first byte of a range that lies on a block-mapped page, of whatever launch's region (R153). -/
def blockedByte (s : State) : Nat → Nat → Nat → Option Nat
  | 0, _, _ => none
  | n + 1, lo, hi =>
    if hi < lo then none else if pageBlocked s lo then some lo else blockedByte s n (lo / 65536 * 65536 + 65536) hi

/-- The checks of a post of an existing step: its operand block, and the rights of both ranges, none block-mapped. -/
def postChecks (t : Strand) (step : Nat) (s : State) : Res (List Word) :=
  let l := s.launch t.launch
  let at_ := l.stepBlock step
  let w := curWho t s
  if at_ % 64 != 0 then .failAt .align (BitVec.ofNat 64 at_) s
  else
    (checkRights w at_ kEngineRead s).andThen fun _ s1 =>
      (engineRead w at_ 64 s1).andThen fun bs s2 =>
        let ws := (List.range 8).map (byteWord bs)
        let op := l.stepOp step
        (engineRights t .global (blockSource ws) (stepSourceBytes op ws) false s2).andThen fun _ s3 =>
          (engineRights t .global (blockDest ws) (stepDestBytes op ws) true s3).andThen fun _ s4 =>
            match (stepSpans op ws).findSome? fun p => blockedByte s4 ((p.hi - p.lo) / 65536 + 2) p.lo p.hi with
            | none => .ok ws s4
            | some a => .failAt .prot (BitVec.ofNat 64 a) s4

/-- CLPOST (R298). -/
def execClpost (f : Slot) (s : State) : Out :=
  .next (issue f s fun t s0 =>
    let a := (xOf t f.a).toNat
    if (s0.launch t.launch).stepCount ≤ a then
      (storeHold t s0).andThen fun _ s1 => .ok .seq (s1.setStrand (pushEntry t 5 { word := postReply 2 a 0 }))
    else
      (postChecks t a s0).andThen fun ws s1 =>
        (storeHold t s1).andThen fun _ s2 =>
          let c := (s2.launch t.launch).collective a
          .ok .seq (takePost t.launch a (s2.setCollective t.launch a { c with count := blockCount ws, links := maskedLinks ws })
            (s2.cur, (t.message.sender, t.message.seq), t.message.key)))

/-! ## The start of a step (R297, R298) -/

/-- The ranges of a step in the table of every bench of the launch (R112). -/
def stepWants (l : Launch) (spans : List Span) : List (Nat × Span) := l.rect.benches.flatMap fun b => spans.map fun p => (b, p)

/-- Every bench of the launch takes the ranges of a step, and no operation that waits with a range of them comes first. -/
def stepLockFree (s : State) (l : Launch) (step : Nat) (spans : List Span) : Bool :=
  tablesFree s (stepWants l spans) && !registersLater s none ((l.collective step).waitsLock.map (·.1)) (stepWants l spans)

/-- The start of a step begins to wait for the tables, in issue order among operations that wait (R112). -/
def stepWaits (s : State) (launch step : Nat) (spans : List Span) : State :=
  let l := s.launch launch
  let c := l.collective step
  if c.waitsLock.isSome then s
  else (s.setCollective launch step { c with waitsLock := some (s.ticket, stepWants l spans) }).nextTicket

/-- The ranges enter the table of every bench of the launch (R112). A step is opened by the posts of several tasks, and its
entries name none as their issuer, so that no strand's access waits for them (R113, log 90). -/
def stepLock (s : State) (launch step : Nat) (spans : List Span) : State :=
  addLocks s (stepWants (s.launch launch) spans) (.step launch step) launch (2 ^ 64)

/-- The channel of a step's data (R18). -/
def dataChannel (op : Nat) : Nat := if op == 0x08 || op == 0x09 then 3 else 0

/-- Bytes as the payloads of data flits, 56 in each, the last filled with zeros (R20, log 16). -/
def dataPayloads (bs : List Byte) : List (BitVec 448) :=
  (List.range ((bs.length + 55) / 56)).map fun i => BitVec.ofNat 448 (bytesToNat ((bs.drop (56 * i)).take 56))

/-- This package's contribution goes to every peer of a step whose link is up (R18). -/
def sendContribution (op : Nat) (bs : List Byte) (links : List Nat) (s : State) : State :=
  links.foldl
    (fun s n => s.setLink n ((dataPayloads bs).foldl (fun l p => offerFlit l (dataChannel op) p) (s.link n))) s

/-- A step that a fault ends: one record, and status 2 at its finish. -/
def failStep (s : State) (launch step : Nat) (t : TrapInfo) (ws : List Word) : State :=
  let l := s.launch launch
  let s1 := (deviceFault s l.ctx t).1
  s1.setCollective launch step
    { (s1.launch launch).collective step with started := true, waitsLock := none, failed := 2, operands := ws }

/-- COLLECTIVE_STEP_START: the block is read, the ranges are registered, the contribution is read, and the links open. A step whose
mask names a link that is down already starts as any other, and ends with status 1 (log 110). -/
def stepStart (launch step : Nat) (s : State) : State :=
  let l := s.launch launch
  let c := l.collective step
  if !c.running || c.started || l.stopped then s
  else
    match stepRead s l.ctx (l.stepBlock step) 64 with
    | .trap t s1 => failStep s1 launch step t []
    | .ok bs s1 =>
      let ws := (List.range 8).map (byteWord bs)
      let op := l.stepOp step
      let spans := stepSpans op ws
      if !stepLockFree s1 l step spans then stepWaits s launch step spans
      else
        let s2 := stepLock s1 launch step spans
        match stepRead s2 l.ctx (blockSource ws) (stepSourceBytes op ws) with
        | .trap t s3 => failStep s3 launch step t ws
        | .ok source s3 =>
          let links := maskedLinks ws
          let down := links.any fun n => !(s3.link n).up
          let c3 := (s3.launch launch).collective step
          sendContribution op source links (tellPeers (s3.setCollective launch step
            { c3 with
              started := true, waitsLock := none, failed := if down then 1 else c3.failed, operands := ws, source := source })
            launch step links)
        | _ => s
    | _ => s

def execCollectiveStepStart (launch step : Nat) (s : State) : Out := .next (stepStart launch step s)

/-! ## Results (R297) -/

/-- One combination of two elements, by the step's operation. -/
def combineElem (op x y : Nat) : Nat :=
  match op with
  | 0x02 => (fpAdd fmtBf16 {} x y).1
  | 0x03 => (fpAdd fmtF64 {} x y).1
  | 0x04 => (x + y) % 2 ^ 64
  | 0x05 => (minMaxFp fmtF32 true false x y).1
  | _ => (fpAdd fmtF32 {} x y).1

/-- Elements combined pair by pair, in an order that is a free choice (log 16). -/
def combineAll (op : Nat) : Nat → Nat → List Nat → Nat
  | 0, _, xs => xs.headD 0
  | n + 1, k, xs =>
    match xs with
    | [] => 0
    | [x] => x
    | _ =>
      let i := Config.freeNat k % xs.length
      let rest := removeAt i xs
      let j := Config.freeNat (k + 1) % rest.length
      combineAll op n (k + 2) (combineElem op (xs.getD i 0) (rest.getD j 0) :: removeAt j rest)

/-- Element `i` of a contribution. -/
def elemOf (bs : List Byte) (e i : Nat) : Nat := bytesToNat ((bs.drop (e * i)).take e)

/-- The combination of several contributions, from a number of free choices on. -/
def reduceBytes (op k : Nat) (count : Nat) (contributions : List (List Byte)) : List Byte :=
  let e := stepElem op
  (List.range count).flatMap fun i =>
    natToBytes (combineAll op contributions.length (k + 64 * i) (contributions.map fun bs => elemOf bs e i)) e

/-- The contribution of a peer. -/
def peerBytes (ps : List Contribution) (link : Nat) : List Byte :=
  match ps.find? fun p => p.link == some link with
  | some p => p.bytes
  | none => []

/-- The peers whose bytes the step needs. -/
def neededPeers (op : Nat) (ws : List Word) : List Nat :=
  match op with
  | 0x0F => []
  | 0x09 => if blockRoot ws == 15 then [] else [blockRoot ws]
  | _ => maskedLinks ws

/-- Every peer has given the bytes it contributes. -/
def contributionsReady (op : Nat) (ws : List Word) (ps : List Contribution) : Bool :=
  (neededPeers op ws).all fun n => (peerBytes ps n).length == blockBytes ws

/-- What a step leaves at its destination. -/
def stepResult (op k : Nat) (c : Collective) (ps : List Contribution) : List Byte :=
  let ws := c.operands
  let peers := (neededPeers op ws).map (peerBytes ps)
  match op with
  | 0x0F => []
  | 0x08 => c.source ++ peers.flatten
  | 0x09 => if blockRoot ws == 15 then c.source else peers.flatten
  | _ => reduceBytes op k (stepDestBytes op ws / stepElem op) (c.source :: peers)

/-- The free choices that a result takes. -/
def spendFresh (s : State) (n : Nat) : State := { s with fresh := s.fresh + n }

/-! ## The finish of a step (R148) -/

/-- The status that a step ends with: 0 done, 1 a link went down, 2 a peer failed it. -/
def stepStatus (c : Collective) (status : Nat) : Nat := if c.failed ≠ 0 then c.failed else min status 2

/-- The writes of a step, and the status it then has. -/
def stepWrites (s : State) (launch step status : Nat) (ps : List Contribution) : State × Nat :=
  let l := s.launch launch
  let c := l.collective step
  if status ≠ 0 then (s, status)
  else
    let bs := stepResult (l.stepOp step) s.fresh c ps
    let s1 := spendFresh s (64 * bs.length)
    match stepWrite s1 l.ctx (blockDest c.operands) bs kEngineWrite with
    | .ok _ s2 => (s2, 0)
    | .trap t s2 => ((deviceFault s2 l.ctx t).1, 2)
    | _ => (s1, 2)

/-- The status word. -/
def writeStatus (s : State) (launch step status : Nat) : State :=
  let l := s.launch launch
  match stepWrite s l.ctx (field (l.stepWord step 1) 0 56) (natToBytes status 8) kWrite with
  | .ok _ s1 => s1
  | .trap t s1 => (deviceFault s1 l.ctx t).1
  | _ => s

/-- The tasks that a step lists are decremented. -/
def releaseListed (s : State) (launch step : Nat) : State :=
  let l := s.launch launch
  let n := field (l.stepWord step 0) 40 16
  match deviceRead s l.ctx (field (l.stepWord step 2) 0 56) (2 * n) with
  | .ok bs s1 => decrementAll s1 launch ((List.range n).map fun i => elemOf bs 2 i)
  | .trap t s1 => (deviceFault s1 l.ctx t).1
  | _ => s

/-- The step is OPEN for its next instance, and waiting posts are taken in arrival order (R298). -/
def reopenStep (s : State) (launch step : Nat) : State :=
  let c := (s.launch launch).collective step
  let s1 := s.setCollective launch step
    { instance_ := (c.instance_ + 1) % 2 ^ 32, previous := c.counted, count := c.count, links := c.links }
  c.waiting.foldl (takePost launch step) s1

/-- COLLECTIVE_STEP_FINISH (R148); the peers are told of the completion or the error (R18). -/
def stepFinish (launch step status : Nat) (ps : List Contribution) (s : State) : State :=
  let l := s.launch launch
  let c := l.collective step
  let now := stepStatus c status
  if !c.started || l.stopped || (now == 0 && !contributionsReady (l.stepOp step) c.operands ps) then s
  else
    let r := stepWrites s launch step now ps
    let s1 := writeStatus r.1 launch step r.2
    let s2 := l.rect.benches.foldl (fun s b => releaseLocks s b fun k => decide (k.op = .step launch step))
      (tellPeers s1 launch step (maskedLinks c.operands))
    reopenStep (releaseListed s2 launch step) launch step

def execCollectiveStepFinish (launch step status : Nat) (ps : List Contribution) (s : State) : Out :=
  .next (stepFinish launch step status ps s)

end Sys2Proof.Machine
end

