-- ==== Sys2Proof/Machine/LaunchStart.lean ====
section
/-! DEFINITION. Starting a launch (R125 to R131, R150, R151): the reads and checks of the kernel header and its tables, the
reserve, the benches and the ready tasks. -/

namespace Sys2Proof.Machine

/-! ## Reads (R125) -/

/-- A read by the target context; a fault refuses the launch and writes no record. -/
def startRead (s : State) (ctx va n : Nat) : Option (List Byte × State) :=
  if n = 0 then some ([], s)
  else
    match deviceRead s ctx va n with
    | .ok bs s1 => some (bs, s1)
    | _ => none

/-- The 64-bit words of a table. -/
def startWords (s : State) (ctx va n : Nat) : Option (List Word × State) :=
  (startRead s ctx va (8 * n)).map fun r => ((List.range n).map (byteWord r.1), r.2)

/-- Table addresses of a header (R125). -/
def Launch.table (l : Launch) (i : Nat) : Nat := field (l.word i) 0 56

/-! ## Checks of the header (R125, R129) -/

/-- The header check. Counts of queues, block regions or retained regions above 16 are refused as well, which R129 does not list
(log 77). -/
def headerOk (address : Nat) (ws : List Word) : Bool :=
  let w (i : Nat) : Word := ws.getD i 0
  let at_ (i : Nat) : Nat := field (w i) 0 56
  address % 64 == 0
    && field (w 0) 32 32 == 0x4B374B48 && field (w 0) 24 8 == 1 && field (w 0) 0 23 == 0 && field (w 1) 0 23 == 0
    && field (w 4) 0 12 == 0 && w 13 == 0 && w 14 == 0 && w 15 == 0
    && at_ 2 % 8 == 0 && at_ 5 % 8 == 0 && at_ 7 % 8 == 0 && at_ 8 % 8 == 0 && at_ 12 % 8 == 0
    && decide (field (w 4) 28 8 ≤ 16) && decide (field (w 4) 20 8 ≤ 16) && decide (field (w 4) 12 8 ≤ 16)
    && decide (4096 ≤ field (w 9) 0 40)

/-- The launch that a header describes, with no table read. -/
def headerLaunch (ctx : Nat) (ws : List Word) (x y : Nat) : Launch :=
  let w1 := ws.getD 1 0
  { ctx := ctx, header := ws, ox := x, oy := y, width := field w1 27 5 + 1, height := field w1 23 4 + 1 }

/-! ## The region -/

/-- A bench is held by a child of a context. -/
def childHolds (s : State) (ctx x y : Nat) : Bool :=
  s.ctl.ctxs.any fun e => e.2.parent == ctx && (match e.2.benches with
    | some r => r.has x y
    | none => false)

/-- A bench is used by a running launch of a context. -/
def launchUses (s : State) (ctx x y : Nat) : Bool :=
  s.launches.any fun e => e.2.ctx == ctx && !e.2.stopped && e.2.rect.has x y

/-- A context may claim every bench of a rectangle, which lies in the mesh (R2, R129). -/
def regionFree (s : State) (ctx : Nat) (r : Rect) : Bool :=
  match (s.ctx ctx).bind (·.benches) with
  | none => false
  | some set => r.inMesh && r.benches.all fun b =>
      set.has (b % 32) (b / 32) && !childHolds s ctx (b % 32) (b / 32) && !launchUses s ctx (b % 32) (b / 32)
        && !s.pkg.fenced.contains b

/-! ## Ranks (R127) -/

/-- The default place of a rank. -/
def defaultPlace (l : Launch) (n : Nat) : RankEntry :=
  { st := rankValid, bx := l.ox + n / 8 % l.width, bY := l.oy + n / (8 * l.width), seat := n % 8 }

/-- The place that an entry of the rank placement table gives, or none where it breaks R127. -/
def mappedPlace (l : Launch) (e : Nat) : Option RankEntry :=
  let x := e / 2 ^ 16 % 32
  let y := e / 2 ^ 8 % 16
  let seat := e % 8
  if e != x * 2 ^ 16 + y * 2 ^ 8 + seat || l.width ≤ x || l.height ≤ y then none
  else some { st := rankValid, bx := l.ox + x, bY := l.oy + y, seat := seat }

/-- A seat is named twice. -/
def repeats {α : Type} [DecidableEq α] : List α → Bool
  | [] => false
  | a :: t => t.contains a || repeats t

/-- The rank table of a launch. -/
def startRanks (s : State) (l : Launch) : Option (Table RankEntry × State) :=
  let n := l.rankCount
  let rmap := l.table 12
  if 8 * l.width * l.height < n then none
  else if rmap = 0 then some ((List.range n).map fun r => (r, defaultPlace l r), s)
  else
    (startRead s l.ctx rmap (4 * n)).bind fun r =>
      ((List.range n).mapM fun i => mappedPlace l (bytesToNat ((r.1.drop (4 * i)).take 4))).bind fun es =>
        if repeats (es.map fun e => (e.bx, e.bY, e.seat)) then none
        else some ((List.range n).zip es, r.2)

/-! ## Queues, retained regions and block regions (R126, R150, R151) -/

def queueOf (w : Word) : QueueDecl := { reg := field w 56 8, depth := field w 48 8 + 1, offset := field w 0 22 }
/-- A queue below the barrier area of bench memory (R126, R293). -/
def queueOk (w : Word) : Bool :=
  let q := queueOf w
  decide (16 ≤ q.reg) && decide (q.reg ≤ 31) && field w 22 26 == 0 && q.offset % 8 == 0
    && decide (q.offset + 8 * q.depth ≤ Config.barrierBase)

def retainedOf (w : Word) : Retained := { benchMem := w.getLsbD 63, offset := field w 32 24, length := field w 0 24 }
def retainedOk (w : Word) : Bool :=
  let r := retainedOf w
  field w 56 7 == 0 && field w 24 8 == 0 && r.offset % 64 == 0 && r.length % 64 == 0 && r.length != 0
    && decide (r.offset + r.length ≤ (if r.benchMem then Config.barrierBase else Config.spadBytes))

/-- Two extents share a byte. -/
def extentsClash (a n b m : Nat) : Bool := decide (a < b + m) && decide (b < a + n)

/-- No declared queue overlaps another or a retained bench-memory region, and none appears twice. -/
def queuesApart : List QueueDecl → List Retained → Bool
  | [], _ => true
  | q :: rest, rs =>
    !(rest.any fun p => p.reg == q.reg || extentsClash q.offset (8 * q.depth) p.offset (8 * p.depth))
      && !(rs.any fun r => r.benchMem && extentsClash q.offset (8 * q.depth) r.offset r.length)
      && queuesApart rest rs

def regionEntry (w0 w1 : Word) : Region :=
  { thr := field w0 56 8, base := field w0 0 56, bsz := field w1 60 4, frames := field w1 44 16, pcap := field w1 28 16
    blocks := field w1 0 28 }
def Region.blockBytes (g : Region) : Nat := 2 ^ (g.bsz + 14)
def Region.bytes (g : Region) : Nat := g.blocks * g.blockBytes
def regionOk (g : Region) : Bool :=
  decide (g.bsz ≤ 6) && g.frames != 0 && g.pcap != 0 && g.blocks != 0 && g.base % 65536 == 0 && g.base % g.blockBytes == 0
    && g.bytes % 65536 == 0

/-- Regions of a launch lie apart. -/
def regionsApart : List Region → Bool
  | [] => true
  | g :: rest => !(rest.any fun h => extentsClash g.base g.bytes h.base h.bytes) && regionsApart rest

/-- The Blocks check of R151. -/
def blocksOk (s : State) (l : Launch) (gs : List Region) : Bool :=
  gs.all regionOk && regionsApart gs
    && !(s.launches.any fun e => !e.2.stopped && e.2.regions.any fun h =>
          gs.any fun g => extentsClash g.base g.bytes h.base h.bytes)
    && decide ((gs.map fun g => g.frames * g.blockBytes).sum ≤ l.width * l.height * 0x80000)

/-! ## Task descriptors (R131) -/

/-- The arms of a successor list that starts at an address; an index that is not below the number of tasks refuses the launch
(log 118). -/
def readArms (ctx tasks : Nat) : Nat → Nat → Nat → List Nat → State → Option (List (List Nat) × State)
  | 0, _, _, _, _ => none
  | fuel + 1, arms, va, cur, s =>
    if arms = 0 then some ([], s)
    else
      (startRead s ctx va 2).bind fun r =>
        let t := bytesToNat r.1
        if t = 0xFFFF then (readArms ctx tasks fuel (arms - 1) (va + 2) [] r.2).map fun q => (cur :: q.1, q.2)
        else if tasks ≤ t then none
        else readArms ctx tasks fuel arms (va + 2) (cur ++ [t]) r.2

/-- The fields of a descriptor obey R131: the PLEN, WORD alignment and unused fields of R131 are checked too, though the row
Descriptors of R129 names only others (log 77). -/
def descriptorOk (l : Launch) (d : Descriptor) : Bool :=
  let task := d.kind == 0 || d.kind == 1
  decide (d.kind ≤ 4) && field d.w0 0 16 == 0
    && (if task then d.armCount == 1 else if d.kind == 4 then decide (2 ≤ d.armCount) && decide (d.armCount ≤ 16) else d.armCount == 2)
    && (if task then decide (d.rank < l.rankCount) && decide (d.plen ≤ 8) && d.w3 == 0
        else d.handler == 0 && d.rank == 0 && d.control % 8 == 0)
    && (if d.kind == 3 then field d.w1 32 32 == 0 && decide (d.first ≤ d.last) && decide (d.last < l.taskCount)
        else task || d.w1 == 0)

/-- More than the entries of a successor list that ends below 2^56. -/
def armFuel : Nat := 2 ^ 56

/-- The descriptors of a launch, with their arms. -/
def startDescriptors (l : Launch) : List (List Word) → State → Option (List Descriptor × State)
  | [], s => some ([], s)
  | ws :: rest, s =>
    let d : Descriptor := { w0 := ws.getD 0 0, w1 := ws.getD 1 0, w2 := ws.getD 2 0, w3 := ws.getD 3 0 }
    if !descriptorOk l d then none
    else
      (readArms l.ctx l.taskCount armFuel d.armCount d.succ [] s).bind fun r =>
        (startDescriptors l rest r.2).map fun q => ({ d with arms := r.1 } :: q.1, q.2)

/-- Groups of `n` words. -/
def groupWords (n count : Nat) (ws : List Word) : List (List Word) := (List.range count).map fun i => (ws.drop (n * i)).take n

/-- A step names one of R297's operations. Nonzero bits [39:0] of its first word and a status address that is not 8-byte aligned are
ignored (R147, log 77). -/
def stepOk (ws : List Word) : Bool := [0x01, 0x02, 0x03, 0x04, 0x05, 0x08, 0x09, 0x0A, 0x0F].contains (field (ws.getD 0 0) 56 8)

/-! ## The reserve (R62, R129, R151) -/

/-- Queue entries that a launch holds. -/
def launchReserve (l : Launch) : Nat :=
  5 * (l.rankCount * l.overflowLimit + l.spillLimit) + (l.taskCount + 31) / 32
    + (l.regions.map fun g => 5 * g.pcap + (g.blocks + 3) / 4).sum

/-- A context's reserve that neither children nor launches hold. -/
def unusedReserve (s : State) (ctx : Nat) : Nat :=
  match s.ctx ctx with
  | none => 0
  | some c =>
    let children := s.ctl.ctxs.foldl (fun n e => if e.2.parent == ctx then n + e.2.qres else n) 0
    let launches := s.launches.foldl (fun n e => if e.2.ctx == ctx then n + e.2.reserve else n) 0
    c.qres - children - launches

/-! ## The start (R128) -/

/-- Numbers between two, both included. -/
def between (a b : Nat) : List Nat := upFrom (min a b) (max a b + 1 - min a b)

/-- The benches of a dimension-order route: along the row, then along the column (R128). -/
def routeBenches (a b : Nat × Nat) : List (Nat × Nat) :=
  (between a.1 b.1).map (fun x => (x, a.2)) ++ (between a.2 b.2).map fun y => (b.1, y)

/-- Step 4 at the interface of one bench: every rank entry lies in the region, every route stays in it, and every table word
passes parity. -/
def interfaceOk (s : State) (l : Launch) (bench : Nat) : Bool :=
  let r := l.rect
  !(s.bench bench).badTable && (l.ranks.all fun e => r.has e.2.bx e.2.bY)
    && r.benches.all fun b => (routeBenches (bench % 32, bench / 32) (b % 32, b / 32)).all fun p => r.has p.1 p.2

/-- The tables of a launch are read and checked. -/
def readTables (s : State) (l : Launch) : Option (Launch × State) :=
  let w4 := l.word 4
  let ctx := l.ctx
  (startWords s ctx (l.table 2) l.handlerCount).bind fun handlers =>
  (startWords handlers.2 ctx (l.table 5) (field w4 28 8)).bind fun queues =>
  (startWords queues.2 ctx (l.table 6) (2 * field w4 20 8)).bind fun blocks =>
  (startWords blocks.2 ctx (l.table 7) (field w4 12 8)).bind fun kept =>
  (startRanks kept.2 l).bind fun ranks =>
  (startWords ranks.2 ctx (l.table 3) (4 * l.taskCount)).bind fun graph =>
  (startDescriptors l (groupWords 4 l.taskCount graph.1) graph.2).bind fun ds =>
  (startWords ds.2 ctx (l.table 8) (4 * l.stepCount)).bind fun steps =>
    let regions := (groupWords 2 (field w4 20 8) blocks.1).map fun ws => regionEntry (ws.getD 0 0) (ws.getD 1 0)
    let qs := queues.1.map queueOf
    let rs := kept.1.map retainedOf
    let table := groupWords 4 l.stepCount steps.1
    if l.table 3 % 32 != 0 || l.table 6 % 16 != 0 || !queues.1.all queueOk || !kept.1.all retainedOk || !queuesApart qs rs
        || !table.all stepOk || !blocksOk s l regions then none
    else
      let l1 := { l with
        handlers := handlers.1.map fun w => w &&& 0xFFFFFFFFFFFFFF, queues := qs, retained := rs, regions := regions
        ranks := ranks.1, descriptors := ds.1, steps := table }
      some ({ l1 with reserve := launchReserve l1 }, steps.2)

/-- A bench taken by a launch: scratchpads read zero with full bits clear, queues are empty, and barrier objects are reset
(R88, R126, R293). Bench memory keeps what the last launch on it left (log 93). -/
def prepareBench (s : State) (bench : Nat) : State :=
  let b := s.bench bench
  let s1 := s.setBench bench
    { b with
      barriers := [], queues := [], sessions := [], gang := none
      poison := b.poison.filter fun q => decide (q < Config.barrierBase / 8) }
  (upFrom (bench * 8) 8).foldl
    (fun s k => s.setCore k { s.core k with spad := [], full := [], spadPoison := [], queues := [], kept := [] }) s1

/-- Tasks whose initial count is zero become ready, in index order. -/
def readyAtStart (s : State) (launch : Nat) : State :=
  let l := s.launch launch
  let zero := (List.range l.taskCount).filter fun i => match l.descriptors[i]? with
    | some d => d.deps == 0
    | none => false
  zero.foldl (fun s i => makeReady s launch i) (s.setLaunch launch { l with reached := zero })

/-- A launch of a context, checked and started: the launch identifier, or a refusal in which nothing is held. -/
def startLaunch (s : State) (target : Nat) (header origin notify : Word) (issuer : Issuer) : Option (Word × State) :=
  match s.ctx target with
  | none => none
  | some c =>
    (startWords s target header.toNat 16).bind fun h =>
      if !headerOk header.toNat h.1 then none
      else
        let l := headerLaunch target h.1 (field origin 16 5) (field origin 8 4)
        if !regionFree s target l.rect then none
        else
          (readTables h.2 l).bind fun r =>
            if unusedReserve s target < r.1.reserve || !l.rect.benches.all (interfaceOk s r.1) then none
            else
              let key := r.2.ticket
              let l1 := { r.1 with number := c.launchCount, issuer := issuer, notify := notify }
              let s1 := { r.2.nextTicket with launches := r.2.launches.put key l1 }
              let s2 := s1.setCtx target { c with st := .running, launchCount := c.launchCount + 1 }
              let s3 := l1.rect.benches.foldl prepareBench s2
              some (launchId l1, readyAtStart s3 key)

end Sys2Proof.Machine
end

