-- ==== Sys2Proof/Machine/Grants.lean ====
section
/-! DEFINITION. What the context controller grants, revokes and reports (R47 to R64, R91, R300, R301, R303): new contexts,
benches, ranges and views, reserve, tokens, VFs, the allow-list, and queries. -/

namespace Sys2Proof.Machine

/-! ## The physical map (R13) -/

def hbmTop (p : Package) : Nat := p.hbm * Config.hbmChannelBytes
def lpBase : Nat := 0x10000000000
def lpTop (p : Package) : Nat := lpBase + p.lp * Config.lpChannelBytes

/-- Every address from lo to hi is memory; the capacity of a CXL port that has gone down still counts (R15, log 79). -/
def inMemory (p : Package) (lo hi : Nat) : Bool :=
  let cxl0End := cxlBase 0 + p.cxl0
  let cxl1End := cxlBase 1 + p.cxl1
  decide (lo ≤ hi) &&
    (decide (hi < hbmTop p) || (decide (lpBase ≤ lo) && decide (hi < lpTop p))
      || (decide (cxlBase 0 ≤ lo) && decide (hi < (if cxl0End = cxlBase 1 then cxl1End else cxl0End)))
      || (decide (cxlBase 1 ≤ lo) && decide (hi < cxl1End)))

/-- A byte as the home slice would read it at a physical address. -/
def physRead (m : Memory) (pa : Nat) : Byte :=
  match m.llc.find? fun l => l.phys == pa / 256 && l.valid.getLsbD (pa % 256 / 32) with
  | some l => (lineBytes l.data (pa % 256) 1).headD 0
  | none => physByte m pa

/-- A byte that the home slice could not read there (R16, R95). -/
def physLost (s : State) (pa : Nat) : Bool :=
  match s.mem.llc.find? fun l => l.phys == pa / 256 && l.valid.getLsbD (pa % 256 / 32) with
  | some l => l.poison.getLsbD (pa % 256 / 32)
  | none => memLost s pa

/-! ## Rectangles (R52) -/

/-- A rectangle in the layout of descriptor w1, or none where it names no bench. -/
def wordRect (w : Word) : Option Rect :=
  if w.getLsbD 63 then none
  else some { x := field w 16 5, y := field w 8 4, w := field w 48 5 + 1, h := field w 40 4 + 1 }

/-- The smallest rectangle that covers two. -/
def coverRect (a b : Rect) : Rect :=
  let x := min a.x b.x
  let y := min a.y b.y
  { x := x, y := y, w := max (a.x + a.w) (b.x + b.w) - x, h := max (a.y + a.h) (b.y + b.h) - y }

/-- The rectangle with exactly these benches, if they are one; the empty set is `some none`. -/
def rectOfBenches (bs : List Nat) : Option (Option Rect) :=
  match bs with
  | [] => some none
  | b :: rest =>
    let one (b : Nat) : Rect := { x := b % 32, y := b / 32, w := 1, h := 1 }
    let r := rest.foldl (fun r b => coverRect r (one b)) (one b)
    if r.w * r.h = bs.length then some (some r) else none

/-- The bench set of a context; the device context holds the logical mesh. -/
def benchSet (s : State) (ctx : Nat) : Option Rect :=
  if ctx == Config.deviceCtx then
    (if s.pkg.columns.isEmpty then none else some { x := 0, y := 0, w := s.pkg.columns.length, h := Config.rows })
  else (s.ctx ctx).bind (·.benches)

/-- A parent may grant a bench to a child: it holds it, no other child does, and no running launch of its own uses it. -/
def mayGrantBench (s : State) (parent child b : Nat) : Bool :=
  let x := b % 32
  let y := b / 32
  (match benchSet s parent with
   | some r => r.has x y
   | none => false)
    && !(s.ctl.ctxs.any fun e => e.2.parent == parent && e.1 != child && (match e.2.benches with
        | some r => r.has x y
        | none => false))
    && !launchUses s parent x y

/-- The fault ring of a VF holds 256 entries for each of a number of benches (R36). -/
def ringHolds (s : State) (vf benches : Nat) : Bool := vf == 0 || decide (256 * benches ≤ 2 ^ (s.fn vf).fr.log2n)

/-- Benches of a context's set, counted. -/
def Ctx.benchCount (c : Ctx) : Nat := match c.benches with
  | some r => r.w * r.h
  | none => 0

/-- A grant of benches (R52). -/
def grantBenches (s : State) (parent child : Nat) (c : Ctx) (b : Word) : Option State :=
  match wordRect b with
  | none => none
  | some r =>
    let new := match c.benches with
      | some old => coverRect old r
      | none => r
    if r.inMesh && (r.benches ++ new.benches).all (mayGrantBench s parent child) && ringHolds s c.vf (new.w * new.h) then
      some (s.setCtx child { c with benches := some new })
    else none

/-! ## Range entries (R54 to R58) -/

/-- The lowest free index of a partition's table. -/
def freeEntry (s : State) (part : Nat) : Option Nat :=
  (List.range 64).find? fun i => (s.ctl.ranges.find (part * 64 + i)).isNone

/-- Physical bytes of an entry, first and last. -/
def RangeEntry.phys (e : RangeEntry) : Nat × Nat :=
  ((((e.base : Int) + e.offset) * 65536).toNat, (((e.limit : Int) + e.offset) * 65536 + 65535).toNat)

/-- An entry put in the table of its partition, unless it overlaps one of its owner's or there is no room. -/
def addEntry (s : State) (part : Nat) (e : RangeEntry) : Option State :=
  if s.ctl.ranges.any fun o => o.2.owner == e.owner && decide (o.2.base ≤ e.limit) && decide (e.base ≤ o.2.limit) then none
  else
    (freeEntry s part).map fun i => s.setCtl { s.ctl with ranges := s.ctl.ranges.put (part * 64 + i) e }

/-- A range granted by a context (R55). -/
def deriveRange (s : State) (parent child : Nat) (cb n pb : Nat) (attr : BitVec 5) (zero : Bool) : Option State :=
  let part := s.partOf child
  match s.ctl.ranges.find? fun e =>
      e.1 / 64 == part && e.2.owner == parent && decide (e.2.base ≤ pb / 65536) && decide (pb / 65536 ≤ e.2.limit) with
  | none => none
  | some e =>
    let units := min (n / 65536) (e.2.limit + 1 - pb / 65536)
    let new : RangeEntry :=
      { derived := true, src := e.1 % 64, base := cb / 65536, owner := child, limit := cb / 65536 + units - 1
        attr := attr &&& e.2.attr, offset := ((pb / 65536 : Nat) : Int) - ((cb / 65536 : Nat) : Int) + e.2.offset }
    (addEntry s part new).map fun s1 => if zero then startScrub s1 new.phys.1 new.phys.2 else s1

/-- Two grants of physical memory to different partitions may overlap only where neither carries W or A (R48). -/
def sharedBadly (s : State) (part lo hi : Nat) (attr : BitVec 5) : Bool :=
  let writes (a : BitVec 5) : Bool := a &&& 0b01010 != 0
  s.ctl.ranges.any fun e =>
    e.1 / 64 != part && !e.2.derived && decide (e.2.phys.1 ≤ hi) && decide (lo ≤ e.2.phys.2) && (writes attr || writes e.2.attr)

/-- A range granted by the device context (R55, R58). -/
def deviceRange (s : State) (child : Nat) (cb n pb : Nat) (attr : BitVec 5) : Option State :=
  let part := s.partOf child
  if !inMemory s.pkg pb (pb + n - 1) || sharedBadly s part pb (pb + n - 1) attr then none
  else
    let new : RangeEntry :=
      { derived := false, src := 0, base := cb / 65536, owner := child, limit := cb / 65536 + n / 65536 - 1, attr := attr
        offset := ((pb / 65536 : Nat) : Int) - ((cb / 65536 : Nat) : Int) }
    (addEntry s part new).map fun s1 => startScrub s1 pb (pb + n - 1)

/-! ## Views (R91) -/

/-- The bytes of a view's codes, and of its scales. -/
def View.storBytes (v : View) : Nat := v.count * (if v.f6e2 then 192 else 128)
def View.scaleBytes (v : View) : Nat := if v.f6e2 then 0 else v.count * 8

/-- The tier of a physical address: 0 HBM, 1 LPDDR6, none elsewhere. -/
def tierOf (p : Package) (lo hi : Nat) : Option Nat :=
  if decide (hi < hbmTop p) then some 0 else if decide (lpBase ≤ lo) && decide (hi < lpTop p) then some 1 else none

/-- The fields of a view are legal, and its storage and scales are memory of any tier (log 91). -/
def viewLegal (p : Package) (v : View) : Bool :=
  v.en && decide (field v.w0 60 3 ≤ 1) && decide (field v.w0 57 3 ≤ 1) && v.count != 0
    && (!v.f6e2 || v.scale == 0)
    && inMemory p v.stor (v.stor + v.storBytes - 1) && (v.f6e2 || inMemory p v.scale (v.scale + v.scaleBytes - 1))

/-- Extents of a view's storage and scales. -/
def View.sources (v : View) : List (Nat × Nat) := [(v.stor, v.storBytes), (v.scale, v.scaleBytes)]

/-- A view overlaps another view, or one's view the other's storage or scales. -/
def viewsClash (a b : View) : Bool :=
  extentsClash a.base a.bytes b.base b.bytes || a.sources.any (fun e => extentsClash b.base b.bytes e.1 e.2)
    || b.sources.any (fun e => extentsClash a.base a.bytes e.1 e.2)

/-- A view made from four register words at a physical address; bits of no field are ignored (R5), and words that cannot be read
refuse the grant (log 87). -/
def makeView (s : State) (pa : Nat) : Option State :=
  let w (i : Nat) : Word := BitVec.ofNat 64 (bytesToNat ((upFrom (pa + 8 * i) 8).map (physRead s.mem)))
  let v : View := {
    w0 := w 0 &&& ~~~ place 40 17 0x1FFFF, w1 := place 8 40 (field (w 1) 8 40), w2 := place 6 42 (field (w 2) 6 42)
    w3 := place 16 32 (field (w 3) 16 32) }
  if !inMemory s.pkg pa (pa + 31) || (upFrom pa 32).any (physLost s) || !viewLegal s.pkg v || v.sources.any (fun e => extentsClash v.base v.bytes e.1 e.2)
      || s.mem.views.any fun e => e.2.en && viewsClash v e.2 then none
  else
    match tierOf s.pkg v.base (v.base + v.bytes - 1) with
    | none => none
    | some t =>
      ((List.range 16).find? fun i => !(s.mem.views.get (t * 16 + i) { w0 := 0, w1 := 0, w2 := 0, w3 := 0 }).en).map fun i =>
        s.setMem { s.mem with views := s.mem.views.put (t * 16 + i) v }

/-- A grant of a range (R55, R301). A parent address that is no multiple of 64 KiB, and a child range past 2^56, refuse it
(log 102). -/
def grantRange (s : State) (parent child : Nat) (zero : Bool) (ops : List Word) : Option State :=
  let op (i : Nat) : Nat := (ops.getD i 0).toNat
  let cb := op 1
  let n := op 2
  let pb := op 3
  let attr : BitVec 5 := (ops.getD 4 0).setWidth 5
  let dec := (ops.getD 4 0).getLsbD 8
  if n = 0 || n % 65536 != 0 || cb % 65536 != 0 || pb % 65536 != 0 || 2 ^ 56 < cb + n then none
  else if parent == Config.deviceCtx then
    (if dec then makeView s (op 5) else some s).bind fun s1 => deviceRange s1 child cb n pb attr
  else if dec then none
  else deriveRange s parent child cb n pb attr zero

/-! ## Reserve, tokens, VFs, allow-list (R60 to R64) -/

/-- A grant of queue reserve. -/
def grantReserve (s : State) (parent child : Nat) (c : Ctx) (n : Nat) : Option State :=
  if 2 ^ 24 ≤ c.qres + n || (parent != Config.deviceCtx && decide (unusedReserve s parent < n)) then none
  else some (s.setCtx child { c with qres := c.qres + n })

/-- Tokens that a parent has not carved: issue, then bandwidth. The device context does not carve issue tokens (R60). -/
def uncarved (s : State) (parent : Nat) (c : Ctx) : Nat × Nat :=
  if parent == Config.deviceCtx then (1024 - c.issue, 4096 - s.ctl.bwCh)
  else (heldTokens s false parent, heldTokens s true parent)

/-- A parent's carved tokens changed. -/
def carve (s : State) (parent : Nat) (issue bw : Int) : State :=
  let move (n : Nat) (d : Int) : Nat := ((n : Int) + d).toNat
  if parent == Config.deviceCtx then s.setCtl { s.ctl with bwCh := move s.ctl.bwCh bw }
  else
    match s.ctx parent with
    | some p => s.setCtx parent { p with issueCh := move p.issueCh issue, bwCh := move p.bwCh bw }
    | none => s

/-- A grant of tokens. -/
def grantTokens (s : State) (parent child : Nat) (c : Ctx) (issue bw : Nat) : Option State :=
  let free := uncarved s parent c
  if free.1 < issue || free.2 < bw || 1024 < c.issue + issue || 4096 < c.bw + bw then none
  else some (carve (s.setCtx child { c with issue := c.issue + issue, bw := c.bw + bw }) parent issue bw)

/-- What a revocation of tokens has still to take in the present period (R59). -/
def owe (s : State) (port : Bool) (ctx : Nat) (amount : Int) : State :=
  (s.pkg.columns.length |> List.range).foldl
    (fun s x => (List.range Config.rows).foldl
      (fun s y =>
        let unit := 32 * y + x
        let e := s.spending port unit ctx
        s.setSpending port unit ctx { e with late := e.late + amount }) s) s

/-- A revocation of tokens: the descriptors change now, and each bench and port at its next period. -/
def revokeTokens (s : State) (parent child : Nat) (c : Ctx) (issue bw : Nat) : Option State :=
  if heldTokens s false child < issue || heldTokens s true child < bw then none
  else
    let s1 := carve (s.setCtx child { c with issue := c.issue - issue, bw := c.bw - bw }) parent (-(issue : Int)) (-(bw : Int))
    let s2 := owe (owe s1 false child issue) true child bw
    some (if parent == Config.deviceCtx then s2 else owe (owe s2 false parent (-(issue : Int))) true parent (-(bw : Int)))

/-- Spare VFs of a context; the device context's are the unassigned list. -/
def spareVfs (s : State) (ctx : Nat) : List Nat :=
  if ctx == Config.deviceCtx then s.ctl.vfFree
  else match s.ctx ctx with
    | some c => c.spares
    | none => []

def setSpares (s : State) (ctx : Nat) (vs : List Nat) : State :=
  if ctx == Config.deviceCtx then s.setCtl { s.ctl with vfFree := vs }
  else match s.ctx ctx with
    | some c => s.setCtx ctx { c with spares := vs }
    | none => s

/-- A VF bound to a context, or to none. -/
def bindVf (s : State) (vf ctx : Nat) : State := s.setFn vf { s.fn vf with ctx := ctx }

/-- A grant of a spare VF (R63). -/
def grantVf (s : State) (parent child : Nat) (c : Ctx) (vf : Nat) : Option State :=
  if !(spareVfs s parent).contains vf || (c.vf == 0 && (s.fn vf).fr.en && !ringHolds s vf c.benchCount) then none
  else
    let s1 := setSpares s parent ((spareVfs s parent).filter (· != vf))
    if c.vf == 0 then some (bindVf (s1.setCtx child { c with vf := vf }) vf child)
    else some (s1.setCtx child { c with spares := addRising vf c.spares })

/-- A revocation of a VF (R59). -/
def revokeVf (s : State) (parent child : Nat) (c : Ctx) (vf : Nat) : Option State :=
  let back (s : State) : State := setSpares s parent (addRising vf (spareVfs s parent))
  if vf != 0 && c.vf == vf then some (back (bindVf (s.setCtx child { c with vf := 0 }) vf Config.deviceCtx))
  else if c.spares.contains vf then some (back (s.setCtx child { c with spares := c.spares.filter (· != vf) }))
  else none

/-- A grant to the allow-list (R64): a subset of the parent's. That the device context's own holds every event is the model's
choice (log 84). -/
def grantAllow (s : State) (parent child : Nat) (c : Ctx) (mask : Word) : Option State :=
  let own : Word := if parent == Config.deviceCtx then BitVec.allOnes 64 else match s.ctx parent with
    | some p => p.allow
    | none => 0
  if mask &&& ~~~ own != 0 then none else some (s.setCtx child { c with allow := c.allow ||| mask })

/-- A revocation from the allow-list clears bits in the whole subtree (R59). -/
def revokeAllow (s : State) (child : Nat) (bits : Word) : State :=
  (s.subtree child).foldl
    (fun s k => match s.ctx k with
      | some c => s.setCtx k { c with allow := c.allow &&& ~~~ bits }
      | none => s) s

/-- The kind of operand A, or none where it breaks R301. -/
def grantKind (a : Word) : Option (Nat × Bool) :=
  let kind := field a 0 4
  let zero := a.getLsbD 8
  if field a 9 55 != 0 || field a 4 4 != 0 || 5 < kind || (zero && kind != 1) then none else some (kind, zero)

/-- CTXGRANT (R301). -/
def grant (s : State) (parent child : Nat) (c : Ctx) (ops : List Word) : Option State :=
  let b := ops.getD 1 0
  match grantKind (ops.getD 0 0) with
  | none => none
  | some (kind, zero) =>
    match kind with
    | 0 => grantBenches s parent child c b
    | 1 => grantRange s parent child zero ops
    | 2 => grantReserve s parent child c b.toNat
    | 3 => grantTokens s parent child c b.toNat (ops.getD 2 0).toNat
    | 4 => grantVf s parent child c b.toNat
    | _ => grantAllow s parent child c b

/-! ## Revoking a range (R57) -/

/-- Parent intermediate bytes from which an entry was granted. -/
def grantedFrom (s : State) (key : Nat) (e : RangeEntry) : Nat × Nat :=
  let src : Int := if e.derived then
      match s.ctl.ranges.find (key / 64 * 64 + e.src) with
      | some p => p.offset
      | none => 0
    else 0
  ((((e.base : Int) + e.offset - src) * 65536).toNat, (((e.limit : Int) + e.offset - src) * 65536 + 65535).toNat)

/-- Entries that a revocation touches, with those derived from them. -/
def touchedEntries (s : State) : Nat → List Nat → List Nat
  | 0, ks => ks
  | n + 1, ks =>
    let more := (s.ctl.ranges.filter fun e =>
      !ks.contains e.1 && e.2.derived && ks.contains (e.1 / 64 * 64 + e.2.src)).map (·.1)
    if more.isEmpty then ks else touchedEntries s n (ks ++ more)

/-- The revocation point: entries are taken out of the table. With them, what is to be dropped (R57). -/
def clearEntries (s : State) (keys : List Nat) (scrub : Bool) : State × List RangeDrop :=
  (s.setCtl { s.ctl with ranges := s.ctl.ranges.filter fun e => !keys.contains e.1 },
    (s.ctl.ranges.filter fun e => keys.contains e.1).map fun e =>
      { part := e.1 / 64, lo := e.2.phys.1, hi := e.2.phys.2, scrub := scrub, owner := e.2.owner, attr := e.2.attr })

/-- An atomic has been accepted at a line of one of the ranges. -/
def NrAtomic.meets (n : NrAtomic) (ds : List RangeDrop) : Bool :=
  ds.any fun d => decide (d.lo ≤ n.at_.phys * 256) && decide (n.at_.phys * 256 ≤ d.hi)

/-- An access that had passed its check before the revocation point cannot be performed yet: a release that still waits for what
is older (R57, R109). -/
def dropWaits (s : State) (ds : List RangeDrop) : Bool := s.mem.nr.any fun n => n.meets ds && n.waits s

/-- The atomics accepted in revoked ranges are performed, their lines written back and dropped, and a scrub begins where asked. -/
def finishDrops (s : State) (ds : List RangeDrop) : State :=
  ds.foldl
    (fun s d =>
      let s1 := dropPhysical s d.part d.lo d.hi
      if d.scrub then startScrub s1 d.lo d.hi else s1) (performAll (fun n => n.meets ds) s)

/-- Entries go with their partition. -/
def dropEntries (s : State) (keys : List Nat) (scrub : Bool) : State :=
  let r := clearEntries s keys scrub
  finishDrops r.1 r.2

/-- The entries that a revocation of a range of the parent's intermediate addresses touches (R57). -/
def rangeTouched (s : State) (child lo n : Nat) : List Nat :=
  touchedEntries s 64 ((s.ctl.ranges.filter fun e =>
    e.2.owner == child &&
      (let g := grantedFrom s e.1 e.2
       n != 0 && decide (g.1 < lo + n) && decide (lo ≤ g.2))).map (·.1))

/-- The contexts that own them. -/
def touchedOwners (s : State) (child lo n : Nat) : List Nat :=
  let keys := rangeTouched s child lo n
  ((s.ctl.ranges.filter fun e => keys.contains e.1).map (·.2.owner)).eraseDups

/-- The revocation point of a range. -/
def revokeRange (s : State) (parent child lo n : Nat) (zero : Bool) : State × List RangeDrop :=
  clearEntries s (rangeTouched s child lo n) (zero || parent == Config.deviceCtx)

/-- The bench sets of a subtree without the benches of a rectangle, or none where one is no rectangle (R59). -/
def withoutBenches (s : State) (child : Nat) (r : Rect) : Option State :=
  (s.subtree child).foldl
    (fun (o : Option State) k =>
      o.bind fun s =>
        match s.ctx k with
        | none => some s
        | some c =>
          match c.benches with
          | none => some s
          | some old =>
            (rectOfBenches (old.benches.filter fun b => !r.has (b % 32) (b / 32))).map fun left =>
              s.setCtx k { c with benches := left }) (some s)

/-- A revocation that needs no wait, of every kind but benches and ranges. -/
def revokeOther (s : State) (parent child : Nat) (c : Ctx) (kind : Nat) (b cc : Word) : Option State :=
  match kind with
  | 2 => if unusedReserve s child < b.toNat then none else some (s.setCtx child { c with qres := c.qres - b.toNat })
  | 3 => revokeTokens s parent child c b.toNat cc.toNat
  | 4 => revokeVf s parent child c b.toNat
  | _ => some (revokeAllow s child b)

/-! ## CTXNEW and PARTNEW (R47 to R49, R75, R300) -/

/-- The next identifier, and the controller after it is taken. -/
def takeId (c : Controller) : Option (Nat × Controller) :=
  if c.nextId < Config.deviceCtx then some (c.nextId, { c with nextId := c.nextId + 1 })
  else match c.freed with
    | k :: rest => some (k, { c with freed := rest })
    | [] => none

/-- The image operands are legal, apart from where the area lies. -/
def imageOk (image size : Word) : Bool := image.toNat % 4096 == 0 && size != 0 && decide (size.toNat < 2 ^ 24)

/-- A new context. -/
def addCtx (s : State) (parent depth part : Nat) (ops : List Word) (vf : Nat) : Option (Nat × State) :=
  if 4094 < s.ctl.ctxs.length then none
  else
    (takeId s.ctl).map fun r =>
      let c : Ctx :=
        { parent := parent, depth := depth, part := part, claim := (ops.getD 0 0).setWidth 8, image := ops.getD 1 0
          imageSize := (ops.getD 2 0).toNat, vf := vf }
      (r.1, (s.setCtl r.2).setCtx r.1 c)

/-- CTXNEW: IMAGE lies in a region that the issuer owns. -/
def newCtx (s : State) (issuer : Nat) (ops : List Word) : Option (Nat × State) :=
  match s.ctx issuer with
  | none => none
  | some p =>
    let image := ops.getD 1 0
    let owned := decide (image.toNat < 2 ^ 56) && (match sliceWalk s image.toNat with
      | .leaf l => l.owner == issuer
      | _ => false)
    if 7 ≤ p.depth || !imageOk image (ops.getD 2 0) || !owned then none else addCtx s issuer (p.depth + 1) p.part ops 0

/-- Partition numbers in use. -/
def partsUsed (s : State) : List Nat := (s.ctl.ctxs.filter fun e => e.2.parent == Config.deviceCtx).map (·.2.part)

/-- The L3 entries of a partition (R75). -/
def rootEntries (m : Memory) (part root : Nat) : Memory :=
  { m with
    l3 := (List.range 32).foldl
      (fun t j => t.put (32 * part + j) (place 63 1 1 ||| place 57 5 31 ||| place 39 12 root ||| place 0 35 j)) m.l3 }

def clearRootEntries (m : Memory) (part : Nat) : Memory :=
  { m with l3 := (List.range 32).foldl (fun t j => t.drop (32 * part + j)) m.l3 }

/-- A revocation of a range has passed its revocation point and is not complete: the controller performs it to its end before any
other operation (R51, R57). -/
def revoking (s : State) : Bool := s.ctl.ops.any fun o => !o.drops.isEmpty

/-- PARTNEW: the identifier and the VF of the new root. -/
def newPartition (s : State) (ops : List Word) : Option (Nat × Nat × State) :=
  let image := ops.getD 1 0
  let size := ops.getD 2 0
  let wanted := (ops.getD 3 0).toNat
  let vf := if wanted = 0 then s.ctl.vfFree.head? else if s.ctl.vfFree.contains wanted then some wanted else none
  let part := (List.range 32).find? fun p => !(partsUsed s).contains p
  if !imageOk image size || !inMemory s.pkg image.toNat (image.toNat + 4096 * size.toNat - 1) then none
  else
    match vf, part with
    | some v, some p =>
      (addCtx s Config.deviceCtx 0 p ops v).map fun r =>
        let s1 := r.2.setCtl { r.2.ctl with vfFree := r.2.ctl.vfFree.filter (· != v), desk := r.2.ctl.desk.drop p }
        (r.1, v, pageChanged ((bindVf s1 v r.1).setMem (rootEntries s1.mem p r.1)))
    | _, _ => none

/-! ## CTXQUERY (R49, R54, R303) -/

/-- The largest debt of a context over all units (R49). -/
def largestDebt (s : State) (port : Bool) (ctx : Nat) : Nat :=
  let units := (s.ctl.loans.filter fun l => l.port == port && l.borrower == ctx).map (·.unit)
  units.foldl (fun n u => max n (debtOn s port u ctx)) 0

/-- State codes (R50). -/
def ctxStateCode : CtxState → Nat
  | .idle => 0 | .running => 1 | .stopping => 2 | .stopped => 3 | .resuming => 4 | .killing => 5

/-- Range entries that a context owns. -/
def ownedEntries (s : State) (ctx : Nat) : Nat := (s.ctl.ranges.filter fun e => e.2.owner == ctx).length

/-- A descriptor word (R49). -/
def descriptorWord (s : State) (k : Nat) (c : Ctx) (n : Nat) : Word :=
  match n with
  | 0 => place 52 12 k ||| place 40 12 c.parent ||| place 37 3 c.depth ||| place 32 5 c.part ||| place 28 4 (ctxStateCode c.st)
      ||| place 20 8 c.claim.toNat ||| place 13 7 (ownedEntries s k)
  | 1 => match c.benches with
    | some r => rectWord r
    | none => place 63 1 1
  | 2 => place 32 11 c.issue ||| place 0 13 c.bw
  | 3 => place 32 11 c.issueCh ||| place 0 13 c.bwCh
  | 4 => place 32 11 (largestDebt s false k) ||| place 0 13 (largestDebt s true k)
  | 5 => c.image
  | 6 => place 40 24 c.imageSize ||| place 16 24 c.qres ||| place 8 8 c.vf ||| place 0 8 c.spares.length
  | _ => c.allow

/-- The words of a range entry (R54). -/
def entryWord (e : RangeEntry) (w : Nat) : Word :=
  match w with
  | 0 => place 63 1 1 ||| place 62 1 e.derived.toNat ||| place 56 6 e.src ||| place 16 40 e.base ||| place 4 12 e.owner
  | 1 => place 16 40 e.limit ||| place 0 5 e.attr.toNat
  | _ => BitVec.ofInt 64 (e.offset * 65536)

/-- CTXQUERY (R303). -/
def queryWord (s : State) (k : Nat) (c : Ctx) (sel : Nat) : Word :=
  if sel < 8 then descriptorWord s k c sel
  else if 0x100 ≤ sel && sel < 0x100 + 192 then
    match s.ctl.ranges.find (c.part * 64 + (sel - 0x100) / 3) with
    | some e => if e.owner == k || s.isAncestor k e.owner then entryWord e ((sel - 0x100) % 3) else 0
    | none => 0
  else 0

end Sys2Proof.Machine
end

