-- ==== Sys2Proof/Machine/Images.lean ====
section
/-! DEFINITION. Stopping and resuming launches, and images (R67 to R70, R146, R165): what leaves the benches, what an image
holds, where it is written, and how a launch comes back. -/

namespace Sys2Proof.Machine

/-! ## Suspending a launch -/

/-- Bytes of a retained region as a sparse memory. -/
def keptCells (m : List Host.Cell) (r : Retained) : List Host.Cell :=
  m.filter fun e => decide (r.offset ≤ e.1) && decide (e.1 < r.offset + r.length)

/-- What an image keeps of a bench (R69). -/
def saveBench (s : State) (launch : Nat) (l : Launch) (bench : Nat) : SavedBench :=
  let b := s.bench bench
  let spadRs := l.retained.filter fun r => !r.benchMem
  let memRs := l.retained.filter (·.benchMem)
  let spads := (List.range 8).map fun seat => (seat, spadRs.flatMap fun r => keptCells (s.core (bench * 8 + seat)).spad r)
  let fulls := (List.range 8).map fun seat =>
    (seat, (s.core (bench * 8 + seat)).full.filter fun q => spadRs.any fun r =>
      decide (r.offset ≤ 8 * q) && decide (8 * q < r.offset + r.length))
  { launch := launch, dx := bench % 32 - l.ox, dy := bench / 32 - l.oy, barriers := b.barriers, queues := l.queues.map fun q => (q.reg, userWords b q)
    sessions := b.sessions.filter fun e => decide (e.2.st ≠ .closed), mem := memRs.flatMap fun r => keptCells b.mem r
    spads := spads, fulls := fulls }

/-- Messages held at an interface go back on their way, in front of those in flight. -/
def unholdMessages (s : State) (launch : Nat) (benches : List Nat) : State :=
  benches.foldl
    (fun s b =>
      let x := s.bench b
      let mine := x.held.filter fun h => h.launch == launch
      { s.setBench b { x with held := x.held.filter fun h => h.launch != launch } with
        flights := mine.map (fun h => { launch := launch, source := some b, message := h.message }) ++ s.flights }) s

/-- Carried holds of a launch that name a block (R158, R165). -/
def Launch.carried (l : Launch) (key : Nat) : Nat :=
  let ms := l.blocks.flatMap (fun b => b.2.queue ++ b.2.snapshot) ++ l.mailboxes.flatMap (·.2) ++ l.overflow.flatMap (·.2)
    ++ l.deviceHeld ++ l.readyTasks
  ((ms.flatMap (·.holds)).filter fun h => blockKey h.region h.block == key).length

/-- A block of a stopped launch (R165): nothing is resident, and no queue is held out. -/
def stoppedBlock (l : Launch) (key : Nat) (b : Block) : Block :=
  { b with
    st := if b.queue.isEmpty then .absent else .waiting, heldOut := none, waitsFor := none, snap := 0, leaving := false
    hold := l.carried key }

/-- A launch leaves its benches (R67, R146, R165): released messages belong to no snapshot any more, and the park slots of those
that were held free (R157). Tasks whose payload read had faulted are read again after a resume, whether or not the record has been consumed (log 83). -/
def suspendLaunch (s : State) (launch : Nat) : State :=
  let s1 := evictAll s launch
  let l := s1.launch launch
  let benches := l.rect.benches
  let saved := benches.map fun b => saveBench s1 launch l b
  let s2 := unholdMessages (s1.setCtl { s1.ctl with saved := s1.ctl.saved ++ saved }) launch benches
  let s3 := benches.foldl
    (fun s b =>
      let s1 := releaseLocks s b fun k => k.launch == launch
      let x := s1.bench b
      releaseBench (s1.setBench b { x with capsules := x.capsules - capsuleBodies l b, barriers := [] }) b) s2
  let l3 := s3.launch launch
  let released (m : Message) : Message := { m with snapshot := none }
  let freed := l3.deviceHeld.filterMap fun m => m.snapshot.map (·.1)
  freed.foldl (fun s g => undefer s launch g) (s3.setLaunch launch
    { l3 with
      stopped := true, rankHolds := [], unread := l3.unread.map fun u => { u with record := none }
      mailboxes := l3.mailboxes.mapAll fun _ ms => ms.map released
      overflow := l3.overflow.mapAll fun _ ms => ms.map released, deviceHeld := l3.deviceHeld.map released
      blocks := l3.blocks.mapAll (stoppedBlock l3) })

/-! ## Resuming a launch (R70) -/

/-- A saved bench comes back. -/
def restoreBench (s : State) (l : Launch) (x : SavedBench) : State :=
  let bench := 32 * (l.oy + x.dy) + (l.ox + x.dx)
  let b := s.bench bench
  let put (m : List Host.Cell) (cs : List Host.Cell) : List Host.Cell := cs.foldl (fun m e => cellWrite m e.1 e.2) m
  let cleared := (l.retained.filter (·.benchMem)).foldl (fun m r => m.filter fun e =>
    !(decide (r.offset ≤ e.1) && decide (e.1 < r.offset + r.length))) b.mem
  let b1 := l.queues.foldl (fun b q => setUserWords b q (x.queues.get q.reg []))
    { b with
      barriers := x.barriers, sessions := x.sessions, mem := put cleared x.mem
      capsules := b.capsules + capsuleBodies l bench }
  let s1 := s.setBench bench b1
  (List.range 8).foldl
    (fun s seat =>
      let k := bench * 8 + seat
      let c := s.core k
      s.setCore k { c with spad := put c.spad (x.spads.get seat []), full := x.fulls.get seat [] }) s1

/-- A gang start that a stop has kept entered its mailbox in no clock of the new bench. -/
def Message.kept (m : Message) : Message := { m with enteredClock := m.enteredClock + 2 ^ 64 }

/-- The ranks of a stopped launch, in transit while it resumes, or back in place (R198, R199). -/
def transitRanks (on : Bool) (s : State) (launch : Nat) : State :=
  let l := s.launch launch
  let from_ := if on then rankValid else rankTransit
  s.setLaunch launch
    { l with ranks := l.ranks.mapAll fun _ r =>
        if r.st == from_ then { r with st := if on then rankTransit else rankValid } else r }

/-- A launch takes its displaced region; its ranks have their new coordinates and are VALID again (R70, R199). -/
def resumeLaunch (dx dy : Int) (s0 : State) (launch : Nat) : State :=
  let s := transitRanks false s0 launch
  let l := s.launch launch
  let move (n : Nat) (d : Int) : Nat := ((n : Int) + d).toNat
  let moveBench (b : Nat) : Nat := 32 * move (b / 32) dy + move (b % 32) dx
  let l1 : Launch := { l with
    ox := move l.ox dx, oy := move l.oy dy, stopped := false
    ranks := l.ranks.mapAll fun _ r => { r with bx := move r.bx dx, bY := move r.bY dy }
    mailboxes := l.mailboxes.mapAll fun _ ms => ms.map Message.kept
    counters := l.counters.map fun e => (moveBench (e.1 / 64) * 64 + e.1 % 64, e.2) }
  let s1 := l1.rect.benches.foldl prepareBench (s.setLaunch launch l1)
  let s2 : State := (s1.ctl.saved.filter fun x => x.launch == launch).foldl (fun s x => restoreBench s l1 x) s1
  let s3 : State := { s2 with flights := s2.flights.map fun f =>
    if f.launch == launch then { f with source := f.source.map moveBench } else f }
  let s4 := s3.setCtl { s3.ctl with saved := s3.ctl.saved.filter fun x => x.launch != launch }
  let s5 := l1.collectives.foldl
    (fun s c => if c.2.started then stepLock s launch c.1 (stepSpans (l1.stepOp c.1) c.2.operands) else s) s4
  retryUnread launch (fun u => u.record.isNone) (slotFreed (unholdMessages s5 launch (s5.benches.map (·.1))) launch 0)

/-! ## Image contents (R69) -/

/-- A free number of free bytes, in whole 64-byte units: a section whose layout the spec does not give (log 11). -/
def freeBytes (k n : Nat) : List Byte := (List.range (64 * n)).map fun i => Config.freeByte (k + i)

/-- A 320-byte slot (R157). -/
def slotBytes (m : Message) : List Byte :=
  let carried := m.holds.take 4
  let payload := m.payload.take 256
  wordsToBytes
      ([if m.capsule.isSome then headerWord { m with active := false } else headerWord m,
        place 32 12 m.sender ||| place 22 4 m.expiry ||| place 0 3 carried.length]
        ++ carried.map (fun h => place 60 4 h.region ||| place 0 28 h.block) ++ List.replicate (6 - carried.length) 0)
    ++ (if m.capsule.isSome then List.replicate 256 0 else payload ++ List.replicate (256 - payload.length) 0)

/-- A mailbox section. -/
def boxSection (rank : Nat) (ms : List Message) : List Byte :=
  wordsToBytes [BitVec.ofNat 64 rank, BitVec.ofNat 64 ms.length, 0, 0, 0, 0, 0, 0] ++ ms.flatMap slotBytes

/-- Bytes padded to a multiple of 64. -/
def pad64 (bs : List Byte) : List Byte := bs ++ List.replicate ((bs.length + 63) / 64 * 64 - bs.length) 0

/-- A section before it is placed: type, launch index, item count, bytes. -/
structure ImagePart where
  type : Nat
  index : Nat
  count : Nat
  bytes : List Byte
  deriving DecidableEq, Repr

/-- Capsules and migrants of a launch that are in flight, and capsules that hold a mailbox slot, are parked or are held
(R207). -/
def travellers (s : State) (launch : Nat) : List Message :=
  let l := s.launch launch
  let stored := (List.range l.rankCount).flatMap l.boxed ++ l.blocks.flatMap fun b => b.2.snapshot ++ b.2.queue
  (stored.filter fun m => m.capsule.isSome) ++ (s.flights.filter fun f => f.launch == launch).map (·.message)

/-- The descriptor of a park queue (R165): region, block, waiters, age and hold count, in a layout that is the model's
(log 11). -/
def queueDescriptor (key : Nat) (b : Block) : List Byte :=
  wordsToBytes ([key / 2 ^ 28, key % 2 ^ 28, b.queue.length, b.age, b.hold, 0, 0, 0].map (BitVec.ofNat 64))

/-- The sequence counters of a rank (R194, R198). -/
def RankEntry.counterBytes (e : RankEntry) : List Byte := natToBytes e.strandSeq.toNat 4 ++ natToBytes e.deviceSeq.toNat 4

/-- A barrier object as it stands in bench memory (R293). -/
def Barrier.words (o : Barrier) : List Word :=
  [place 48 16 o.expect ||| place 32 16 o.arrived ||| place 1 1 o.under.toNat ||| place 0 1 o.phase.toNat, place 0 56 o.pend, 0, 0]

/-- The full bits of the words of a retained region, eight to a byte, the first word's lowest (R88, log 11). -/
def fullBits (full : List Nat) (r : Retained) : List Byte :=
  let bit (q : Nat) : Nat := (full.contains (r.offset / 8 + q) && decide (8 * q < r.length)).toNat
  (List.range ((r.length + 63) / 64)).map fun i =>
    BitVec.ofNat 8 ((List.range 8).foldl (fun n j => n + bit (8 * i + j) * 2 ^ j) 0)

/-- The sections of one launch, without the empty ones: the items of what stands on a bench are counted over all benches, as
in the image of file 21 (R69). -/
def launchParts (s : State) (index launch : Nat) : List ImagePart :=
  let l := s.launch launch
  let saved := s.ctl.saved.filter fun x => x.launch == launch
  let k := s.fresh
  let ranks := List.range l.rankCount
  let free (t count n : Nat) : ImagePart := { type := t, index := index, count := count, bytes := freeBytes (k + t * 65536) n }
  let kept (benchMem : Bool) : List Byte :=
    saved.flatMap fun x => (l.retained.filter fun r => r.benchMem == benchMem).flatMap fun r =>
      if benchMem then cellBytes x.mem r.offset r.length
      else (List.range 8).flatMap fun seat =>
        cellBytes (x.spads.get seat []) r.offset r.length ++ fullBits (x.fulls.get seat []) r
  let keptCount (benchMem : Bool) : Nat := (l.retained.filter fun r => r.benchMem == benchMem).length * saved.length
  let parked := l.blocks.filter fun b => !b.2.queue.isEmpty
  let gone := travellers s launch
  let sessions := (saved.flatMap fun x => x.sessions.map fun _ => 0).length
  let optional : List ImagePart :=
    [{ type := 4, index := index, count := parked.length
       bytes := parked.flatMap fun b => queueDescriptor b.1 b.2 ++ b.2.queue.flatMap slotBytes },
     { type := 5, index := index, count := gone.length, bytes := gone.flatMap fun m => pad64 (messageBody m) },
     { type := 6, index := index, count := 8 * keptCount false, bytes := kept false },
     { type := 7, index := index, count := keptCount true, bytes := kept true }]
  [free 1 1 (1 + l.readyTasks.length + l.collectives.length)]
    ++ ranks.map (fun r =>
      { type := 2, index := index, count := (l.boxed r).length, bytes := boxSection r (l.boxed r) })
    ++ [free 3 l.rankCount l.rankCount]
    ++ (optional.filter fun p => p.count != 0)
    ++ [{ type := 8, index := index, count := 64 * saved.length
          bytes := saved.flatMap fun x => (List.range 64).flatMap fun n => wordsToBytes (x.barriers.get n {}).words }]
    ++ (if sessions = 0 then [] else [free 9 sessions sessions])
    ++ [{ type := 10, index := index, count := l.rankCount
          bytes := (ranks.flatMap fun r =>
            let e := l.rank r
            natToBytes ({ e with bx := e.bx - l.ox, bY := e.bY - l.oy } : RankEntry).word.toNat 4)
              ++ ranks.flatMap fun r => (l.rank r).counterBytes }]
    ++ (if l.queues.isEmpty then []
        else [{ type := 12, index := index, count := l.queues.length * saved.length
                bytes := saved.flatMap fun x => l.queues.flatMap fun q => wordsToBytes (x.queues.get q.reg []) }])

/-- An image from its sections: header, directory, sections. -/
def layoutImage (w0 : Word) (launches : Nat) (parts : List ImagePart) : List Byte :=
  let start := 64 + (16 * parts.length + 63) / 64 * 64
  let placed := parts.foldl
    (fun (r : List (ImagePart × Nat) × Nat) p => (r.1 ++ [(p, r.2)], r.2 + (p.bytes.length + 63) / 64 * 64)) ([], start)
  let dir := placed.1.flatMap fun e =>
    wordsToBytes [place 56 8 e.1.type ||| place 32 16 e.1.index ||| place 0 32 e.1.count,
      place 32 32 e.2 ||| place 0 32 e.1.bytes.length]
  wordsToBytes [place 0 32 0x4B37494D ||| place 32 8 1, w0, BitVec.ofNat 64 placed.2,
      place 0 12 launches ||| place 16 12 parts.length, 0, 0, 0, 0]
    ++ pad64 dir ++ parts.flatMap fun p => pad64 p.bytes

/-- The image of a context, with those of its children nested in it (R68, R69). -/
def imageOf (s : State) : Nat → Nat → List Byte
  | 0, _ => []
  | n + 1, ctx =>
    match s.ctx ctx with
    | none => []
    | some c =>
      let launches := (s.launches.filter fun e => e.2.ctx == ctx).map (·.1)
      let own := (s.ctl.ranges.filter fun e => e.2.owner == ctx)
      let ranges : ImagePart :=
        { type := 11, index := 0, count := own.length
          bytes := own.flatMap fun e => wordsToBytes ((List.range 3).map (entryWord e.2)) }
      let children := (s.ctl.ctxs.filter fun e => e.2.parent == ctx && e.2.nested).map (·.1)
      layoutImage (descriptorWord s ctx c 0) launches.length
        ((launches.zip (List.range launches.length)).flatMap (fun e => launchParts s e.2 e.1)
          ++ (if own.isEmpty then [] else [ranges])
          ++ children.map fun k => { type := 13, index := 0, count := 1, bytes := imageOf s n k })

/-! ## Writing an image (R67) -/

/-- A page of the parent's space can be written. -/
def pageWritable (s : State) (ctx va : Nat) : Bool :=
  decide (va < 2 ^ 56) &&
    (match plbWalk s ctx va, sliceWalk s va with
     | .leaf p, .leaf l => grants p.rights kWrite && p.admitted && !l.blk && (stage2 s l.owner (l.inter + va % 65536) kWrite).isSome
     | _, _ => false)

/-- The whole image area can be written: through the parent's space, or, for a root, as memory. -/
def areaWritable (s : State) (c : Ctx) : Bool :=
  let bytes := 4096 * c.imageSize
  if c.parent == Config.deviceCtx then inMemory s.pkg c.image.toNat (c.image.toNat + bytes - 1)
  else (List.range (bytes / 65536 + 2)).all fun i =>
    let va := if i = 0 then c.image.toNat else c.image.toNat / 65536 * 65536 + 65536 * i
    decide (c.image.toNat + bytes ≤ va) || pageWritable s c.parent va

/-- Bytes written at physical addresses, where no line of the LLC is left behind. -/
def physWrite (s : State) (pa : Nat) (bs : List Byte) : State :=
  let hit (l : LlcLine) : Bool := decide (l.phys * 256 < pa + bs.length) && decide (pa ≤ l.phys * 256 + 255)
  let s1 := (s.mem.llc.filter hit).foldl dropLine s
  s1.setMem ((splitParts (parts pa bs.length) bs).foldl (fun m p => memWrite m p.1.1 p.2) s1.mem)

/-- An image in its area, or none where the area is unusable. -/
def writeImage (s : State) (ctx : Nat) : Option State :=
  match s.ctx ctx with
  | none => none
  | some c =>
    let bs := imageOf s 9 ctx
    let s0 := { s with fresh := s.fresh + 2 ^ 20 }
    if 4096 * c.imageSize < bs.length || !areaWritable s c then none
    else if c.parent == Config.deviceCtx then some (physWrite s0 c.image.toNat bs)
    else
      match stepWrite s0 c.parent c.image.toNat bs kWrite with
      | .ok _ s1 => some s1
      | _ => none

end Sys2Proof.Machine
end

