-- ==== Sys2Proof/Machine/Walker.lean ====
section
/-! DEFINITION. The format walker (R190, R191, R246, R247, R348 to R350): its queue, opcodes 0xF0 to 0xF2, its words, and the end
of a run. -/

namespace Sys2Proof.Machine

/-! ## The queue (R190, R348) -/

/-- Entries that the walker's queue holds. -/
def walkerDepth : Nat := 8

/-- An entry joins the queue, or the instruction waits. -/
def queueJob (j : WalkerJob) (s : State) : Res Unit :=
  let b := s.curBench
  if walkerDepth ≤ b.jobs.length then .wait .engineFull else .ok () (s.setCurBench { b with jobs := b.jobs ++ [j] })

/-- 32-bit words of a list of bytes. -/
def words32 (bs : List Byte) (n : Nat) : List (BitVec 32) :=
  (List.range n).map fun i => BitVec.ofNat 32 (bytesToNat ((bs.drop (4 * i)).take 4))

/-- WLOAD: the words are read at the instruction. -/
def execWload (f : Slot) (s : State) : Out :=
  .next (issue f s fun t s0 =>
    let at_ := (xOf t f.b).toNat
    let count := (xOf t f.c).toNat
    if 1024 < at_ + count then .failAt .prot (xOf t f.b) s0
    else
      (readSource t (sourceSpace { f with c := .x 0 } s0.cur.seat) (xOf t f.a) (4 * count) s0).andThen fun bs s1 =>
        (queueJob (.load s1.cur at_ (words32 bs count) t.launch t.message.key) s1).andThen fun _ s2 => .ok .seq s2)

/-- WRUN: a run with its registers, and its output as one destination to the end of the scratchpad. -/
def execWrun (f : Slot) (s : State) : Out :=
  .next (issue f s fun t s0 =>
    let out := (xOf t f.a).toNat
    let first := selNum f.b
    let seat := immField f 26 3
    if 57 < first || immField f 10 2 == 3 then .fail .illegalOperand s0
    else if Config.spadBytes ≤ out then .failAt .prot (xOf t f.a) s0
    else
      (alignTo 32 (xOf t f.a) s0).andThen fun _ s1 =>
        (storeHold t s1).andThen fun _ s2 =>
          let key := s2.ticket
          let run : WalkerRun :=
            { key := key, issuer := s2.cur, launch := t.launch, task := t.message.key, ctx := (s2.launch t.launch).ctx
              strandPc := t.group, msgId := msgIdWord t.message, rank := t.rank, seat := seat, sparsity := immField f 10 2
              elem := 2 ^ immField f 8 2, tag := immField f 0 8
              regs := (List.range 7).map fun i => (i + 1, t.x (first + i))
              pc := immField f 16 10, start := out, out := out }
          let spans := spanOf (.spad seat) out (Config.spadBytes - out) true
          (queueJob (.run run) s2.nextTicket).andThen fun _ s3 =>
            (register t (spans.map fun p => (s3.cur.bench, p)) (.command key) s3).andThen fun _ s4 => .ok .seq s4)

/-- WWAIT. -/
def execWwait (f : Slot) (s : State) : Out :=
  .next (issue f s fun t s0 => if pendingRuns s0 s0.cur t then .wait .older else .ok .seq s0)

/-- WALKER_LOAD_STORE: the load at the head of the queue is stored, while no run is in execution. -/
def walkerLoadStore (bench : Nat) (s : State) : State :=
  let b := s.bench bench
  match b.run, b.jobs with
  | none, .load _ at_ ws _ _ :: rest =>
    let store := (ws.zip (List.range ws.length)).foldl (fun (t : Table (BitVec 32)) p => t.put (at_ + p.2) p.1) b.store
    s.setBench bench { b with store := store, jobs := rest }
  | _, _ => s

def execWalkerLoadStore (s : State) : Out := .next (walkerLoadStore s.cur.bench s)

/-- WALKER_RUN_START: the run at the head of the queue begins. -/
def walkerRunStart (bench : Nat) (s : State) : State :=
  let b := s.bench bench
  match b.run, b.jobs with
  | none, .run r :: rest => s.setBench bench { b with run := some r, jobs := rest }
  | _, _ => s

def execWalkerRunStart (s : State) : Out := .next (walkerRunStart s.cur.bench s)

/-! ## Steps of a run -/

/-- How a walker instruction ends. -/
inductive WalkerRes where
  | go (r : WalkerRun) (s : State)
  /-- the run ends with a completion status (R181) -/
  | stop (status : Nat) (r : WalkerRun) (s : State)
  | fault (t : TrapInfo) (s : State)
  | wait

/-- A register; wg0 reads zero. -/
def WalkerRun.reg (r : WalkerRun) (n : Fin 16) : Word := if n = 0 then 0 else r.regs.get n.val 0
def WalkerRun.setReg (r : WalkerRun) (n : Fin 16) (v : Word) : WalkerRun :=
  if n = 0 then r else { r with regs := r.regs.put n.val v }

/-- A run ends: its completion word, with which its entry goes (R112), and the walker is free (R190). -/
def endRun (bench : Nat) (r : WalkerRun) (status : Nat) (s : State) : State :=
  let s1 := s.setBench bench { s.bench bench with run := none }
  postEntry s1 r.issuer r.launch r.task 4 (doneEntry r.launch r.key status r.tag r.tiles [])

/-- Steps that a run may take (R191). -/
def stepLimit : Nat := 2 ^ 24

/-- One instruction of the run on a bench: it counts one step; a PC of 1,024 or more ends the run (R349). -/
def walkerWord (s : State) (body : WalkerRun → State → WalkerRes) : State :=
  let b := s.cur.bench
  match (s.bench b).run with
  | none => s
  | some r =>
    if stepLimit ≤ r.steps then s
    else
      let r0 := { r with steps := r.steps + 1, pc := r.pc + 1 }
      match body r0 s with
      | .go r1 s1 => if 1024 ≤ r1.pc then endRun b r1 stWalker s1 else s1.setBench b { s1.bench b with run := some r1 }
      | .stop status r1 s1 => endRun b r1 status s1
      | .fault t s1 =>
        let q := engineRecord s1 t true 0 r.ctx r.msgId r.strandPc r.rank r.issuer
        endRun b r0 (faultStatus t) q.1
      | .wait => s

/-- A program error (R349). -/
def programError (r : WalkerRun) (s : State) : WalkerRes := .stop stWalker r s

/-- WALKER_STEP_LIMIT (R191). -/
def walkerStepLimit (s : State) : State :=
  match (s.bench s.cur.bench).run with
  | some r => if stepLimit ≤ r.steps then endRun s.cur.bench r stWalker s else s
  | none => s

def execWalkerStepLimit (s : State) : Out := .next (walkerStepLimit s)

/-! ## The words (R349) -/

/-- IMM16 sign-extended. -/
def imm16 (i : BitVec 16) : Word := i.signExtend 64

/-- Columns of the emit buffer. -/
def WalkerRun.columns (r : WalkerRun) : Nat := 4096 / (16 * r.elem)

def execWnop (s : State) : Out := .next (walkerWord s fun r s0 => .go r s0)

def execWldi (d : Fin 16) (i : BitVec 24) (s : State) : Out :=
  .next (walkerWord s fun r s0 => .go (r.setReg d (i.signExtend 64)) s0)

def execWadd (d a b : Fin 16) (i : BitVec 16) (s : State) : Out :=
  .next (walkerWord s fun r s0 => .go (r.setReg d (r.reg a + r.reg b + imm16 i)) s0)

/-- The agent of a run's accesses. -/
def WalkerRun.who (r : WalkerRun) : Who := { ctx := r.ctx, launch := r.launch, task := r.task, unit := r.issuer }

/-- WLD: a load under the issuer's context and rights; it waits for a block that is not RESIDENT. -/
def walkerLoad (r : WalkerRun) (va n : Nat) (s : State) : Res Word :=
  let w := r.who
  (Res.each (parts va n) s fun p s1 => (checkRights w p.1 kEngineRead s1).andThen fun _ s2 => .ok () s2).andThen
    fun _ s1 => (engineRead w va n s1).andThen fun bs s2 => .ok (BitVec.ofNat 64 (bytesToNat bs)) s2

def execWld (d a w : Fin 16) (i : BitVec 16) (s : State) : Out :=
  .next (walkerWord s fun r s0 =>
    if 4 ≤ w.val then programError r s0
    else
      match walkerLoad r (r.reg a + imm16 i).toNat (2 ^ w.val) s0 with
      | .ok v s1 => .go (r.setReg d v) s1
      | .trap t s1 => .fault t s1
      | _ => .wait)

def execWcmp (d a b : Fin 16) (c : BitVec 16) (s : State) : Out :=
  .next (walkerWord s fun r s0 =>
    if 10 ≤ c.toNat then programError r s0
    else .go (r.setReg d (if intCond c.toNat (r.reg a) (r.reg b) then 1 else 0)) s0)

/-- WBR: always for WA = 0. -/
def execWbr (a : Fin 16) (t : BitVec 16) (s : State) : Out :=
  .next (walkerWord s fun r s0 => .go (if a = 0 || r.reg a != 0 then { r with pc := t.toNat } else r) s0)

def execWrow (a b : Fin 16) (i : BitVec 16) (s : State) : Out :=
  .next (walkerWord s fun r s0 =>
    let row := (r.reg a).toNat
    let col := (r.reg b + imm16 i).toNat
    if 16 ≤ row || r.columns ≤ col then programError r s0 else .go { r with row := row, col := col } s0)

/-- A column moved by a signed amount, modulo 2^64. -/
def moveColumn (r : WalkerRun) (by_ : Word) : WalkerRun := { r with col := (BitVec.ofNat 64 r.col + by_).toNat }

def execWemit (a : Fin 16) (i : BitVec 16) (s : State) : Out :=
  .next (walkerWord s fun r s0 =>
    if r.columns ≤ r.col then programError r s0
    else .go (moveColumn { r with emit := r.emit.put (r.row * 4096 + r.col) (r.reg a) } (1 + imm16 i)) s0)

def execWmeta (a b : Fin 16) (s : State) : Out :=
  .next (walkerWord s fun r s0 =>
    let g := (r.reg b).toNat
    if r.sparsity = 0 || r.columns / 4 ≤ g then programError r s0
    else
      let v : BitVec 4 := BitVec.ofNat 4 (if r.sparsity = 1 then field (r.reg a) 0 4 else field (r.reg a) 0 2)
      .go { r with groups := r.groups.put (r.row * 4096 + g) v } s0)

def execWskip (a : Fin 16) (i : BitVec 16) (s : State) : Out :=
  .next (walkerWord s fun r s0 => .go (moveColumn r (r.reg a + imm16 i)) s0)

def execWend (s : State) : Out := .next (walkerWord s fun r s0 => .stop stDone r s0)

/-- An unassigned word is a program error (R238, R349). -/
def execUnassignedWalkerWord (_ : BitVec 32) (s : State) : Out := .next (walkerWord s fun r s0 => programError r s0)

/-! ## WFLUSH (R350) -/

/-- Metadata of a row and group. -/
def WalkerRun.group (r : WalkerRun) (m g : Nat) : Nat := (r.groups.get (m * 4096 + g) 0).toNat

/-- Compressed columns of a tile of `k` logical ones. -/
def WalkerRun.compressed (r : WalkerRun) (k : Nat) : Nat := k / 2 ^ r.sparsity

/-- Bytes padded to a multiple of 32. -/
def pad32 (bs : List Byte) : List Byte := bs ++ List.replicate ((bs.length + 31) / 32 * 32 - bs.length) 0

/-- The columns as link words, in the layout of R176. -/
def tileBytes (r : WalkerRun) (k : Nat) : List Byte :=
  pad32 ((List.range (r.compressed k)).flatMap fun c =>
    (List.range 16).flatMap fun m => natToBytes (r.emit.get (m * 4096 + c) 0).toNat r.elem)

/-- The metadata words of R334. -/
def tileMeta (r : WalkerRun) (k : Nat) : List Byte :=
  if r.sparsity = 0 then []
  else
    let bits := if r.sparsity = 1 then 4 else 2
    pad32 ((List.range (k / 4)).flatMap fun g =>
      natToBytes (fromLanes bits ((List.range 16).map fun m => r.group m g)) (2 * bits))

/-- A 2:4 group of the first `k` ÷ 4 that names one position twice. -/
def tileBad (r : WalkerRun) (k : Nat) : Bool :=
  r.sparsity == 1 && (List.range (k / 4)).any fun g => (List.range 16).any fun m =>
    r.group m g % 4 == r.group m g / 4

def execWflush (k : BitVec 16) (s : State) : Out :=
  .next (walkerWord s fun r s0 =>
    let n := k.toNat
    if n = 0 || r.columns < n || (r.sparsity ≠ 0 && n % 4 != 0) then programError r s0
    else if tileBad r n then .stop stMeta r s0
    else
      let bs := tileBytes r n ++ tileMeta r n
      if Config.spadBytes < r.out + bs.length then programError r s0
      else
        let core := s0.cur.bench * 8 + r.seat
        .go { r with out := r.out + bs.length, emit := [], groups := [], row := 0, col := 0, tiles := r.tiles + 1 }
          (spadWrite core r.out bs true (engineTouch r.who r.key core r.out bs.length s0)))

end Sys2Proof.Machine
end

