-- ==== Sys2Proof/Machine/Waits.lean ====
section
/-! DEFINITION. Waits that end by an event of their own (R168, R180, R268, R295): a slot that issues alone is performed at the
event; a pair is marked served and issues again at its core's next turn (log 3). -/

namespace Sys2Proof.Machine

/-- The wait of the present strand. -/
def curWait (s : State) : Option Wait := s.strand.bind (·.wait)

/-- The present strand's wait has its turn. -/
def serveWait (s : State) : State :=
  match s.strand with
  | some t => s.setStrand { t with wait := t.wait.map fun w => { w with served := true } }
  | none => s

/-- The state after an outcome, which for every meaning is a next state. -/
def outState (s : State) : Out → State
  | .next s1 => s1
  | .fault _ => s
  | .refused _ => s

/-- A clock in which a strand of a launch issued is counted, however its group ended (R306). -/
def countIssue (launch : Nat) (s : State) : State :=
  match s.issue with
  | .none | .waiting _ => s
  | _ => countEvent s launch s.cur.bench 0 1

/-- A slot that has waited is performed at the event that serves it, and counts as issued then. -/
def performServed (t : Option Strand) (s : State) (o : Out) : State := countIssue ((t.map (·.launch)).getD 0) (outState s o)

/-- What a core's waiting contexts share. -/
def coreSharers (f : Focus) : List Nat := upFrom (f.core * 8) 8

/-- LDW_SERVED (R268): the word's full bit is set, and no other LDW of the core has waited longer for it. -/
def ldwServed (s : State) : State :=
  match curWait s with
  | some { why := .ldw off, slot := slot, .. } =>
    if !s.curCore.full.contains (off / 8) || olderWaiter s s.cur (coreSharers s.cur) (.ldw off) then s
    else
      match slot with
      | some f => performServed s.strand s (execLdw f s)
      | none => serveWait s
  | _ => s

def execLdwServed (s : State) : Out := .next (ldwServed s)

/-- QUEUE_WAIT_SERVED (R180): the longest-waiting context is served. -/
def queueWaitServed (s : State) : State :=
  match s.strand with
  | none => s
  | some t =>
    match t.wait with
    | none => s
    | some w =>
      let sharers := match w.why with
        | .queueRead n | .queueWrite n => queueSharers s.cur n
        | _ => []
      if queueReady s t w.why && !olderWaiter s s.cur sharers w.why then serveWait s else s

def execQueueWaitServed (s : State) : Out := .next (queueWaitServed s)

/-- BARWAIT_RELEASE (R295): the phase has flipped or the object is complete. -/
def barwaitRelease (s : State) : State :=
  match s.strand with
  | none => s
  | some t =>
    match t.wait with
    | some { why := .barwait object, slot := some f, .. } =>
      if barwaitReady s s.cur.bench t object (some f) then performServed s.strand s (execBarwait f s) else s
    | some { why := .barwait object, .. } => if barwaitReady s s.cur.bench t object none then serveWait s else s
    | _ => s

def execBarwaitRelease (s : State) : Out := .next (barwaitRelease s)

/-- The context of the present core that has waited longest for the claim; of those that began in one clock, the lowest (R168). -/
def claimHeir (s : State) : Option Nat :=
  let waits := (List.range 8).filterMap fun h =>
    (s.strandAt { s.cur with hc := h }).bind fun t => match t.wait with
      | some { why := .claim, ticket := n, clock := c, .. } => some (h, c, n)
      | _ => none
  (waits.foldl (fun (o : Option (Nat × Word × Nat)) w =>
    match o with
    | some x => if w.2.1 != x.2.1 && decide (w.2.2 < x.2.2) then some w else o
    | none => some w) none).map (·.1)

/-- CLAIM_HANDOVER (R168, R169): a free claim passes on, and the core's vector state is cleared. -/
def claimHandover (s : State) : State :=
  match s.curCore.claim, claimHeir s with
  | none, some h =>
    let s1 := s.setCurCore (claimed s.curCore h)
    (serveWait (s1.setCur { s1.cur with hc := h })).setCur s.cur
  | _, _ => s

def execClaimHandover (s : State) : Out := .next (claimHandover s)

end Sys2Proof.Machine
end

