-- ==== Sys2Proof/Machine/Contexts.lean ====
section
/-! DEFINITION. The context controller's operations (R50, R51, R57 to R71, R299 to R303, R360): one request form for
instructions and host commands, operations that take time, and the events that complete them. -/

namespace Sys2Proof.Machine

/-- A request for a context operation: the opcode of the instruction, the target and the operands A to F. -/
structure CtxReq where
  op : Nat
  issuerCtx : Nat
  issuer : Issuer
  target : Nat
  ops : List Word
  deriving DecidableEq, Repr

/-- What a request comes to. -/
inductive CtxRes where
  | done (w : Word) (s : State)
  /-- CTX_OP, or REFUSED -/
  | refused
  /-- the target is no child of the issuer: CTX_OP, or DENIED -/
  | denied
  /-- an operation with a key is in progress -/
  | pending (key : Nat) (s : State)
  /-- the controller performs another operation to its end first (R51) -/
  | later

def CtxReq.arg (r : CtxReq) (i : Nat) : Word := r.ops.getD i 0

/-! ## Operations in progress -/

/-- An operation that takes time joins the controller's list. -/
def startOp (s : State) (r : CtxReq) (kind : CtxOpKind) (begun : Bool) : State :=
  let op : CtxOp :=
    { key := s.ticket, kind := kind, target := r.target, issuerCtx := r.issuerCtx, issuer := r.issuer, begun := begun }
  (s.setCtl { s.ctl with ops := s.ctl.ops ++ [op] }).nextTicket

/-- An operation in progress, by its key. -/
def State.op (s : State) (key : Nat) : Option CtxOp := s.ctl.ops.find? fun o => o.key == key

def setOp (s : State) (key : Nat) (f : CtxOp → CtxOp) : State :=
  s.setCtl { s.ctl with ops := s.ctl.ops.map fun o => if o.key == key then f o else o }

def dropOp (s : State) (key : Nat) : State := s.setCtl { s.ctl with ops := s.ctl.ops.filter fun o => o.key != key }

/-- The strand that waits for an operation is still there (R299). -/
def opAwaited (s : State) (launch : Nat) (unit : Focus) (key : Nat) : Bool :=
  match s.strandAt unit with
  | some t => t.launch == launch && (match t.wait with
      | some { why := .ctxOp k, .. } => k == key
      | _ => false)
  | none => false

/-- An operation is complete: a host command completes, and a strand finds the result at its next turn; none is refusal. -/
def finishOp (s : State) (key : Nat) (result : Option Word) : State :=
  match s.op key with
  | none => s
  | some o =>
    match o.issuer with
    | .host fn slot tag => completeSlot (dropOp s key) fn slot tag (if result.isSome then 0 else 1) (result.getD 0)
    | .strand launch unit =>
      if opAwaited s launch unit key then setOp s key fun o => { o with result := some result } else dropOp s key
    | .nobody => dropOp s key

/-! ## Stopping (R50, R67) -/

/-- States of a subtree when a stop begins. -/
def beginStop (s : State) (ctx : Nat) : State :=
  let s1 := (s.subtree ctx).foldl
    (fun s k =>
      match s.ctx k with
      | some c =>
        if decide (c.st = .idle) || decide (c.st = .running) then
          s.setCtx k { c with st := .stopping, nested := k != ctx }
        else s
      | none => s) s
  { s1 with benches := s1.benches.mapAll fun _ b =>
      match b.gang with
      | some g => if startsNothing s1 (s1.launch g.1).ctx then { b with gang := none } else b
      | none => b }

/-- An engine still works for a launch. -/
def launchEngineWork (s : State) (launch : Nat) : Bool :=
  let l := s.launch launch
  l.rect.benches.any fun bench =>
    let b := s.bench bench
    (b.copies.any fun c => c.launch == launch)
      || (b.jobs.any fun j => match j with
          | .run r => r.launch == launch
          | .load _ _ _ k _ => k == launch)
      || (match b.run with
          | some r => r.launch == launch
          | none => false)
      || (b.sessions.any fun e => decide (e.2.st = .busy) && e.2.launch == launch)
      || ((upFrom (bench * 8) 8).any fun k => (s.core k).inFlight.any fun c => c.launch == launch)

/-- The launches of a stopping subtree. -/
def stoppingLaunches (s : State) (ctx : Nat) : List Nat :=
  let tree := s.subtree ctx
  (s.launches.filter fun e => !e.2.stopped && tree.contains e.2.ctx).map (·.1)

/-- A message in flight that its rank or its interface can still take. -/
def flightMoves (s : State) (x : Flight) : Bool :=
  let room := match x.source with
    | some b => decide ((s.bench b).held.length < 64)
    | none => false
  room || (deliverMessage s x.launch x.message).isSome

/-- The last task of the subtree has ended, what it released has reached a mailbox or is held, and no fill or eviction is in
progress (R67, R165, R361). -/
def subtreeQuiet (s : State) (ctx : Nat) : Bool :=
  (stoppingLaunches s ctx).all fun k =>
    let l := s.launch k
    l.tasks.isEmpty && !launchEngineWork s k && !(s.flights.any fun x => x.launch == k && flightMoves s x)
      && !(s.hcs.any fun h => match h.2.strand with
          | some t => t.launch == k
          | none => false)
      && l.blocks.all fun b => !(decide (b.2.st = .filling) || decide (b.2.st = .evicting))

/-- The image of a stopped context is written, or stays on chip. -/
def settleImage (s : State) (ctx : Nat) : State × Bool :=
  match writeImage s ctx with
  | some s1 =>
    (match s1.ctx ctx with
     | some c => s1.setCtx ctx { c with onChip := false }
     | none => s1, true)
  | none =>
    (match s.ctx ctx with
     | some c => s.setCtx ctx { c with onChip := true }
     | none => s, false)

/-- Benches of a stopped child are taken (R59). -/
def takeBenches (s : State) (child : Nat) (r : Word) : Option State := (wordRect r).bind fun x => withoutBenches s child x

/-! ## Killing (R71) -/

/-- The one record of an aborted task (R71, R145); that of a capsule carries CID and CURSOR in word 5 (R38). -/
def taskRecord (cause : Cause) (fl : RecFlags) (s : State) (launch : Nat) (key : Nat) (t : Task) : State :=
  let l := s.launch launch
  let box := l.boxMessage t.rank key
  let info : TrapInfo := { cause := cause, detail := ((box.bind (·.capsule)).map capsuleWord).getD 0 }
  let recipient := recipientOf s info l.ctx
  let id := (box.map msgIdWord).getD noId
  let at_ := lowestStrand s launch key
  let pc := match at_.bind s.strandAt with
    | some st => st.group
    | none => noId
  let place4 := placementWord recipient t.rank (at_.getD { bench := t.bench, seat := t.seat, hc := 0 })
  deliverRecord s.nextTicket (fnFor s recipient) (mkRecord s s.ticket info l.ctx recipient fl id pc place4)

/-- The running tasks of a launch are aborted, each with one record. A task that has been aborted before has had its records;
the message of one that failed goes with it. -/
def killTasks (s : State) (launch : Nat) : State :=
  (s.launch launch).tasks.foldl
    (fun s e =>
      match e.2.fate with
      | .live | .halted =>
        let s1 := taskRecord .ctxOp { item := true, failed := true } s launch e.1 e.2
        let s2 := (taskStrands s1 launch e.1).foldl (fun s f => abortStrand s f false) (abortEngines s1 e.2.bench launch e.1)
        removeMessage (failLaunch s2 launch) e.2.bench launch e.2.rank e.1
      | .failed => removeMessage s e.2.bench launch e.2.rank e.1
      | _ => s) s

/-- The commands of a core that a test keeps. -/
def Core.keep (c : Core) (p : VecCmd → Bool) : Core :=
  { c with commands := c.commands.filter p, vector := c.vector.filter p, matrix := c.matrix.filter p }

/-- A core that has lost the commands of a launch: a claim that lasted only for one of them is given up (R142, R168). -/
def cleared (launch : Nat) (c : Core) : Core :=
  let c1 := c.keep fun v => v.launch != launch
  if c.matrix.any fun v => v.aborted && v.launch == launch then unclaimed c1 else c1

/-- Everything on a bench that belongs to a killed launch goes, with the entries that its GETXs and PLACEXs have at other
benches. These come to their next 256-byte boundary first (R71, R142). -/
def clearBench (s : State) (launch bench : Nat) : State :=
  let mine := (s.bench bench).copies.filter fun c => c.launch == launch
  let ended := (mine.filter (·.indexed)).foldl (fun s c => (reachBoundary bench 4 c s).2) s
  let s0 := mine.foldl (fun s c => releaseOp s c.key) ended
  let s1 := releaseLocks s0 bench fun k => k.launch == launch
  let b := s1.bench bench
  let s2 := s1.setBench bench
    { b with
      copies := b.copies.filter fun c => c.launch != launch
      jobs := b.jobs.filter fun j => match j with
        | .run r => r.launch != launch
        | .load _ _ _ k _ => k != launch
      run := match b.run with
        | some r => if r.launch == launch then none else some r
        | none => none
      capsules := b.capsules - capsuleBodies (s1.launch launch) bench }
  let s3 := (upFrom (bench * 8) 8).foldl (fun s k => s.setCore k (cleared launch (s.core k))) s2
  releaseBench s3 bench

/-- A launch of a killed context: tasks, messages, benches. The count is of the items quarantined. -/
def killLaunch (op : Nat) (s : State) (launch : Nat) : State × Nat :=
  let wasStopped := (s.launch launch).stopped
  let s1 := killTasks s launch
  let l := s1.launch launch
  let ms := launchMessages s1 launch
  let s2 := ms.foldl (fun s m => quarantine s launch { m with ctx := l.ctx } 3 (some op)) s1
  let s3 := evictAll s2 launch
  let s4 := if wasStopped then s3 else l.rect.benches.foldl (fun s b => clearBench s launch b) s3
  ({ s4 with
      flights := s4.flights.filter fun f => f.launch != launch
      benches := s4.benches.mapAll fun _ b => { b with held := b.held.filter fun h => h.launch != launch }
      launches := s4.launches.drop launch : State }.setCtl { s4.ctl with saved := s4.ctl.saved.filter fun x => x.launch != launch },
    ms.length)

/-- A context of a killed subtree: its launches, then its range entries (R71). -/
def killCtx (op : Nat) (r : State × Nat) (ctx : Nat) : State × Nat :=
  let launches := (r.1.launches.filter fun e => e.2.ctx == ctx).map (·.1)
  let r1 := launches.foldl (fun (r : State × Nat) k =>
    let q := killLaunch op r.1 k
    (q.1, r.2 + q.2)) r
  let part := r1.1.partOf ctx
  let mine := (r1.1.ctl.ranges.filter fun e => e.2.owner == ctx).map (·.1)
  let root := r1.1.parentOf ctx == Config.deviceCtx
  let s2 := if root then dropEntries r1.1 mine true
    else r1.1.setCtl { r1.1.ctl with ranges := r1.1.ctl.ranges.filter fun e => e.2.owner != ctx }
  (dropTranslations s2 part (part * 2 ^ 51) (part * 2 ^ 51 + 2 ^ 51 - 1), r1.2)

/-- A subtree, deepest contexts first. -/
def deepestFirst (s : State) (ctx : Nat) : List Nat :=
  let depth (k : Nat) : Nat := match s.ctx k with
    | some c => c.depth
    | none => 0
  let tree := s.subtree ctx
  ([7, 6, 5, 4, 3, 2, 1, 0] : List Nat).flatMap fun d => tree.filter fun k => depth k == d

/-- The unwritten items of one operation become those of another. -/
def giveItems (from_ to_ : Nat) (s : State) : State :=
  let give (q : QuarItem) : QuarItem := if q.op == some from_ then { q with op := some to_ } else q
  { s with fns := s.fns.mapAll fun _ f => { f with heldQr := f.heldQr.map give } }

/-- A kill begins: every context of the subtree is KILLING, and everything of it is reported (R71). Operations that its contexts had
asked for end refused, and the kill waits for the items that they have not written. -/
def beginKill (s : State) (key target : Nat) : State :=
  let tree := deepestFirst s target
  let s1 := tree.foldl
    (fun s k =>
      match s.ctx k with
      | some c => s.setCtx k { c with st := .killing }
      | none => s) s
  let r := tree.foldl (killCtx key) (s1, 0)
  let lost := r.1.ctl.ops.filter fun o => o.key != key && tree.contains o.issuerCtx
  setOp (lost.foldl (fun s o => finishOp (giveItems o.key key s) o.key none) r.1) key fun o =>
    { o with begun := true, items := r.2 }

/-- What a destroyed context returns to its parent (R71). -/
def returnResources (s : State) (k : Nat) : State :=
  match s.ctx k with
  | none => s
  | some c =>
    let s1 := carve s c.parent (-(c.issue : Int)) (-(c.bw : Int))
    let vfs := (if c.vf = 0 then [] else [c.vf]) ++ c.spares
    let s2 := vfs.foldl (fun s v => setSpares (bindVf s v Config.deviceCtx) c.parent (addRising v (spareVfs s c.parent))) s1
    s2.setCtl { s2.ctl with
      ctxs := s2.ctl.ctxs.drop k, freed := s2.ctl.freed ++ [k]
      loans := s2.ctl.loans.filter fun l => l.borrower != k && l.lender != k
      spending := s2.ctl.spending.filter fun e => e.1 % 4096 != k }

/-- Every item of a kill is written: the subtree is destroyed (R48, R50, R71, R75). -/
def finishKill (s : State) (o : CtxOp) : State :=
  let part := s.partOf o.target
  let root := s.parentOf o.target == Config.deviceCtx
  let tree := deepestFirst s o.target
  let s1 := tree.foldl returnResources s
  let s2 := if root then pageChanged (s1.setMem (clearRootEntries s1.mem part)) else s1
  let late := s2.ctl.ops.filter fun x => x.key != o.key && tree.contains x.target && x.items == 0
  late.foldl (fun s x => finishOp s x.key none) (finishOp s2 o.key (some (BitVec.ofNat 64 o.items)))

/-- The kill of a context in progress. -/
def killOp (s : State) (ctx : Nat) : Option CtxOp :=
  s.ctl.ops.find? fun o => o.target == ctx && o.begun && o.result.isNone && decide (o.kind = .kill)

/-- KILL_COMPLETE: no item of an operation on the context is still to be written. -/
def killComplete (ctx : Nat) (s : State) : State :=
  match killOp s ctx with
  | some o =>
    if !revoking s && s.ctl.ops.all fun x => x.target != ctx || unwrittenItems s x.key == 0 then finishKill s o else s
  | none => s

def execKillComplete (ctx : Nat) (s : State) : Out := .next (killComplete ctx s)

/-! ## Capsules of a context that loses benches or a range (R207) -/

/-- Capsules of a launch between places: in its mailboxes, overflow and park queues, held, and in the network. -/
def idleCapsules (s : State) (launch : Nat) : List Message :=
  let l := s.launch launch
  let held := (s.benches.flatMap (·.2.held)).filter fun h => h.launch == launch
  let ranks := List.range l.rankCount
  (ranks.flatMap (fun r => l.mailboxes.get r []) ++ ranks.flatMap (fun r => l.overflow.get r [])
      ++ l.blocks.flatMap (fun b => b.2.snapshot ++ b.2.queue) ++ l.deviceHeld ++ held.map (·.message)
      ++ (s.flights.filter fun f => f.launch == launch).map (·.message)).filter
    fun m => m.capsule.isSome && !m.active

/-- Capsules that leave the snapshot of a FILLING block end as its waiters (R160). -/
def fillLeft (keep : Message → Bool) (b : Block) : Block :=
  { b with
    queue := b.queue.filter keep, snapshot := b.snapshot.filter keep
    snap := b.snap - (b.snapshot.filter fun m => !keep m).length }

/-- They leave the places where they were; those that held a body or a park slot free it. -/
def takeCapsules (s : State) (launch : Nat) (ms : List Message) : State :=
  let l := s.launch launch
  let keep (m : Message) : Bool := !(ms.any fun x => x.key == m.key)
  let boxed := l.mailboxes.flatMap fun e => (e.2.filter fun m => !keep m).map fun m => ((l.rank e.1).bench, m)
  let s1 : State :=
    { s with
      flights := s.flights.filter fun f => f.launch != launch || keep f.message
      benches := s.benches.mapAll fun _ b => { b with held := b.held.filter fun h => h.launch != launch || keep h.message } }
  let s2 := s1.setLaunch launch
    { l with
      mailboxes := l.mailboxes.mapAll fun _ b => b.filter keep
      overflow := l.overflow.mapAll fun _ b => b.filter keep
      deviceHeld := l.deviceHeld.filter keep
      blocks := l.blocks.mapAll fun _ b => fillLeft keep b }
  let s3 := if l.stopped then s2 else boxed.foldl (fun s p => freeBody s p.1 p.2) s2
  let parked := l.blocks.flatMap fun e => ((e.2.queue ++ e.2.snapshot).filter fun m => !keep m).map fun _ => e.1 / 2 ^ 28
  let slots := parked ++ (l.deviceHeld.filter fun m => !keep m).filterMap fun m => m.snapshot.map (·.1)
  let s4 := slots.foldl (fun s g => undefer s launch g) (ms.foldl (messageGone launch) s3)
  if l.stopped then s4 else (List.range l.rankCount).foldl (fun s r => slotFreed s launch r) s4

/-- The capsules of contexts that have lost benches or a range go to quarantine with status IN_TRANSIT, for an operation that
waits for them; the count is of the items. -/
def revokeCapsules (s : State) (ctxs : List Nat) (op : Nat) : State × Nat :=
  ((s.launches.filter fun e => ctxs.contains e.2.ctx).map (·.1)).foldl
    (fun (r : State × Nat) k =>
      let ms := idleCapsules r.1 k
      let s1 := ms.foldl (fun s m => quarantine s k { m with ctx := (s.launch k).ctx } 1 (some op)) r.1
      (takeCapsules s1 k ms, r.2 + ms.length)) (s, 0)

/-- Contexts of a subtree whose bench sets differ between two states. -/
def shrunkSets (s s1 : State) (ctx : Nat) : List Nat :=
  (s.subtree ctx).filter fun k => decide ((s.ctx k).bind (·.benches) ≠ (s1.ctx k).bind (·.benches))

/-- A revocation has taken effect on contexts: it is complete once its items are written (R34, R40). -/
def endRevoke (s : State) (ctxs : List Nat) (key : Nat) : State × Option Word :=
  let q := revokeCapsules s ctxs key
  if unwrittenItems q.1 key = 0 then (q.1, some (BitVec.ofNat 64 q.2)) else (setOp q.1 key fun o => { o with items := q.2 }, none)

/-- Revocations whose last item has been written complete. -/
def settleRevokes (s : State) : State :=
  (s.ctl.ops.filter fun o => decide (o.kind ≠ .kill) && o.items != 0 && o.result.isNone && unwrittenItems s o.key == 0).foldl
    (fun s o => finishOp s o.key (some (BitVec.ofNat 64 o.items))) s

/-! ## Revocations that wait -/

/-- The operation of a request: one that has waited, or a new one. -/
def opOf (s : State) (r : CtxReq) (key : Option Nat) : State × Nat :=
  match key with
  | some k => (setOp s k fun o => { o with begun := true }, k)
  | none => (startOp s r (.revoke (r.arg 0) (r.arg 1) (r.arg 2)) true, s.ticket)

/-- A revocation that has taken effect on contexts answers at once if nothing of it waits to be written. -/
def answerRevoke (s : State) (ctxs : List Nat) (r : CtxReq) (key : Option Nat) : CtxRes :=
  let o := opOf s r key
  let q := endRevoke o.1 ctxs o.2
  match q.2 with
  | some n => .done n (if key.isSome then q.1 else dropOp q.1 o.2)
  | none => .pending o.2 q.1

/-- A revocation of a context that is not STOPPING: benches of one that is IDLE or RUNNING stop it first (R59). -/
def revokeNow (s : State) (r : CtxReq) (c : Ctx) (key : Option Nat) : CtxRes :=
  match grantKind (r.arg 0) with
  | none => .refused
  | some (kind, zero) =>
    if kind = 1 then
      let losers := touchedOwners s r.target (r.arg 1).toNat (r.arg 2).toNat
      let d := revokeRange s r.issuerCtx r.target (r.arg 1).toNat (r.arg 2).toNat zero
      if dropWaits d.1 d.2 then
        let o := opOf d.1 r key
        .pending o.2 (setOp o.1 o.2 fun o => { o with drops := d.2, losers := losers })
      else answerRevoke (finishDrops d.1 d.2) losers r key
    else if kind ≠ 0 then
      match revokeOther s r.issuerCtx r.target c kind (r.arg 1) (r.arg 2) with
      | some s1 => answerRevoke s1 [] r key
      | none => .refused
    else
      match takeBenches s r.target (r.arg 1) with
      | none => .refused
      | some s1 =>
        if c.st = .stopped then (if c.onChip then .refused else answerRevoke s1 (shrunkSets s s1 r.target) r key)
        else
          let o := opOf s r key
          .pending o.2 (beginStop o.1 r.target)

/-- An operation that waits for a stop of its target, which is over. -/
def mayBegin (s : State) (tree : List Nat) (o : CtxOp) : Bool :=
  tree.contains o.target && !o.begun && o.result.isNone && (match s.ctx o.target with
    | some c => !(decide (c.st = .stopping) || decide (c.st = .killing))
    | none => false)

/-- Operations that waited for a stop of their targets now take effect, in the order in which they came (R68). -/
def resumeOps (tree : List Nat) : Nat → State → State
  | 0, s => s
  | n + 1, s =>
    match s.ctl.ops.find? (mayBegin s tree) with
    | none => s
    | some o =>
      match o.kind, s.ctx o.target with
      | .kill, _ => resumeOps tree n (beginKill s o.key o.target)
      | .revoke a b cc, some c =>
        let r : CtxReq := { op := 0x9D, issuerCtx := o.issuerCtx, issuer := o.issuer, target := o.target, ops := [a, b, cc] }
        match revokeNow s r c (some o.key) with
        | .done w s1 => resumeOps tree n (finishOp s1 o.key (some w))
        | .pending _ s1 => if revoking s1 then s1 else resumeOps tree n s1
        | _ => resumeOps tree n (finishOp s o.key none)
      | _, _ => resumeOps tree n (finishOp s o.key none)

/-- Operations that waited for a stop that is over, of whatever context. -/
def resumeAllOps (s : State) : State := resumeOps (s.ctl.ctxs.map (·.1)) s.ctl.ops.length s

/-- A revocation of a range whose accepted accesses can all be performed goes on (R57), and then the operations that it has kept
waiting. -/
def settleDrops (s : State) : State :=
  match s.ctl.ops.find? fun o => !o.drops.isEmpty with
  | none => s
  | some o =>
    if dropWaits s o.drops then s
    else
      let q := endRevoke (setOp (finishDrops s o.drops) o.key fun o => { o with drops := [] }) o.losers o.key
      resumeAllOps (match q.2 with
        | some n => finishOp q.1 o.key (some n)
        | none => q.1)

/-- A context of a subtree, below its top, has an operation of its own in progress, which completes first (R68). -/
def ownOpBelow (s : State) (ctx : Nat) : Bool :=
  (s.subtree ctx).any fun k => k != ctx && (match s.ctx k with
    | some c => (decide (c.st = .stopping) && !c.nested) || decide (c.st = .resuming) || decide (c.st = .killing)
    | none => false)

/-- The launches of a stopping subtree are suspended, and its contexts are STOPPED, those that came to it or ran again since the
stop began too (R67, R68). -/
def suspendBelow (s : State) (ctx : Nat) : State :=
  let s1 := (stoppingLaunches s ctx).foldl suspendLaunch s
  (s1.subtree ctx).foldl
    (fun s k =>
      match s.ctx k with
      | some x => if x.st = .stopped then s else s.setCtx k { x with st := .stopped, nested := k != ctx }
      | none => s) s1

/-- STOP_COMPLETE (R67): the last task of the subtree has ended. -/
def stopComplete (ctx : Nat) (s : State) : State :=
  match s.ctl.ops.find? fun o => o.target == ctx && o.begun && o.result.isNone && o.items == 0 && o.drops.isEmpty && decide (o.kind ≠ .kill),
    s.ctx ctx with
  | some o, some c =>
    if c.st ≠ .stopping || ownOpBelow s ctx || !subtreeQuiet s ctx || revoking s then s
    else
      let r := settleImage (suspendBelow s ctx) ctx
      let s3 :=
        if !r.2 then finishOp r.1 o.key none
        else
          match o.kind with
          | .revoke _ b _ =>
            match takeBenches r.1 ctx b with
            | some s4 =>
              let q := endRevoke s4 (shrunkSets r.1 s4 ctx) o.key
              match q.2 with
              | some n => finishOp q.1 o.key (some n)
              | none => q.1
            | none => finishOp r.1 o.key none
          | _ => finishOp r.1 o.key (some c.image)
      resumeOps (s3.subtree ctx) s3.ctl.ops.length s3
  | _, _ => s

def execStopComplete (ctx : Nat) (s : State) : Out := .next (stopComplete ctx s)

/-! ## Stop, resume and kill requests -/

/-- CTXSTOP (R50, R67, R300). -/
def requestStop (s : State) (r : CtxReq) (c : Ctx) : CtxRes :=
  let image := r.arg 0
  let size := r.arg 1
  let new := image != 0
  if new && !(imageOk image size && decide (image.toNat < 2 ^ 56)) then .refused
  else
    let c1 := if new then { c with image := image, imageSize := size.toNat } else c
    if c.st = .idle || c.st = .running then
      .pending s.ticket (beginStop (startOp (s.setCtx r.target c1) r .stop true) r.target)
    else if c.st = .stopped && c.onChip && new && (image != c.image || size.toNat != c.imageSize) then
      let q := settleImage (s.setCtx r.target c1) r.target
      if q.2 then .done c1.image q.1 else .pending s.ticket (finishOp (startOp q.1 r .stop true) s.ticket none)
    else .refused

/-- The region of a launch at a displacement. -/
def Launch.movedRect (l : Launch) (dx dy : Int) : Rect :=
  { l.rect with x := ((l.ox : Int) + dx).toNat, y := ((l.oy : Int) + dy).toNat }

/-- A launch may take its region at a displacement (R70). -/
def mayResume (s : State) (dx dy : Int) (launch : Nat) : Bool :=
  let l := s.launch launch
  decide (0 ≤ (l.ox : Int) + dx) && decide (0 ≤ (l.oy : Int) + dy) && regionFree s l.ctx (l.movedRect dx dy)

/-- A context is nested in the image of another: every context on the way to it was stopped with its parent (R68), and none of
them is being killed (R50). -/
def nestedIn (s : State) (top : Nat) : Nat → Nat → Bool
  | 0, _ => false
  | n + 1, k => k == top || (match s.ctx k with
    | some c => c.nested && decide (c.st ≠ .killing) && nestedIn s top n c.parent
    | none => false)

/-- Contexts that come back with a context: itself and those nested in its image. -/
def resumedTree (s : State) (ctx : Nat) : List Nat := (s.subtree ctx).filter (nestedIn s ctx 9)

/-- The stopped launches of contexts that come back. -/
def resumedLaunches (s : State) (tree : List Nat) : List Nat :=
  (s.launches.filter fun e => tree.contains e.2.ctx && e.2.stopped).map (·.1)

/-- Contexts of a list in a state. -/
def setStates (tree : List Nat) (st : Nat → Ctx → Ctx) (s : State) : State :=
  tree.foldl
    (fun s k => match s.ctx k with
      | some c => s.setCtx k (st k c)
      | none => s) s

/-- CTXRESUME (R50, R70): the contexts are RESUMING and their ranks in transit, until the tables are loaded (R199). -/
def requestResume (s : State) (r : CtxReq) (c : Ctx) : CtxRes :=
  let dx := (r.arg 0).toInt
  let dy := (r.arg 1).toInt
  let tree := resumedTree s r.target
  let launches := resumedLaunches s tree
  if c.st ≠ .stopped || (c.onChip && (dx != 0 || dy != 0)) || !launches.all (mayResume s dx dy) then .refused
  else
    .pending s.ticket (launches.foldl (transitRanks true)
      (setStates tree (fun _ x => { x with st := .resuming }) (startOp s r (.resume dx dy) true)))

/-- Contexts that come back, in place: RUNNING, or IDLE without a launch (R50). -/
def resumed (s : State) (k : Nat) (c : Ctx) : Ctx :=
  { c with st := if s.launches.any fun e => e.2.ctx == k then .running else .idle, nested := false, onChip := false }

/-- The resume of a context in progress: its key and its displacement. -/
def resumeOp (s : State) (ctx : Nat) : Option (Nat × Int × Int) :=
  (s.ctl.ops.filter fun o => o.target == ctx && o.begun && o.result.isNone).findSome? fun o =>
    match o.kind with
    | .resume dx dy => some (o.key, dx, dy)
    | _ => none

/-- The tables of the resume of a RESUMING context are loaded and checked again (R50, R70): the launches run in their new regions, or the contexts are
STOPPED as before and the operation is refused. -/
def resumeLoaded (ctx : Nat) (s : State) : State :=
  match (if !revoking s && (s.ctx ctx).any fun c => decide (c.st = .resuming) then resumeOp s ctx else none) with
  | some (key, dx, dy) =>
    let tree := resumedTree s ctx
    let launches := resumedLaunches s tree
    if launches.all (mayResume s dx dy) && (launches.flatMap fun k => ((s.launch k).movedRect dx dy).benches).all
        (fun b => !(s.bench b).badTable) then
      let s1 := launches.foldl (resumeLaunch dx dy) s
      finishOp (setStates tree (resumed s) s1) key (some 0)
    else finishOp (setStates tree (fun _ x => { x with st := .stopped }) (launches.foldl (transitRanks false) s)) key none
  | none => s

/-- CTXKILL: it waits while the target is STOPPING (R68). -/
def requestKill (s : State) (r : CtxReq) (c : Ctx) : CtxRes :=
  if c.st = .killing then .refused
  else
    let s1 := startOp s r .kill (c.st ≠ .stopping)
    .pending s.ticket (if c.st = .stopping then s1 else beginKill s1 s.ticket r.target)

/-- A context operation other than CTXNEW, on a child of the issuer (R50, R51). -/
def requestOn (s : State) (r : CtxReq) (c : Ctx) : CtxRes :=
  let live := decide (c.st ≠ .killing)
  match r.op with
  | 0x99 =>
    if !live then .refused
    else match grant s r.issuerCtx r.target c r.ops with
      | some s1 => .done 0 s1
      | none => .refused
  | 0x9A =>
    if c.st = .idle || c.st = .running then
      match startLaunch s r.target (r.arg 0) (r.arg 1) (r.arg 2) r.issuer with
      | some q => .done q.1 q.2
      | none => .refused
    else .refused
  | 0x9B => requestStop s r c
  | 0x9C => requestResume s r c
  | 0x9D =>
    if c.st = .stopping then .pending s.ticket (startOp s r (.revoke (r.arg 0) (r.arg 1) (r.arg 2)) false)
    else if c.st = .killing || c.st = .resuming then .refused
    else revokeNow s r c none
  | 0x9E => requestKill s r c
  | _ => if live then .done (queryWord s r.target c (r.arg 0).toNat) s else .refused

/-- One context operation at the controller (R51, R299 to R303), which another may have to precede to its end. -/
def request (s : State) (r : CtxReq) : CtxRes :=
  if revoking s then .later
  else if r.op == 0x98 then
    match newCtx s r.issuerCtx r.ops with
    | some q => .done (BitVec.ofNat 64 q.1) q.2
    | none => .refused
  else
    match s.ctx r.target with
    | none => .denied
    | some c => if c.parent != r.issuerCtx then .denied else requestOn s r c

/-! ## Context instructions (R299) -/

/-- The request of an instruction: x0 in A makes every operand zero. -/
def ctxRequest (t : Strand) (f : Slot) (op : Nat) (s : State) : CtxReq :=
  let a := selNum f.a
  { op := op, issuerCtx := (s.launch t.launch).ctx, issuer := .strand t.launch s.cur, target := field (xOf t f.b) 0 12
    ops := if a = 0 then [] else (upFrom a 6).map t.x }

/-- The operation that a strand waits for. -/
def awaitedOp (t : Strand) : Option Nat :=
  match t.wait with
  | some { why := .ctxOp k, .. } => some k
  | _ => none

/-- A context instruction whose operation completes at once, or has completed. -/
def ctxBody (t : Strand) (f : Slot) (op : Nat) (s : State) : Res Flow :=
  match awaitedOp t with
  | some k =>
    match (s.op k).bind (·.result) with
    | none => if (s.op k).isSome then .wait (.ctxOp k) else .fail .ctxOp s
    | some none => .fail .ctxOp (dropOp s k)
    | some (some w) => (writeSel f.d w (dropOp s k)).andThen fun _ s1 => .ok .seq s1
  | none =>
    if 58 < selNum f.a then .fail .illegalOperand s
    else
      match request s (ctxRequest t f op s) with
      | .done w s1 => (writeSel f.d w s1).andThen fun _ s2 => .ok .seq s2
      | .pending k _ => .wait (.ctxOp k)
      | .later => .wait .controller
      | _ => .fail .ctxOp s

/-- A request that the controller goes on with: the strand waits for it, with the operation begun. -/
def ctxPending (f : Slot) (op : Nat) (s : State) : Option State :=
  match s.strand with
  | none => none
  | some t =>
    if !t.guard f || (awaitedOp t).isSome || 58 < selNum f.a then none
    else
      match request s (ctxRequest t f op s) with
      | .pending k s1 => some (beginWait s1 (.ctxOp k) (some f))
      | _ => none

def ctxInstr (f : Slot) (op : Nat) (s : State) : State :=
  match ctxPending f op s with
  | some s1 => s1
  | none => issue f s fun t s0 => ctxBody t f op s0

def execCtxnew (f : Slot) (s : State) : Out := .next (ctxInstr f 0x98 s)
def execCtxgrant (f : Slot) (s : State) : Out := .next (ctxInstr f 0x99 s)
def execCtxstart (f : Slot) (s : State) : Out := .next (ctxInstr f 0x9A s)
def execCtxstop (f : Slot) (s : State) : Out := .next (ctxInstr f 0x9B s)
def execCtxresume (f : Slot) (s : State) : Out := .next (ctxInstr f 0x9C s)
def execCtxrevoke (f : Slot) (s : State) : Out := .next (ctxInstr f 0x9D s)
def execCtxkill (f : Slot) (s : State) : Out := .next (ctxInstr f 0x9E s)
def execCtxquery (f : Slot) (s : State) : Out := .next (ctxInstr f 0x9F s)

end Sys2Proof.Machine
end

