-- ==== Sys2Proof/Machine/HostCommands.lean ====
section
/-! DEFINITION. Host commands (R28, R33, R34): the oldest command that a function has accepted is carried out. -/

namespace Sys2Proof.Machine

/-! ## The command in a slot -/

def HostCmd.word (c : HostCmd) (i : Nat) : Word := c.words.getD i 0
def HostCmd.code (c : HostCmd) : Nat := field (c.word 0) 56 8
def HostCmd.target (c : HostCmd) : Nat := field (c.word 0) 44 12
def HostCmd.tag (c : HostCmd) : BitVec 32 := (c.word 0).setWidth 32

/-- Codes that some command has (R33). -/
def hostCodes : List Nat := [0x01, 0x02, 0x03, 0x04, 0x05, 0x06, 0x07, 0x08, 0x10, 0x11, 0x12, 0x13, 0x14, 0x20]

/-- A command that completes BAD_COMMAND: no such code, a code of the PF on a VF, or a nonzero field that must be zero. -/
def HostCmd.bad (c : HostCmd) (fn : Nat) : Bool :=
  !hostCodes.contains c.code || (fn != 0 && decide (0x10 ≤ c.code) && decide (c.code ≤ 0x14))
    || field (c.word 0) 32 12 != 0 || c.word 7 != 0

/-- The context with whose authority a function acts (R28, R33). -/
def fnAuthority (s : State) (fn : Nat) : Option Nat :=
  if fn = 0 then some Config.deviceCtx
  else if (s.ctx (s.fn fn).ctx).isSome then some (s.fn fn).ctx
  else none

/-- Status codes (R34). -/
def stDoneCmd : Nat := 0
def stRefused : Nat := 1
def stBadCommand : Nat := 2
def stDenied : Nat := 3
def stNoContext : Nat := 4

/-- The oldest accepted command of a function, when it stands in this slot and a test accepts it. -/
def oldestCommand (s : State) (fn slot : Nat) (p : HostCmd → Bool) : Option (HostCmd × State) :=
  let f := s.fn fn
  match f.accepted with
  | [] => none
  | c :: rest => if c.slot == slot && p c then some (c, s.setFn fn { f with accepted := rest }) else none

/-- A command carried out: NO_CONTEXT on an unbound VF, and otherwise what `go` does with its authority. -/
def hostCommand (fn slot : Nat) (p : HostCmd → Bool) (go : Nat → HostCmd → State → State) (s : State) : State :=
  match oldestCommand s fn slot p with
  | none => s
  | some (c, s1) =>
    match fnAuthority s1 fn with
    | none => completeSlot s1 fn slot c.tag stNoContext 0
    | some ctx => go ctx c s1

/-- A command with a code of its own. -/
def coded (fn code : Nat) (c : HostCmd) : Bool := c.code == code && !c.bad fn

/-- A command that the controller cannot take yet stays the oldest that its function has accepted (R34, R51). -/
def putBack (s : State) (fn : Nat) (c : HostCmd) : State :=
  let f := s.fn fn
  s.setFn fn { f with accepted := c :: f.accepted }

/-- The completion of what the controller answers; one in progress completes later. -/
def answer (s : State) (fn : Nat) (c : HostCmd) : CtxRes → State
  | .done w s1 => completeSlot s1 fn c.slot c.tag stDoneCmd w
  | .refused => completeSlot s fn c.slot c.tag stRefused 0
  | .denied => completeSlot s fn c.slot c.tag stDenied 0
  | .pending _ s1 => s1
  | .later => putBack s fn c

/-- The request of a command: words 1 to 6 are the operands. -/
def hostRequest (fn ctx op : Nat) (c : HostCmd) : CtxReq :=
  { op := op, issuerCtx := ctx, issuer := .host fn c.slot c.tag, target := c.target, ops := (c.words.drop 1).take 6 }

/-- A command that acts as a context instruction. -/
def hostCtx (code op fn slot : Nat) (s : State) : State :=
  hostCommand fn slot (coded fn code) (fun ctx c s1 => answer s1 fn c (request s1 (hostRequest fn ctx op c))) s

/-- HOST_CTXNEW: refused on the PF. -/
def execHostCtxnew (fn slot : Nat) (s : State) : Out := .next (hostCtx 0x01 0x98 fn slot s)
def execHostCtxgrant (fn slot : Nat) (s : State) : Out := .next (hostCtx 0x02 0x99 fn slot s)
def execHostCtxstart (fn slot : Nat) (s : State) : Out := .next (hostCtx 0x03 0x9A fn slot s)
def execHostCtxstop (fn slot : Nat) (s : State) : Out := .next (hostCtx 0x04 0x9B fn slot s)
def execHostCtxresume (fn slot : Nat) (s : State) : Out := .next (hostCtx 0x05 0x9C fn slot s)
def execHostCtxrevoke (fn slot : Nat) (s : State) : Out := .next (hostCtx 0x06 0x9D fn slot s)
/-- HOST_CTXKILL: on the PF, naming a root, it acts as PARTKILL. -/
def execHostCtxkill (fn slot : Nat) (s : State) : Out := .next (hostCtx 0x07 0x9E fn slot s)
def execHostCtxquery (fn slot : Nat) (s : State) : Out := .next (hostCtx 0x08 0x9F fn slot s)

/-- PARTKILL (R33, R71). -/
def execPartkill (fn slot : Nat) (s : State) : Out := .next (hostCtx 0x11 0x9E fn slot s)

/-- PARTNEW (R33, R48). -/
def execPartnew (fn slot : Nat) (s : State) : Out :=
  .next (hostCommand fn slot (coded fn 0x10)
    (fun _ c s1 =>
      if revoking s1 then putBack s1 fn c
      else
      match newPartition s1 ((c.words.drop 1).take 6) with
      | some (id, vf, s2) => completeSlot s2 fn c.slot c.tag stDoneCmd (place 0 12 id ||| place 16 8 vf)
      | none => completeSlot s1 fn c.slot c.tag stRefused 0) s)

/-- MGMTKEY (R33, R45): an all-zero key clears it. The counters accepted under each key are remembered. -/
def setKey (s : State) (k : BitVec 384) : State := s.setMgc { s.mgc with key := if k = 0 then none else some k }

def execMgmtkey (fn slot : Nat) (s : State) : Out :=
  .next (hostCommand fn slot (coded fn 0x12)
    (fun _ c s1 =>
      let k := BitVec.ofNat 384 (bytesToNat (wordsToBytes ((c.words.drop 1).take 6)))
      completeSlot (setKey s1 k) fn c.slot c.tag stDoneCmd 0) s)

/-- LINKUP and LINKDOWN: a link number from 0 to 15. -/
def hostLinkCommand (code fn slot : Nat) (go : State → Nat → State) (s : State) : State :=
  hostCommand fn slot (coded fn code)
    (fun _ c s1 =>
      let a := c.word 1
      if a.toNat < 16 then completeSlot (go s1 a.toNat) fn c.slot c.tag stDoneCmd 0
      else completeSlot s1 fn c.slot c.tag stRefused 0) s

def execHostLinkup (fn slot : Nat) (s : State) : Out := .next (hostLinkCommand 0x13 fn slot bringUp s)
def execHostLinkdown (fn slot : Nat) (s : State) : Out := .next (hostLinkCommand 0x14 fn slot dropLink s)

/-- PING. -/
def execPing (fn slot : Nat) (s : State) : Out :=
  .next (hostCommand fn slot (coded fn 0x20) (fun _ c s1 => completeSlot s1 fn c.slot c.tag stDoneCmd 0) s)

/-- HOST_BAD_COMMAND. -/
def execHostBadCommand (fn slot : Nat) (s : State) : Out :=
  .next (hostCommand fn slot (fun c => c.bad fn) (fun _ c s1 => completeSlot s1 fn c.slot c.tag stBadCommand 0) s)

end Sys2Proof.Machine
end

