-- ==== Sys2Proof/Machine/HostRegs.lean ====
section
/-! DEFINITION. The registers of a function page as the host reads and writes them (R28 to R32, R34, R35, R40, R41, R66), what
is held on chip for its rings, and resets of the host link and of a VF. -/

namespace Sys2Proof.Machine

/-- Functions 0 to 192. -/
def fnExists (fn : Nat) : Bool := decide (fn ≤ 192)

/-- The host reaches the function pages. -/
def hostReach (s : State) (fn : Nat) : Bool := fnExists fn && s.pkg.hostUp

/-- A function's record changed, where the host reaches it. -/
def onFn (s : State) (fn : Nat) (f : HostFn → HostFn) : State := if hostReach s fn then s.setFn fn (f (s.fn fn)) else s

/-! ## Command slots (R34) -/

/-- COMMAND_SLOT_WRITE: dropped with FN_STATUS bit 2 while the slot is busy. -/
def execCommandSlotWrite (fn slot word : Nat) (value : Word) (s : State) : Out :=
  .next (onFn s fn fun f =>
    if 64 ≤ slot || 8 ≤ word then f
    else if f.busy.getLsbD slot then { f with status := f.status ||| 4 }
    else { f with slots := f.slots.put (slot * 8 + word) value })

/-- CMD_DOORBELL: the slot is copied and its command accepted, unless it is busy (R34); commands are accepted once the device
information page is published (R43). -/
def ringDoorbell (s : State) (f : HostFn) (value : Word) : HostFn :=
  let slot := field value 0 6
  if f.busy.getLsbD slot then { f with status := f.status ||| 4 }
  else if !s.pkg.published then f
  else
    { f with
      busy := f.busy ||| BitVec.ofNat 64 (2 ^ slot)
      accepted := f.accepted ++ [{ slot := slot, words := (List.range 8).map fun i => f.slots.get (slot * 8 + i) 0 }] }

/-! ## Ring control (R32) -/

/-- Benches that a ring must hold records for (R36). -/
def boundBenches (s : State) (fn : Nat) (f : HostFn) : Nat :=
  if fn = 0 then 0 else match s.ctx f.ctx with
    | some c => c.benchCount
    | none => 0

/-- An enable of a ring with a number of entries is legal. -/
def enableLegal (s : State) (fn : Nat) (f : HostFn) (k : RingKind) (log2n : Nat) : Bool :=
  decide (6 ≤ log2n) && decide (log2n ≤ 17)
    && (match k with
        | .cpl => true
        | .fault => decide (256 * boundBenches s fn f ≤ 2 ^ log2n)
        | .quar => f.qbSize.toNat % 4096 == 0 && decide (65536 ≤ f.qbSize.toNat))

/-- A ring after a write of its control register. -/
def ringControl (s : State) (fn : Nat) (f : HostFn) (k : RingKind) (value : Word) : Ring :=
  let r := f.ring k
  let asked := field value 0 5
  let changes := r.en && asked != r.log2n
  let log2n := if r.en then r.log2n else asked
  let en := value.getLsbD 63
  let bad := en && !r.en && !enableLegal s fn f k log2n
  { r with
    en := en && !bad, ie := value.getLsbD 62, log2n := log2n, err := (r.err && !value.getLsbD 61) || bad || changes
    seq := if en && !r.en && !bad then 1 else r.seq }

/-- RING_CONTROL_WRITE. -/
def execRingControlWrite (fn : Nat) (ring : RingKind) (value : Word) (s : State) : Out :=
  .next (onFn s fn fun f => f.setRing ring (ringControl s fn f ring value))

/-! ## Consumer indices (R32, R41, R66) -/

/-- How far a write of CONS moves it, or none where it is illegal. -/
def consStep (r : Ring) (value : Word) : Option Nat :=
  let n := (value.setWidth 32 - r.cons).toNat
  if n ≤ (r.prod - r.cons).toNat then some n else none

/-- CONS written: the entries passed are free, and the next message may go; an illegal value sets ERR. -/
def writeCons (fn : Nat) (k : RingKind) (value : Word) (passed : Nat → HostFn → HostFn) (after : Nat → State → State)
    (s : State) : State :=
  if !hostReach s fn then s
  else
    let f := s.fn fn
    let r := f.ring k
    match consStep r value with
    | none => s.setFn fn (f.setRing k { r with err := true })
    | some n => after n (rearm (s.setFn fn (passed n (f.setRing k { r with cons := value.setWidth 32 }))) fn k)

/-- CPL_CONS_WRITE. -/
def execCplConsWrite (fn : Nat) (value : Word) (s : State) : Out :=
  .next (writeCons fn .cpl value (fun n f => { f with cplKinds := f.cplKinds.drop n }) (fun _ s1 => s1) s)

/-- QR_CONS_WRITE: the bodies of the entries passed are freed (R40). -/
def execQrConsWrite (fn : Nat) (value : Word) (s : State) : Out :=
  .next (writeCons fn .quar value (fun n f => { f with bodies := f.bodies.drop n }) (fun _ s1 => s1) s)

/-- Sessions of which those that a record holds FAULTED are released (R188, R189). -/
def freed (key : Nat) (t : Table Session) : Table Session :=
  t.mapAll fun _ e =>
    if decide (e.st = .faulted) && e.faultRecord == some key then { e with st := .idle, faultRecord := none } else e

/-- A stream session whose fault record is consumed is usable again, on its bench or saved with a stopped context (R189). -/
def freeSessions (s : State) (key : Nat) : State :=
  { s with
    benches := s.benches.mapAll fun _ b => { b with sessions := freed key b.sessions }
    ctl := { s.ctl with saved := s.ctl.saved.map fun x => { x with sessions := freed key x.sessions } } }

/-- Reads of q3 no longer trap for a record that is consumed (R181, R189). -/
def freeStreams (s : State) (key : Nat) : State :=
  { s with hcs := s.hcs.mapAll fun _ h =>
      { h with strand := h.strand.map fun t => { t with q3Faults := t.q3Faults.filter fun r => r.1 != key } } }

/-- A fault record is consumed: rank holds, faulted sessions, fills held out and reads that wait for it (R66, R132, R133, R162,
R189). -/
def consumeRecord (s : State) (key : Nat) : State :=
  let s1 := freeStreams (freeSessions s key) key
  let s2 : State := { s1 with launches := s1.launches.mapAll fun _ l =>
    { l with
      rankHolds := l.rankHolds.filter fun h => h.record != key
      blocks := l.blocks.mapAll fun _ b => if b.heldOut == some key then { b with heldOut := none } else b } }
  s2.launches.foldl
    (fun s e =>
      let due (u : Unread) : Bool := u.record == some key
      if !e.2.unread.any due then s
      else
        let l := s.launch e.1
        retryUnread e.1 (fun u => u.record.isNone)
          (s.setLaunch e.1 { l with unread := l.unread.map fun u => if due u then { u with record := none } else u })) s2

/-- FR_CONS_WRITE. -/
def execFrConsWrite (fn : Nat) (value : Word) (s : State) : Out :=
  .next (writeCons fn .fault value (fun n f => { f with frKeys := f.frKeys.drop n })
    (fun n s1 => ((s.fn fn).frKeys.take n).foldl consumeRecord s1) s)

/-! ## Other registers (R29, R31, R41) -/

/-- Vectors of a function's MSI-X table. -/
def vectorCount (fn : Nat) : Nat := if fn = 0 then 8 else 4

/-- A word of the MSI-X table written; a vector that is pending and no longer masked sends its message (R29, R41). -/
def writeMsix (s : State) (fn index : Nat) (value : Word) : State :=
  let f := s.fn fn
  let s1 := s.setFn fn { f with msix := f.msix.put index value }
  let v := index / 2
  let masked := ((s1.fn fn).msix.get (2 * v + 1) 0).getLsbD 32
  if f.pending.getLsbD v && !masked then
    sendMsix (s1.setFn fn { s1.fn fn with pending := f.pending &&& ~~~ BitVec.ofNat 64 (2 ^ v) }) fn v
  else s1

/-- A register that has no row of its own, written by an aligned 64-bit access. A bit of FN_STATUS that is cleared while records or
items are still held stays clear until the next one is held (R40, log 103). Bits 11 to 0 of a ring base read back as they were
written, and are ignored where the ring is addressed (R5, R31, log 113). -/
def writeRegister (s : State) (fn offset : Nat) (value : Word) : State :=
  let f := s.fn fn
  let body (g : HostFn) : HostFn := if f.qr.en then { f with qr := { f.qr with err := true } } else g
  match offset with
  | 0x0008 => s.setFn fn { f with status := f.status &&& ~~~ value.setWidth 3 }
  | 0x0100 => s.setFn fn (ringDoorbell s f value)
  | 0x0110 => s.setFn fn { f with cpl := { f.cpl with base := value } }
  | 0x0200 => s.setFn fn { f with fr := { f.fr with base := value } }
  | 0x0300 => s.setFn fn { f with qr := { f.qr with base := value } }
  | 0x0320 => s.setFn fn (body { f with qbBase := value })
  | 0x0328 => s.setFn fn (body { f with qbSize := value })
  | _ =>
    if 0x1000 ≤ offset && offset < 0x1000 + 16 * vectorCount fn then writeMsix s fn ((offset - 0x1000) / 8) value else s

/-- Half of an MSI-X word written by an aligned 32-bit access (R29). -/
def writeHalf (s : State) (fn offset : Nat) (value : Word) : State :=
  if 0x1000 ≤ offset && offset < 0x1000 + 16 * vectorCount fn then
    let index := (offset - 0x1000) / 8
    let old := (s.fn fn).msix.get index 0
    let low := value &&& 0xFFFFFFFF
    writeMsix s fn index
      (if offset % 8 = 0 then (old &&& 0xFFFFFFFF00000000) ||| low else (old &&& 0xFFFFFFFF) ||| (low <<< 32))
  else s

/-- REGISTER_WRITE: every access but an aligned one of 64 bits, or of 32 in the MSI-X table, is dropped. -/
def registerWrite (fn offset size : Nat) (value : Word) (s : State) : State :=
  if !hostReach s fn then s
  else if size = 8 && offset % 8 = 0 then writeRegister s fn offset value
  else if size = 4 && offset % 4 = 0 then writeHalf s fn offset value
  else s

def execRegisterWrite (fn offset size : Nat) (value : Word) (s : State) : Out := .next (registerWrite fn offset size value s)

/-- What a read of a function page returns (R31). -/
def pageRead (s : State) (fn offset : Nat) : Word :=
  let f := s.fn fn
  let ctl (r : Ring) : Word := place 63 1 r.en.toNat ||| place 62 1 r.ie.toNat ||| place 61 1 r.err.toNat ||| place 0 5 r.log2n
  match offset with
  | 0x0000 => place 52 12 (if fn = 0 then Config.deviceCtx else f.ctx) ||| place 0 8 fn
  | 0x0008 => f.status.setWidth 64
  | 0x0108 => f.busy
  | 0x0110 => f.cpl.base
  | 0x0118 => ctl f.cpl
  | 0x0120 => f.cpl.prod.setWidth 64
  | 0x0128 => f.cpl.cons.setWidth 64
  | 0x0200 => f.fr.base
  | 0x0208 => ctl f.fr
  | 0x0210 => f.fr.prod.setWidth 64
  | 0x0218 => f.fr.cons.setWidth 64
  | 0x0300 => f.qr.base
  | 0x0308 => ctl f.qr
  | 0x0310 => f.qr.prod.setWidth 64
  | 0x0318 => f.qr.cons.setWidth 64
  | 0x0320 => f.qbBase
  | 0x0328 => f.qbSize
  | 0x1800 => f.pending
  | _ =>
    if 0x1000 ≤ offset && offset < 0x1000 + 16 * vectorCount fn then f.msix.get ((offset - 0x1000) / 8) 0
    else if 0x8000 ≤ offset && offset < 0x9000 then f.slots.get ((offset - 0x8000) / 8) 0
    else 0

/-! ## What is held on chip -/

/-- HELD_COMPLETION_WRITE (R34). -/
def heldCompletionWrite (fn : Nat) (s : State) : State :=
  let f := s.fn fn
  match f.heldCpl with
  | c :: rest => if f.cpl.room then writeCompletion (s.setFn fn { f with heldCpl := rest }) fn c else s
  | [] => s

def execHeldCompletionWrite (fn : Nat) (s : State) : Out := .next (heldCompletionWrite fn s)

/-- FAULT_RECORD_DELIVERY (R35). -/
def faultRecordDelivery (fn : Nat) (s : State) : State :=
  let f := s.fn fn
  match f.heldFr with
  | r :: rest => if f.fr.room then writeRecord (s.setFn fn { f with heldFr := rest }) fn r else s
  | [] => s

def execFaultRecordDelivery (fn : Nat) (s : State) : Out := .next (faultRecordDelivery fn s)

/-- QUARANTINE_ITEM_WRITE (R40); a revocation whose last item it is completes. -/
def quarantineItemWrite (fn : Nat) (s : State) : State :=
  let f := s.fn fn
  match f.heldQr with
  | q :: rest =>
    match tryWriteQuar (s.setFn fn { f with heldQr := rest }) fn q with
    | some s1 => settleRevokes s1
    | none => s
  | [] => s

def execQuarantineItemWrite (fn : Nat) (s : State) : Out := .next (quarantineItemWrite fn s)

/-! ## Resets (R28) -/

/-- A host link that is up trains again: at 16, 8 or 4 lanes, as its lanes pass, and at a rate of at most 128 GT/s, as the partner
requires, both of them free choices (R17, log 111). The device information page shows a change (R30). -/
def hostTrain (s : State) : State :=
  if !s.pkg.hostUp then s
  else
    let lanes := 2 ^ (2 + Config.freeNat s.fresh % 3)
    let rate := 1 + Config.freeNat (s.fresh + 1) % 128
    let s1 := { s with fresh := s.fresh + 2 }.setPkg { s.pkg with hostLanes := lanes, hostRate := rate }
    if lanes == s.pkg.hostLanes && rate == s.pkg.hostRate then s1 else pageChanged s1

/-- HOST_LINK_RESET: the rings stand disabled until the driver enables them again, and the link trains again (R17, R28). -/
def hostLinkReset (s : State) : State :=
  hostTrain { s with fns := s.fns.mapAll fun _ f =>
      { f with
        cpl := { f.cpl with en := false }
        fr := { f.fr with en := false }
        qr := { f.qr with en := false } } }

def execHostLinkReset (s : State) : Out := .next (hostLinkReset s)

/-- Completions that a function-level reset discards. -/
def discardCompletions (s : State) (fn : Nat) : State :=
  { s with launches := s.launches.mapAll fun _ l =>
      match l.issuer with
      | .host k _ _ => if k == fn then { l with issuer := .nobody } else l
      | _ => l }

/-- A VF after a function-level reset: rings, slots and FN_STATUS cleared; what is held on chip stays held. The bits of CMD_BUSY of
commands that were accepted before stay set until these complete, which the spec leaves open (R28, log 62). -/
def clearedFn (f : HostFn) : HostFn :=
  let freed := f.heldCpl.foldl (fun (b : BitVec 64) c => match c.frees with
    | some n => b &&& ~~~ BitVec.ofNat 64 (2 ^ n)
    | none => b) f.busy
  { f with
    slots := [], busy := freed, cpl := {}, fr := {}, qr := {}, qbBase := 0, qbSize := 0, heldCpl := [], cplKinds := [], frKeys := []
    bodies := [], bodyNext := 0, status := 0, discard := (List.range 64).filter fun i => freed.getLsbD i }

/-- VF_FUNCTION_LEVEL_RESET: the PF offers none. -/
def vfReset (fn : Nat) (s : State) : State :=
  if fn = 0 || !hostReach s fn then s
  else
    let keys := (s.fn fn).frKeys
    keys.foldl consumeRecord (discardCompletions (s.setFn fn (clearedFn (s.fn fn))) fn)

def execVfFunctionLevelReset (fn : Nat) (s : State) : Out := .next (vfReset fn s)

end Sys2Proof.Machine
end

