-- ==== Sys2Proof/Machine/Power.lean ====
section
/-! DEFINITION. The package: power, boot and trips (R25, R26, R42, R43, R45), the logical mesh (R9 to R11), benches fenced in
service (R10, R85, R145), CXL loss (R16), errors (R94, R95) and scrubbing (R58). -/

namespace Sys2Proof.Machine

/-! ## The event log and trips (R26, R43, R46) -/

/-- An entry of the event log; its codes are the model's (log 20). -/
def logEvent (s : State) (code result : Nat) (detail : Word) : State :=
  s.setMgc { s.mgc with
    log := s.mgc.log ++ [{ code := BitVec.ofNat 16 code, result := BitVec.ofNat 16 result, detail := detail }] }

/-! ## Boot (R9, R43) -/

/-- The logical columns of a package with defective benches (R9). -/
def buildMesh (bad : List (Nat × Nat)) : List Column :=
  (List.range 32).filterMap fun x =>
    let good := (List.range 16).filter fun y => !bad.contains (x, y)
    if good.length < 15 then none else some { phys := x, rows := good.take 15 }

/-- The main domain without power: nothing of it is kept, the contents of off-chip memory neither, which the spec leaves open
(R26, log 79). -/
def mainCleared (s : State) : State :=
  { s with
    pkg := {}, fns := [], ctl := {}, mem := {}, launches := [], flights := [], benches := [], cores := [], hcs := [], links := [] }

/-- The largest of some widths that a number of lanes allows, or 0. -/
def largestWidth (widths : List Nat) (lanes : Nat) : Nat := (widths.find? fun w => decide (w ≤ lanes)).getD 0

/-- The image that a boot verifies. -/
def bootImage (m : Mgc) : List Byte := if m.image.isEmpty then Config.factoryImage else m.image

/-- Both signatures and the security version of an image (R42). -/
def imageVerifies (bs : List Byte) : Bool :=
  Config.ecdsaVerifies bs && Config.hssVerifies bs && decide (Config.fusedSecurity.toNat ≤ Config.imageSecurity bs)

/-- The boot enters recovery; the main domain is off. -/
def enterRecovery (s : State) : State :=
  let s1 := mainCleared s
  s1.setMgc { s1.mgc with mainOn := false, boot := .recovery }

/-- Lanes of the host link and of a Trobin link, in whole units (R11, R17, R22). -/
def hostWidth (t : BootTest) : Nat := largestWidth [16, 8, 4] t.hostLanes
def linkLimit (t : BootTest) (link : Nat) : Nat := largestWidth [8, 4, 2] (t.linkLanes.getD link 0)

/-- Steps 3 to 8 of R43. The entry of step 6 reports the CXL ports with a device that is left unconfigured (R15, log 78). -/
def bootMain (s : State) (t : BootTest) : State :=
  let s1 := mainCleared s
  let s2 := logEvent (logEvent s1 3 0 0) 4 0 0
  let codes := (List.range 3).map fun i => Config.microcode i (bootImage s.mgc)
  if !codes.all imageVerifies then enterRecovery (logEvent s2 5 1 0)
  else
    let foreign := place 0 1 t.cxl0Foreign.toNat ||| place 1 1 t.cxl1Foreign.toNat
    let s3 := logEvent (logEvent (logEvent (logEvent s2 5 0 0) 6 (if foreign = 0 then 0 else 1) foreign) 7
      (if hostWidth t = 0 then 1 else 0) 0) 8 0 0
    let pkg : Package :=
      { columns := buildMesh t.badBenches, hbm := Config.hbmChannels - t.badHbm, lp := Config.lpChannels - t.badLp
        cxl0 := min t.cxl0 0x40000000000, cxl1 := min t.cxl1 0x40000000000, hostUp := hostWidth t != 0
        hostLanes := hostWidth t, hostRate := min t.hostRate 128, linkLanes := (List.range 16).map (linkLimit t)
        published := true }
    let s4 := (s3.setPkg pkg).setCtl { s3.ctl with vfFree := upFrom 1 192 }
    s4.setMgc { s4.mgc with mainOn := true, boot := .operational, throttled := false }

/-- Steps 2 to 8 of R43. -/
def bootRom (s : State) (t : BootTest) : State :=
  if imageVerifies (bootImage s.mgc) then bootMain (logEvent s 2 0 0) t else enterRecovery (logEvent s 2 1 0)

/-- STANDBY_POWER_ON. -/
def standbyPowerOn (t : BootTest) (s : State) : State :=
  if s.mgc.standby then s
  else bootRom (logEvent (s.setMgc { s.mgc with inputPower := true, standby := true }) 1 0 0) t

def execStandbyPowerOn (t : BootTest) (s : State) : Out := .next (standbyPowerOn t s)

/-- The main domain is switched off without saving any context (R26, R45). -/
def switchOff (s : State) : State :=
  let s1 := mainCleared s
  s1.setMgc { s1.mgc with mainOn := false, boot := if s.mgc.boot = .recovery then .recovery else .off, throttled := false }

/-- INPUT_POWER_REMOVED: the standby domain loses what it held; an installed image stays, what the attestation key has signed, and
the counters accepted under each management key, which a key written again finds (R45, log 67). -/
def inputPowerRemoved (s : State) : State :=
  let s1 := mainCleared s
  s1.setMgc { image := s.mgc.image, reports := s.mgc.reports, hssUsed := s.mgc.hssUsed, counters := s.mgc.counters }

def execInputPowerRemoved (s : State) : Out := .next (inputPowerRemoved s)

/-! ## Limits (R25, R26) -/

/-- THERMAL_THROTTLE and ISSUE_GAPS_END. -/
def setGaps (s : State) (on : Bool) : State := if s.mgc.mainOn then s.setMgc { s.mgc with throttled := on } else s
def execThermalThrottle (s : State) : Out := .next (setGaps s true)
def execIssueGapsEnd (s : State) : Out := .next (setGaps s false)

/-- A trip: its record, and the main domain off at once. -/
def trip (s : State) (cause die : Nat) (reading : BitVec 16) : State :=
  let s1 := logEvent s (0x100 + cause) 0 (reading.setWidth 64)
  let r : Trip :=
    { cause := BitVec.ofNat 8 cause, die := BitVec.ofNat 8 die, reading := reading, entry := BitVec.ofNat 32 s.mgc.log.length }
  let kept := s1.mgc.trips ++ [r]
  switchOff (s1.setMgc { s1.mgc with trips := kept.drop (kept.length - 16) })

/-- THERMAL_TRIP: a die at 115 degrees, in eighths of a degree. -/
def execThermalTrip (die : Nat) (reading : BitVec 16) (s : State) : Out :=
  .next
    (if s.mgc.mainOn && decide (920 ≤ reading.toInt) && decide (die < 10) then
       trip (s.setMgc { s.mgc with readings := s.mgc.readings.put die reading }) 1 die reading
     else s)

/-- UNDERVOLTAGE_TRIP: the input has stayed below 40 V for 10 ms. -/
def execUndervoltageTrip (millivolts : BitVec 16) (s : State) : Out :=
  .next (if s.mgc.mainOn && decide (millivolts.toNat < 40000) then trip s 2 0xFF millivolts else s)

/-! ## A bench fenced in service (R10, R85, R145) -/

/-- A line of a slice that leaves service. Whether each dirty sector can be read is a free choice; one that cannot be is poisoned,
and its page's owner receives one record that names it (R85, R95). -/
def retireLine (s : State) (l : LlcLine) : State :=
  let lost := l.dirty &&& ~~~l.poison &&& BitVec.ofNat 8 (Config.freeNat s.fresh)
  let s1 := (List.range 8).foldl
    (fun s i => if lost.getLsbD i then ownerRecord s l.owner (l.line * 256 + 32 * i) else s) s.nextFresh
  dropLine s1 { l with poison := l.poison ||| lost }

/-- A release in the form .nr stands at a bench's slice and waits for what is older of a strand of another bench: the slice, which
performs what it has accepted, leaves service only after it (R85, R103, log 100). -/
def sliceWaits (s : State) (b : Nat) : Bool :=
  s.mem.nr.any fun n => sliceOf s n.va == b && n.issuer.bench != b && n.waits s

/-- A slice leaves service: the .nr atomics that it has accepted are performed, dirty sectors are written back, its lines are dropped,
and its share of the hash is homed anew (R85). A line of a frame lies in the slice that R152 gives it. -/
def retireSlice (s : State) (b : Nat) : State :=
  let s1 := performAll (fun n => sliceOf s n.va == b) s
  let gone := s1.mem.llc.filter fun l => sliceOf s1 (l.line * 256) == b
  let s2 := gone.foldl retireLine s1
  let s3 := s2.setMem { s2.mem with translations := [] }
  s3.setPkg { s3.pkg with retired := s3.pkg.retired ++ [b] }

/-- The task of a message that stands in a mailbox is over but for its end, and has taken the message with it. -/
def Launch.spoken (l : Launch) (m : Message) : Bool :=
  match l.tasks.find m.key with
  | some t => t.fate == .live || t.fate == .halted || t.fate == .failed
  | none => false

/-- Messages of a fenced bench's ranks go to quarantine, and the ranks become INVALID (R145); the messages of tasks that have
failed leave with their tasks. Capsules on their way to such a rank, wherever they are, and messages of the device that it would
have received, go the same way (R199, R207). -/
def revokeRanks (s : State) (launch bench : Nat) : State :=
  let l := s.launch launch
  let mine := (List.range l.rankCount).filter fun r => (l.rank r).st != rankInvalid && (l.rank r).bench == bench
  let s1 := mine.foldl
    (fun s r =>
      let l := s.launch launch
      let box := l.mailboxes.get r []
      let ms := box.filter (fun m => !l.spoken m) ++ l.overflow.get r []
      let s1 := ms.foldl (fun s m => messageGone launch (freeBody (quarantine s launch m 2 none) bench m) m) s
      let l1 := s1.launch launch
      s1.setLaunch launch
        { l1 with
          mailboxes := l1.mailboxes.put r (box.filter l.spoken), overflow := l1.overflow.drop r
          ranks := l1.ranks.put r { l1.ranks.get r {} with st := rankInvalid } }) s
  let capsules := (idleCapsules s1 launch).filter fun m => mine.contains m.dest
  drainAll launch (takeCapsules (capsules.foldl (fun s m => quarantine s launch m 2 none) s1) launch capsules)

/-- The running tasks of a bench fail, each reported with cause BENCH_FENCED, and their siblings with GANG_ABORT (R142, R145). Such a
record names the launch's context, the task's message and the strand's PC; R39 speaks of the root and of all ones in words 1 and 2
for the records of class 6, which the model takes to be the one record of the bench (log 32). -/
def failTasksOn (s : State) (launch bench : Nat) : State :=
  ((s.launch launch).tasks.filter fun e => e.2.bench == bench).foldl
    (fun s e =>
      match lowestStrand s launch e.1, e.2.fate with
      | some f, _ => abortTask s { first := f, info := { cause := .benchFenced }, fail := true }
      | none, .halted =>
        failLaunch (setFate (taskRecord .benchFenced { failed := true } s launch e.1 e.2) launch e.1 .failed) launch
      | none, _ => s) s

/-- The root of the partition that holds a bench. -/
def benchRoots (s : State) (b : Nat) : List Nat :=
  (s.ctl.ctxs.filter fun e => e.2.parent == Config.deviceCtx && (match e.2.benches with
    | some r => r.has (b % 32) (b / 32)
    | none => false)).map (·.1)

/-- A strand on a bench performs a context operation: its task does not end before that is over (R51). -/
def operating (s : State) (bench : Nat) : Bool := (upFrom (bench * 64) 64).any fun k => inCtxOp s (focusOfKey k)

/-- BENCH_FENCE at the bench that State.cur names, once no strand of it performs a context operation (R51, log 108) and its slice can
perform what it has accepted (R85). -/
def benchFence (s : State) : State :=
  let b := s.cur.bench
  if !s.mgc.mainOn || !benchLive s.pkg b || operating s b || sliceWaits s b then s
  else
    let s1 :=
      match launchOn s b with
      | none => s
      | some k =>
        let s2 := failTasksOn s k b
        let s3 := revokeRanks s2 k b
        let s4 := clearBench s3 k b
        s4.setLaunch k { s4.launch k with fenced := true }
    let s5 := retireSlice s1 b
    let s6 := s5.setPkg { s5.pkg with fenced := addRising b s5.pkg.fenced }
    let s7 := postClass6 s6 { cause := .benchFenced } (benchRoots s b) (place 16 5 (b % 32) ||| place 8 4 (b / 32))
    pageChanged s7

def execBenchFence (s : State) : Out := .next (benchFence s)

/-! ## CXL loss and errors (R16, R94, R95) -/

/-- Partition roots with a range in a window. -/
def windowRoots (s : State) (lo hi : Nat) : List Nat :=
  ((s.ctl.ranges.filter fun e => !e.2.derived && decide (e.2.phys.1 ≤ hi) && decide (lo ≤ e.2.phys.2)).map (·.2.owner)).eraseDups

/-- CXL_DEVICE_LOSS: the port stays down until the next reset. -/
def cxlDeviceLoss (port : Nat) (s : State) : State :=
  let down := if port = 0 then s.pkg.cxl0Down else s.pkg.cxl1Down
  let size := if port = 0 then s.pkg.cxl0 else s.pkg.cxl1
  if !s.mgc.mainOn || down || size = 0 then s
  else
    let lo := cxlBase port
    let hi := lo + 0x3FFFFFFFFFF
    let hit (l : LlcLine) : Bool := decide (lo ≤ l.phys * 256) && decide (l.phys * 256 ≤ hi) && l.dirty != 0
    let lost := s.mem.llc.filter hit
    let s1 := s.setMem { s.mem with
      llc := s.mem.llc.map fun l => if hit l then { l with poison := l.poison ||| l.dirty } else l }
    let s2 := s1.setPkg { s1.pkg with cxl0Down := s1.pkg.cxl0Down || port == 0, cxl1Down := s1.pkg.cxl1Down || port != 0 }
    let owners := (lost.map (·.owner)).eraseDups
    let s3 := owners.foldl
      (fun s o =>
        match lost.find? fun l => l.owner == o with
        | some l => ownerRecord s o (l.line * 256 + 32 * firstSector l.dirty)
        | none => s) s2
    pageChanged (postClass6 s3 { cause := .portDown } (windowRoots s lo hi) 0)

def execCxlDeviceLoss (port : Fin 2) (s : State) : Out := .next (cxlDeviceLoss port.val s)

/-- An error in a sector of the LLC: a clean one is fetched again, a dirty one is poisoned, and its page's owner is told. -/
def llcError (s : State) (va : Nat) : State :=
  match llcFind s va with
  | none => s
  | some l =>
    let i := va % 256 / 32
    if !l.valid.getLsbD i then s
    else if l.dirty.getLsbD i then
      ownerRecord (s.setMem (llcPut s.mem { l with poison := setBit l.poison i true })) l.owner (va / 32 * 32)
    else s.setMem (llcPut s.mem { l with valid := setBit l.valid i false, again := setBit l.again i true })

/-- UNCORRECTABLE_ERROR (R95). -/
def uncorrectableError (u : ErrorUnit) (s : State) : State :=
  match u with
  | .llc va => llcError s va
  | .memory pa =>
    if unscrubbed s.mem (pa / 256) then s else s.setMem { s.mem with poison := addRising (pa / 32) s.mem.poison }
  | .scratchpad b seat off =>
    let k := b * 8 + seat
    if off < Config.spadBytes then
      s.setCore k { s.core k with spadPoison := addRising (off / 8) (s.core k).spadPoison }
    else s
  | .benchMemory b off =>
    if off < Config.benchMemBytes then s.setBench b { s.bench b with poison := addRising (off / 8) (s.bench b).poison } else s
  | .interface b => s.setBench b { s.bench b with badTable := true }
  | .shelf b seat off =>
    let k := b * 8 + seat
    if off < Config.shelfBytes then
      s.setCore k { s.core k with shelfPoison := addRising (off / 8) (s.core k).shelfPoison }
    else s

def execUncorrectableError (u : ErrorUnit) (s : State) : Out := .next (uncorrectableError u s)

/-- SOFT_ERROR_CORRECTED (R94): its only trace is event 13 of the bench. -/
def softErrorCorrected (s : State) : State :=
  let b := s.curBench
  s.setCurBench { b with softErrors := b.softErrors + 1 }

def execSoftErrorCorrected (s : State) : Out := .next (softErrorCorrected s)

/-! ## Scrubbing (R58) -/

/-- The next line that a scrub still owes, past those that are done. -/
def advanceScrub (c : Scrub) : Nat → Scrub
  | 0 => c
  | n + 1 =>
    if c.touched.contains c.next then
      advanceScrub { c with next := c.next + 1, touched := c.touched.filter (· != c.next) } n
    else c

/-- SCRUB_LINE: an unscrubbed physical line is zeroed. -/
def scrubLine (line : Nat) (s : State) : State :=
  if !unscrubbed s.mem line then s
  else
    let m := memWrite s.mem (line * 256) (List.replicate 256 0)
    s.setMem { m with
      scrubs := (m.scrubs.map fun c => advanceScrub c c.touched.length).filter fun c => decide (c.next ≤ c.hi) }

def execScrubLine (line : Nat) (s : State) : Out := .next (scrubLine line s)

end Sys2Proof.Machine
end

