-- ==== Sys2Proof/Machine/Management.lean ====
section
/-! DEFINITION. The management port (R44 to R46) and the device information page (R30). -/

namespace Sys2Proof.Machine

/-! ## The device information page (R30) -/

/-- The attached capacity that a CXL port shows. -/
def shownCxl (size : Nat) (down : Bool) : Word := if down then 0 else BitVec.ofNat 64 size

/-- The byte of a Trobin link: the width it has trained at while it is up, else the lanes that the boot has left it, which the spec
leaves open (R11, R30, log 19). -/
def linkByte (s : State) (n : Nat) : Nat :=
  let l := s.link n
  (if l.up then l.lanes else s.pkg.lanesOf n) % 16 + 128 * l.up.toNat

/-- A word of the page, at an offset from 0x1_0000. -/
def pageWord (s : State) (off : Nat) : Word :=
  let p := s.pkg
  let linkWord (first : Nat) : Word := BitVec.ofNat 64 (bytesToNat ((upFrom first 8).map fun n => BitVec.ofNat 8 (linkByte s n)))
  let fw := Config.imageVersions (bootImage s.mgc)
  match off with
  | 0x00 => place 32 8 1 ||| place 0 32 0x4B374449
  | 0x08 => p.change
  | 0x10 => place 16 9 p.fenced.length ||| place 8 4 Config.rows ||| place 0 6 p.columns.length
  | 0x18 => place 0 9 p.hbm
  | 0x20 => BitVec.ofNat 64 (hbmTop p)
  | 0x28 => place 0 6 p.lp
  | 0x30 => BitVec.ofNat 64 (lpTop p)
  | 0x38 => shownCxl p.cxl0 p.cxl0Down
  | 0x40 => shownCxl p.cxl1 p.cxl1Down
  | 0x48 => place 8 8 p.hostRate ||| place 0 5 p.hostLanes
  | 0x50 => linkWord 0
  | 0x58 => linkWord 8
  | 0x60 => fw.1
  | 0x68 => fw.2
  | 0x70 => Config.fusedSecurity.setWidth 64
  | 0x78 => (partsUsed s).foldl (fun w n => w ||| place n 1 1) 0
  | _ =>
    if 0x80 ≤ off && off < 0xC0 then p.fenced.foldl (fun w b => if b / 64 == (off - 0x80) / 8 then w ||| place (b % 64) 1 1 else w) 0
    else 0

/-- A word of the page as it is read: zero until it is published (R30, R43). -/
def pageWordNow (s : State) (off : Nat) : Word := if s.pkg.published then pageWord s off else 0

/-- A word of the unassigned VF list, at an offset from 0x2_0000 (R30). -/
def vfListWord (s : State) (off : Nat) : Word :=
  if !s.pkg.published then 0
  else if off < 0x18 then s.ctl.vfFree.foldl (fun w n => if (n - 1) / 64 == off / 8 then w ||| place ((n - 1) % 64) 1 1 else w) 0
  else if off = 0x18 then place 0 8 s.ctl.vfFree.length
  else 0

/-! ## Reads of a function's BAR0 (R29) -/

/-- Bytes of BAR0: 1 MiB on the PF, 64 KiB on a VF. -/
def barBytes (fn : Nat) : Nat := if fn = 0 then 0x100000 else 0x10000

/-- The aligned 64-bit word at an offset: the function page, and on the PF the device information page and the VF list. -/
def barWord (s : State) (fn offset : Nat) : Word :=
  if offset < 0x10000 then pageRead s fn offset
  else if offset < 0x20000 then pageWordNow s (offset - 0x10000)
  else if offset < 0x30000 then vfListWord s (offset - 0x20000)
  else 0

/-- An offset of the MSI-X table or of the pending bits, which accept accesses of 32 bits. -/
def msixArea (fn offset : Nat) : Bool :=
  (decide (0x1000 ≤ offset) && decide (offset < 0x1000 + 16 * vectorCount fn)) || (decide (0x1800 ≤ offset) && decide (offset < 0x1808))

/-- What a host read of some bytes returns; one of a wrong size or alignment, and one that reaches no register, all ones. -/
def hostRead (s : State) (fn offset size : Nat) : Word :=
  if !hostReach s fn || barBytes fn ≤ offset then BitVec.allOnes 64
  else if size = 8 && offset % 8 = 0 then barWord s fn offset
  else if size = 4 && offset % 4 = 0 && msixArea fn offset then
    (barWord s fn (offset / 8 * 8) >>> (8 * (offset % 8))) &&& 0xFFFFFFFF
  else BitVec.allOnes 64

/-! ## Frames (R45) -/

/-- Response status codes. -/
def mgOk : Nat := 0
def mgBad : Nat := 1
def mgBusy : Nat := 2
def mgAuth : Nat := 3
def mgExhausted : Nat := 4

/-- Commands that change state, and those that a boot ROM in recovery serves. -/
def mgChanges (code : Nat) : Bool := [0x06, 0x07, 0x08, 0x09, 0x0A, 0x0B, 0x0D, 0x0E].contains code
def mgRecovery (code : Nat) : Bool := [0x01, 0x0F, 0x0D, 0x0E, 0x09].contains code

/-- A response: its header, the status byte and the fields. -/
def response (code : Nat) (f : MgmtFrame) (status : Nat) (fields : List Byte) : List Byte :=
  let body := BitVec.ofNat 8 status :: (if status = mgOk then fields else [])
  natToBytes (body.length + 2 ^ 16 * f.seq.toNat + 2 ^ 24 * code) 4 ++ body

/-- A response goes out. -/
def respond (s : State) (code : Nat) (f : MgmtFrame) (status : Nat) (fields : List Byte) : State :=
  s.setMgc { s.mgc with responses := response code f status fields :: s.mgc.responses }

/-- A command that changes state is in execution: what it does is done, and its answer goes out when it ends (R45, log 67). -/
def answerAtEnd (s : State) (code : Nat) (f : MgmtFrame) (status : Nat) (fields : List Byte) : State :=
  s.setMgc { s.mgc with executing := some (response code f status fields) }

/-- The command in execution ends. -/
def managementEnd (s : State) : State :=
  match s.mgc.executing with
  | some r => s.setMgc { s.mgc with executing := none, responses := r :: s.mgc.responses }
  | none => s

/-- The header of a request; its length counts the body without the tag. -/
def requestHeader (code : Nat) (f : MgmtFrame) : List Byte :=
  natToBytes (f.body.length % 2 ^ 16 + 2 ^ 16 * f.seq.toNat + 2 ^ 24 * code) 4

/-- The counter that opens a state-changing command over Ethernet. -/
def frameCounter (f : MgmtFrame) : Nat := bytesToNat (f.body.take 8)

/-- The highest counter accepted under a key. -/
def Mgc.highest (m : Mgc) (k : BitVec 384) : Option Word := (m.counters.find? fun e => e.1 == k).map (·.2)

/-- A counter accepted under the present key. -/
def Mgc.accept (m : Mgc) (n : Word) : Mgc :=
  match m.key with
  | some k => { m with counters := (k, n) :: m.counters.filter fun e => e.1 != k }
  | none => m

/-- The tag and the counter of a state-changing command over Ethernet are valid: the counter exceeds every one accepted under the
same key. -/
def authentic (s : State) (code : Nat) (f : MgmtFrame) : Bool :=
  match s.mgc.key, f.tag with
  | some k, some tag =>
    tag == hmac384 k (requestHeader code f ++ f.body) && decide (8 ≤ f.body.length)
      && (s.mgc.highest k).all fun n => decide (n.toNat < frameCounter f)
  | _, _ => false

/-- A management command: recovery, authority, a command in execution and length are checked, in this order, and then `go` acts on
the request body and gives the status and fields of the answer; a command that changes state is then in execution (log 67). A
counter that passes counts as accepted whatever the answer, BAD_COMMAND included, but for BUSY (log 85). -/
def manage (code : Nat) (f : MgmtFrame) (fits : Nat → Bool) (go : List Byte → State → State × Nat × List Byte) (s : State) : State :=
  let sealed := f.ethernet && mgChanges code
  if !s.mgc.standby then s
  else if s.mgc.boot = .recovery && !mgRecovery code then respond s code f mgBad []
  else if sealed && !authentic s code f then respond s code f mgAuth []
  else if mgChanges code && s.mgc.executing.isSome then respond s code f mgBusy []
  else
    let s1 := if sealed then s.setMgc (s.mgc.accept (BitVec.ofNat 64 (frameCounter f))) else s
    let body := if sealed then f.body.drop 8 else f.body
    if !fits body.length then respond s1 code f mgBad []
    else
      let r := go body s1
      if mgChanges code then answerAtEnd r.1 code f r.2.1 r.2.2 else respond r.1 code f r.2.1 r.2.2

/-- A command without request fields. -/
def noBody (n : Nat) : Bool := n == 0

/-! ## Commands that report -/

/-- Bytes cut or filled to a length. -/
def fixed (n : Nat) (bs : List Byte) : List Byte := bs.take n ++ List.replicate (n - bs.length) 0

def execIdent (f : MgmtFrame) (s : State) : Out :=
  .next (manage 0x01 f noBody
    (fun _ s1 =>
      let fw := Config.imageVersions (bootImage s1.mgc)
      (s1, mgOk, fixed 16 Config.partNumber ++ fixed 16 Config.serialNumber ++ wordsToBytes [fw.1, fw.2]
        ++ [Config.fusedSecurity])) s)

def execLive (f : MgmtFrame) (s : State) : Out :=
  .next (manage 0x02 f noBody
    (fun _ s1 => (s1, mgOk, wordsToBytes ((List.range 512).map fun i => pageWordNow s1 (8 * i)))) s)

/-- SENSORS: readings of the part, which are free unless a trip has recorded one (log 6). -/
def execSensors (f : MgmtFrame) (s : State) : Out :=
  .next (manage 0x03 f noBody
    (fun _ s1 =>
      let k := s1.fresh
      let die (i : Nat) : BitVec 16 := s1.mgc.readings.get i ((Config.sensorWord (k + i)).setWidth 16)
      (spendFresh s1 12, mgOk, (List.range 10).flatMap (fun i => natToBytes (die i).toNat 2)
        ++ natToBytes (Config.sensorWord (k + 10)).toNat 4 ++ natToBytes (Config.sensorWord (k + 11)).toNat 4)) s)

/-- A trip record (R46). -/
def tripBytes (t : Trip) : List Byte :=
  [t.cause, t.die] ++ natToBytes t.reading.toNat 2 ++ natToBytes t.entry.toNat 4 ++ List.replicate 8 0

def execTriplog (f : MgmtFrame) (s : State) : Out :=
  .next (manage 0x04 f noBody (fun _ s1 => (s1, mgOk, fixed 256 (s1.mgc.trips.flatMap tripBytes))) s)

def execPwrget (f : MgmtFrame) (s : State) : Out :=
  .next (manage 0x05 f noBody (fun _ s1 => (s1, mgOk, natToBytes s1.mgc.powerCap 2)) s)

/-- What a report is made of (R44): the live-unit counts are those of benches, channels and lanes (R11), and the partition map is the
word DI_PARTS (R30). The spec gives no layout: this order and these widths are the model's (log 112). -/
def reportContents (s : State) (nonce : List Byte) : List Byte :=
  let image := bootImage s.mgc
  let images := image :: (List.range 3).map fun i => Config.microcode i image
  fixed 16 Config.partNumber ++ fixed 16 Config.serialNumber ++ images.flatMap sha384
    ++ [Config.fusedSecurity] ++ wordsToBytes ([0x10, 0x18, 0x28, 0x48, 0x50, 0x58, 0x78].map (pageWord s)) ++ nonce
    ++ natToBytes s.mgc.reports 8

/-- ATTEST: the HSS key gives 2^30 signatures (R44). -/
def execAttest (f : MgmtFrame) (s : State) : Out :=
  .next (manage 0x0C f (· == 32)
    (fun nonce s1 =>
      if 2 ^ 30 ≤ s1.mgc.hssUsed then (s1, mgExhausted, [])
      else
        let s2 := s1.setMgc { s1.mgc with reports := s1.mgc.reports + 1, hssUsed := s1.mgc.hssUsed + 1 }
        let report := Config.signedReport (reportContents s2 nonce)
        (s2, mgOk, natToBytes report.length 4 ++ report)) s)

/-- An entry of the event log (R46). -/
def logBytes (e : LogEntry × Nat) : List Byte :=
  natToBytes e.2 4 ++ natToBytes e.1.code.toNat 2 ++ natToBytes e.1.result.toNat 2 ++ natToBytes e.1.detail.toNat 8

def execEvlog (f : MgmtFrame) (s : State) : Out :=
  .next (manage 0x0F f (· == 4)
    (fun body s1 =>
      let first := bytesToNat body
      let entries := ((s1.mgc.log.zip (List.range s1.mgc.log.length)).drop first).take 4000
      (s1, mgOk, natToBytes entries.length 2 ++ entries.flatMap logBytes)) s)

/-! ## Commands that change state -/

/-- PWRSET: 600 to 2,200 W in 25 W steps. -/
def execPwrset (f : MgmtFrame) (s : State) : Out :=
  .next (manage 0x06 f (· == 2)
    (fun body s1 =>
      let w := bytesToNat body
      if w < 600 || 2200 < w || (w - 600) % 25 != 0 then (s1, mgBad, [])
      else (s1.setMgc { s1.mgc with powerCap := w }, mgOk, [])) s)

/-- MAINON: from step 3 of R43; a main domain that is on stays as it is. -/
def execMainon (f : MgmtFrame) (t : BootTest) (s : State) : Out :=
  .next (manage 0x07 f noBody (fun _ s1 => (if s1.mgc.mainOn then s1 else bootMain s1 t, mgOk, [])) s)

def execMainoff (f : MgmtFrame) (s : State) : Out := .next (manage 0x08 f noBody (fun _ s1 => (switchOff s1, mgOk, [])) s)

/-- RESET: the main domain off, then R43 from step 2 with the image that is marked. -/
def resetDevice (s : State) (t : BootTest) : State :=
  let s1 := switchOff s
  bootRom (s1.setMgc { s1.mgc with image := s1.mgc.marked.getD s1.mgc.image, marked := none }) t

def execReset (f : MgmtFrame) (t : BootTest) (s : State) : Out :=
  .next (manage 0x09 f noBody (fun _ s1 => (resetDevice s1 t, mgOk, [])) s)

/-- LINKUP and LINKDOWN: a link number from 0 to 15; without the main domain there is no link to move. -/
def manageLink (code : Nat) (f : MgmtFrame) (go : State → Nat → State) (s : State) : State :=
  manage code f (· == 1)
    (fun body s1 =>
      let n := bytesToNat body
      if 16 ≤ n then (s1, mgBad, []) else (if s1.mgc.mainOn then go s1 n else s1, mgOk, [])) s

def execMgmtLinkup (f : MgmtFrame) (s : State) : Out := .next (manageLink 0x0A f bringUp s)
def execMgmtLinkdown (f : MgmtFrame) (s : State) : Out := .next (manageLink 0x0B f dropLink s)

/-- FWSTAGE: a chunk of 1 to 4,096 bytes at a multiple of 4,096. -/
def execFwstage (f : MgmtFrame) (s : State) : Out :=
  .next (manage 0x0D f (fun n => decide (5 ≤ n) && decide (n ≤ 4100))
    (fun body s1 =>
      let off := bytesToNat (body.take 4)
      if off % 4096 != 0 then (s1, mgBad, [])
      else (s1.setMgc { s1.mgc with staging := cellWrites s1.mgc.staging off (body.drop 4) }, mgOk, [])) s)

/-- FWACTIVATE: the staged image is verified and marked for the next RESET. -/
def execFwactivate (f : MgmtFrame) (s : State) : Out :=
  .next (manage 0x0E f (· == 4)
    (fun body s1 =>
      let image := cellBytes s1.mgc.staging 0 (bytesToNat body)
      if imageVerifies image then (s1.setMgc { s1.mgc with marked := some image }, mgOk, []) else (s1, mgAuth, [])) s)

/-- MGMT_BAD_COMMAND: a code that no command has. -/
def execMgmtBadCommand (code : BitVec 8) (f : MgmtFrame) (s : State) : Out :=
  .next
    (if !s.mgc.standby || (decide (1 ≤ code.toNat) && decide (code.toNat ≤ 15)) then s
     else respond s code.toNat f mgBad [])

end Sys2Proof.Machine
end

