-- ==== Sys2Proof/Machine/Scalar.lean ====
section
/-! DEFINITION. Scalar integer instructions, opcodes 0x01 to 0x29 (R250 to R256). -/

namespace Sys2Proof.Machine

/-- D from A and B (R250): sources are read in the order A, B (R249). -/
def alu3 (f : Slot) (s : State) (op : Word → Word → Word) : State :=
  issueD f s fun _ s0 => (readSel f.a s0).andThen fun a s1 => (readSel f.b s1).andThen fun b s2 => .ok (op a b) s2

/-- D from A and the sign-extended IMM32 (R251). -/
def aluImm (f : Slot) (s : State) (op : Word → Word → Word) : State :=
  issueD f s fun _ s0 => (readSel f.a s0).andThen fun a s1 => .ok (op a (sext32 f)) s1

/-- D from A shifted by IMM32, which a decode check holds to 0 to 63 (R251). -/
def aluShift (f : Slot) (s : State) (op : Word → Nat → Word) : State :=
  issueD f s fun _ s0 =>
    (readSel f.a s0).andThen fun a s1 => .ok (op a (imm32 f)) s1

/-- D from A (R252). -/
def alu1 (f : Slot) (s : State) (op : Word → Word) : State :=
  issueD f s fun _ s0 => (readSel f.a s0).andThen fun a s1 => .ok (op a) s1

/-- Upper half of the exact signed and unsigned products (R223). -/
def mulHigh (a b : Word) : Word := BitVec.ofInt 64 (a.toInt * b.toInt / 2 ^ 64)
def mulHighU (a b : Word) : Word := BitVec.ofNat 64 (a.toNat * b.toNat / 2 ^ 64)

/-- Quotients and remainders (R223): toward zero; all ones and the dividend for a zero divisor. -/
def divSigned (a b : Word) : Word := if b = 0 then BitVec.allOnes 64 else BitVec.ofInt 64 (a.toInt.tdiv b.toInt)
def divUnsigned (a b : Word) : Word := if b = 0 then BitVec.allOnes 64 else BitVec.ofNat 64 (a.toNat / b.toNat)
def remSigned (a b : Word) : Word := if b = 0 then a else BitVec.ofInt 64 (a.toInt.tmod b.toInt)
def remUnsigned (a b : Word) : Word := if b = 0 then a else BitVec.ofNat 64 (a.toNat % b.toNat)

/-- Shift and rotate counts are taken modulo 64 (R223, R250). -/
def shiftCount (b : Word) : Nat := b.toNat % 64

/-- Leading zeros, trailing zeros and one bits (R252). -/
def leadingZeros (a : Word) : Word := BitVec.ofNat 64 (64 - bitLen a.toNat)
def trailingZeros (a : Word) : Word := BitVec.ofNat 64 ((indexWhere (fun i => a.getLsbD i) (List.range 64)).getD 64)
def popCount (a : Word) : Word := BitVec.ofNat 64 ((List.range 64).filter fun i => a.getLsbD i).length

/-- The eight bytes in reverse order (R252). -/
def byteSwap (a : Word) : Word := BitVec.ofNat 64 (bytesToNat (natToBytes a.toNat 8).reverse)

/-- Zero- and sign-extended bit fields (R253). -/
def extractZext (a : Word) (p l : Nat) : Word := BitVec.ofNat 64 (a.toNat / 2 ^ p % 2 ^ l)
def extractSext (a : Word) (p l : Nat) : Word := BitVec.ofInt 64 (signedOf l (a.toNat / 2 ^ p))

/-- `b` with a field replaced by the low bits of `a` (R253). -/
def insertField (a b : Word) (p l : Nat) : Word :=
  let mask : Word := BitVec.ofNat 64 ((2 ^ l - 1) * 2 ^ p)
  (b &&& ~~~ mask) ||| ((a <<< p) &&& mask)

/-- Position and length of a BFX or BFI (R253). -/
def fieldPos (f : Slot) : Nat := immField f 0 6
def fieldLen (f : Slot) : Nat := immField f 6 6 + 1

def execAdd (f : Slot) (s : State) : Out := .next (alu3 f s fun a b => a + b)
def execAddi (f : Slot) (s : State) : Out := .next (aluImm f s fun a b => a + b)
def execSub (f : Slot) (s : State) : Out := .next (alu3 f s fun a b => a - b)
def execMul (f : Slot) (s : State) : Out := .next (alu3 f s fun a b => a * b)
def execMulh (f : Slot) (s : State) : Out := .next (alu3 f s mulHigh)
def execMulhu (f : Slot) (s : State) : Out := .next (alu3 f s mulHighU)
def execDiv (f : Slot) (s : State) : Out := .next (alu3 f s divSigned)
def execDivu (f : Slot) (s : State) : Out := .next (alu3 f s divUnsigned)
def execRem (f : Slot) (s : State) : Out := .next (alu3 f s remSigned)
def execRemu (f : Slot) (s : State) : Out := .next (alu3 f s remUnsigned)
def execAnd (f : Slot) (s : State) : Out := .next (alu3 f s fun a b => a &&& b)
def execAndi (f : Slot) (s : State) : Out := .next (aluImm f s fun a b => a &&& b)
def execOr (f : Slot) (s : State) : Out := .next (alu3 f s fun a b => a ||| b)
def execOri (f : Slot) (s : State) : Out := .next (aluImm f s fun a b => a ||| b)
def execXor (f : Slot) (s : State) : Out := .next (alu3 f s fun a b => a ^^^ b)
def execXori (f : Slot) (s : State) : Out := .next (aluImm f s fun a b => a ^^^ b)
def execShl (f : Slot) (s : State) : Out := .next (alu3 f s fun a b => a <<< shiftCount b)
def execShli (f : Slot) (s : State) : Out := .next (aluShift f s fun a n => a <<< n)
def execShr (f : Slot) (s : State) : Out := .next (alu3 f s fun a b => a >>> shiftCount b)
def execShri (f : Slot) (s : State) : Out := .next (aluShift f s fun a n => a >>> n)
def execSra (f : Slot) (s : State) : Out := .next (alu3 f s fun a b => a.sshiftRight (shiftCount b))
def execSrai (f : Slot) (s : State) : Out := .next (aluShift f s fun a n => a.sshiftRight n)
def execRol (f : Slot) (s : State) : Out := .next (alu3 f s fun a b => a.rotateLeft (shiftCount b))
def execMin (f : Slot) (s : State) : Out := .next (alu3 f s fun a b => if b.slt a then b else a)
def execMinu (f : Slot) (s : State) : Out := .next (alu3 f s fun a b => if b.ult a then b else a)
def execMax (f : Slot) (s : State) : Out := .next (alu3 f s fun a b => if a.slt b then b else a)
def execMaxu (f : Slot) (s : State) : Out := .next (alu3 f s fun a b => if a.ult b then b else a)
def execClz (f : Slot) (s : State) : Out := .next (alu1 f s leadingZeros)
def execCtz (f : Slot) (s : State) : Out := .next (alu1 f s trailingZeros)
def execPopc (f : Slot) (s : State) : Out := .next (alu1 f s popCount)
def execBswap (f : Slot) (s : State) : Out := .next (alu1 f s byteSwap)

/-- BFX and BFX.sx (R253). -/
def execBfx (f : Slot) (s : State) : Out :=
  .next (issueD f s fun _ s0 =>
    (readSel f.a s0).andThen fun a s1 =>
      .ok (if f.m == 1 then extractSext a (fieldPos f) (fieldLen f) else extractZext a (fieldPos f) (fieldLen f)) s1)

/-- BFI (R253). -/
def execBfi (f : Slot) (s : State) : Out :=
  .next (issueD f s fun _ s0 =>
    (readSel f.a s0).andThen fun a s1 => (readSel f.b s1).andThen fun b s2 =>
      .ok (insertField a b (fieldPos f) (fieldLen f)) s2)

/-- SEL (R255): both sources are read. -/
def execSel (f : Slot) (s : State) : Out :=
  .next (issueD f s fun t s0 =>
    (readSel f.a s0).andThen fun a s1 => (readSel f.b s1).andThen fun b s2 =>
      .ok (if t.k (selNum f.c) then a else b) s2)

/-- CMP and CMPI (R254). -/
def execCmp (f : Slot) (s : State) : Out :=
  .next (issueD f s fun _ s0 =>
    (readSel f.a s0).andThen fun a s1 => (readSel f.b s1).andThen fun b s2 =>
      .ok (if intCond f.m.toNat a b then 1 else 0) s2)
def execCmpi (f : Slot) (s : State) : Out :=
  .next (issueD f s fun _ s0 =>
    (readSel f.a s0).andThen fun a s1 => .ok (if intCond f.m.toNat a (sext32 f) then 1 else 0) s1)

/-- LI, LIH and LEA (R256). -/
def execLi (f : Slot) (s : State) : Out := .next (issueD f s fun _ s0 => .ok (f.imm.signExtend 64) s0)
def execLih (f : Slot) (s : State) : Out :=
  .next (issueD f s fun t s0 =>
    .ok ((xOf t f.d &&& 0xFFFFFFFFFFFF) ||| (f.imm.setWidth 64 <<< 48)) s0)
def execLea (f : Slot) (s : State) : Out :=
  .next (issueD f s fun _ s0 =>
    (readSel f.a s0).andThen fun a s1 => (readSel f.b s1).andThen fun b s2 =>
      .ok (a + (b <<< f.m.toNat) + sext32 f) s2)

/-- MOV (R255). -/
def execMov (f : Slot) (s : State) : Out := .next (issueD f s fun _ s0 => readSel f.a s0)

/-- The operations of KLOG (R255). -/
def predicateOp (m : Nat) (a b : Bool) : Bool :=
  match m with
  | 0 => a && b
  | 1 => a || b
  | 2 => a != b
  | 3 => a && !b
  | 4 => a || !b
  | _ => !a

def execKlog (f : Slot) (s : State) : Out :=
  .next (issueD f s fun t s0 =>
    .ok (if predicateOp f.m.toNat (t.k (selNum f.a)) (t.k (selNum f.b)) then 1 else 0) s0)

end Sys2Proof.Machine
end

