-- ==== Sys2Proof/Machine/ScalarFloat.lean ====
section
/-! DEFINITION. Scalar floating-point instructions, opcodes 0x30 to 0x3A (R257 to R261). -/

namespace Sys2Proof.Machine

/-- The format of a scalar floating instruction's TYPE (R257). -/
def scalarFmt (t : Ty) : Fmt := (fmtOf t).getD fmtF64

/-- The low bits of an operand that hold its value (R257). -/
def lowBits (fmt : Fmt) (w : Word) : Nat := w.toNat % 2 ^ fmt.bits

/-- A floating instruction's result and flags: written to D, ORed into the FCR (R217, R257). -/
def floatD (f : Slot) (s : State) (body : FpCtl → State → Res (Nat × Flags)) : State :=
  issueD f s fun t s0 =>
    (body (fpCtl t.fcr f.rnd) s0).andThen fun r s1 => .ok (BitVec.ofNat 64 r.1) (orFlags r.2 s1)

/-- Two floating sources. -/
def float2 (f : Slot) (s : State) (op : Fmt → FpCtl → Nat → Nat → Nat × Flags) : State :=
  let fmt := scalarFmt f.ty
  floatD f s fun c s0 =>
    (readSel f.a s0).andThen fun a s1 => (readSel f.b s1).andThen fun b s2 =>
      .ok (op fmt c (lowBits fmt a) (lowBits fmt b)) s2

/-- FDIV and FSQRT take an entry of the SFU request queue, which leaves when it is served (R173, R257); a full queue
makes the context wait. -/
def throughSfu (s : State) : Res Unit :=
  let c := s.curCore
  if 32 ≤ c.sfu.length then .wait .engineFull
  else .ok () (s.setCurCore { c with sfu := c.sfu ++ [{ hc := s.cur.hc }] })

def execFadd (f : Slot) (s : State) : Out := .next (float2 f s fpAdd)
def execFsub (f : Slot) (s : State) : Out := .next (float2 f s fpSub)
def execFmul (f : Slot) (s : State) : Out := .next (float2 f s fpMul)

def execFfma (f : Slot) (s : State) : Out :=
  let fmt := scalarFmt f.ty
  .next (floatD f s fun c s0 =>
    (readSel f.a s0).andThen fun a s1 => (readSel f.b s1).andThen fun b s2 => (readSel f.c s2).andThen fun x s3 =>
      .ok (fpFma fmt c (lowBits fmt a) (lowBits fmt b) (lowBits fmt x)) s3)

def execFdiv (f : Slot) (s : State) : Out :=
  let fmt := scalarFmt f.ty
  .next (floatD f s fun c s0 =>
    (readSel f.a s0).andThen fun a s1 => (readSel f.b s1).andThen fun b s2 => (throughSfu s2).andThen fun _ s3 =>
      .ok (fpDiv fmt c (lowBits fmt a) (lowBits fmt b)) s3)

def execFsqrt (f : Slot) (s : State) : Out :=
  let fmt := scalarFmt f.ty
  .next (floatD f s fun c s0 =>
    (readSel f.a s0).andThen fun a s1 => (throughSfu s1).andThen fun _ s2 => .ok (fpSqrt fmt c (lowBits fmt a)) s2)

def execFmin (f : Slot) (s : State) : Out := .next (float2 f s fun fmt c a b => minMaxFp fmt false c.daz a b)
def execFmax (f : Slot) (s : State) : Out := .next (float2 f s fun fmt c a b => minMaxFp fmt true c.daz a b)

/-- FCMP (R259). -/
def execFcmp (f : Slot) (s : State) : Out :=
  .next (float2 f s fun fmt c a b =>
    let r := fpCompare (floatCond f.m.toNat) (readFp fmt c.daz a) (readFp fmt c.daz b)
    (if r.1 then 1 else 0, r.2))

/-- One conversion of FCVT (R260): the 64 bits of D. -/
def scalarConvert (c : FpCtl) (src dst : Ty) (w : Nat) : Nat × Flags :=
  match fmtOf src, fmtOf dst with
  | some sf, some df => fpConvert sf df c (w % 2 ^ sf.bits)
  | some sf, none =>
    let r := intOfFp sf c (intBounds dst).1 (intBounds dst).2 (w % 2 ^ sf.bits)
    (wrapInt 64 r.1, r.2)
  | none, some df => fpOfInt df c (intLane src w)
  | none, none => (0, {})

/-- FCVT (R260). -/
def execFcvt (f : Slot) (s : State) : Out :=
  .next (floatD f s fun c s0 =>
    (readSel f.a s0).andThen fun a s1 => .ok (scalarConvert c (tyOfCode f.m.toNat) f.ty a.toNat) s1)

/-- The class of a value as the one bit set (R261). -/
def classBit (fmt : Fmt) (daz : Bool) (w : Nat) : Nat :=
  match readFp fmt daz w with
  | .inf n => if n then 0 else 7
  | .nan sig => if sig then 8 else 9
  | .fin n m _ =>
    if m = 0 then (if n then 3 else 4)
    else if isSubnormal fmt w then (if n then 2 else 5)
    else if n then 1 else 6

/-- FCLASS (R261). -/
def execFclass (f : Slot) (s : State) : Out :=
  let fmt := scalarFmt f.ty
  .next (issueD f s fun t s0 =>
    (readSel f.a s0).andThen fun a s1 =>
      .ok (BitVec.ofNat 64 (2 ^ classBit fmt (t.fcr.getLsbD 4) (lowBits fmt a))) s1)

end Sys2Proof.Machine
end

