-- ==== Sys2Proof/Machine/Dispatch.lean ====
section
/-! DEFINITION. What each instruction does: one arm for each row of the opcode table. -/

namespace Sys2Proof.Machine

def exec (i : Instr) (s : State) : Host.Outcome State Fault Refusal :=
  match i with
  | .standbyPowerOn t => Sys2Proof.Machine.execStandbyPowerOn t s
  | .thermalTrip die reading => Sys2Proof.Machine.execThermalTrip die reading s
  | .undervoltageTrip millivolts => Sys2Proof.Machine.execUndervoltageTrip millivolts s
  | .cxlDeviceLoss port => Sys2Proof.Machine.execCxlDeviceLoss port s
  | .uncorrectableError u => Sys2Proof.Machine.execUncorrectableError u s
  | .vfFunctionLevelReset fn => Sys2Proof.Machine.execVfFunctionLevelReset fn s
  | .commandSlotWrite fn slot word value => Sys2Proof.Machine.execCommandSlotWrite fn slot word value s
  | .ringControlWrite fn ring value => Sys2Proof.Machine.execRingControlWrite fn ring value s
  | .cplConsWrite fn value => Sys2Proof.Machine.execCplConsWrite fn value s
  | .frConsWrite fn value => Sys2Proof.Machine.execFrConsWrite fn value s
  | .qrConsWrite fn value => Sys2Proof.Machine.execQrConsWrite fn value s
  | .registerWrite fn offset size value => Sys2Proof.Machine.execRegisterWrite fn offset size value s
  | .hostCtxnew fn slot => Sys2Proof.Machine.execHostCtxnew fn slot s
  | .hostCtxgrant fn slot => Sys2Proof.Machine.execHostCtxgrant fn slot s
  | .hostCtxstart fn slot => Sys2Proof.Machine.execHostCtxstart fn slot s
  | .hostCtxstop fn slot => Sys2Proof.Machine.execHostCtxstop fn slot s
  | .hostCtxresume fn slot => Sys2Proof.Machine.execHostCtxresume fn slot s
  | .hostCtxrevoke fn slot => Sys2Proof.Machine.execHostCtxrevoke fn slot s
  | .hostCtxkill fn slot => Sys2Proof.Machine.execHostCtxkill fn slot s
  | .hostCtxquery fn slot => Sys2Proof.Machine.execHostCtxquery fn slot s
  | .partnew fn slot => Sys2Proof.Machine.execPartnew fn slot s
  | .partkill fn slot => Sys2Proof.Machine.execPartkill fn slot s
  | .mgmtkey fn slot => Sys2Proof.Machine.execMgmtkey fn slot s
  | .hostLinkup fn slot => Sys2Proof.Machine.execHostLinkup fn slot s
  | .hostLinkdown fn slot => Sys2Proof.Machine.execHostLinkdown fn slot s
  | .ping fn slot => Sys2Proof.Machine.execPing fn slot s
  | .hostBadCommand fn slot => Sys2Proof.Machine.execHostBadCommand fn slot s
  | .heldCompletionWrite fn => Sys2Proof.Machine.execHeldCompletionWrite fn s
  | .faultRecordDelivery fn => Sys2Proof.Machine.execFaultRecordDelivery fn s
  | .quarantineItemWrite fn => Sys2Proof.Machine.execQuarantineItemWrite fn s
  | .ident f => Sys2Proof.Machine.execIdent f s
  | .live f => Sys2Proof.Machine.execLive f s
  | .sensors f => Sys2Proof.Machine.execSensors f s
  | .triplog f => Sys2Proof.Machine.execTriplog f s
  | .pwrget f => Sys2Proof.Machine.execPwrget f s
  | .pwrset f => Sys2Proof.Machine.execPwrset f s
  | .mainon f t => Sys2Proof.Machine.execMainon f t s
  | .mainoff f => Sys2Proof.Machine.execMainoff f s
  | .reset f t => Sys2Proof.Machine.execReset f t s
  | .mgmtLinkup f => Sys2Proof.Machine.execMgmtLinkup f s
  | .mgmtLinkdown f => Sys2Proof.Machine.execMgmtLinkdown f s
  | .attest f => Sys2Proof.Machine.execAttest f s
  | .fwstage f => Sys2Proof.Machine.execFwstage f s
  | .fwactivate f => Sys2Proof.Machine.execFwactivate f s
  | .evlog f => Sys2Proof.Machine.execEvlog f s
  | .mgmtBadCommand code f => Sys2Proof.Machine.execMgmtBadCommand code f s
  | .flitReceived link flit => Sys2Proof.Machine.execFlitReceived link flit s
  | .retryRequest link seq => Sys2Proof.Machine.execRetryRequest link seq s
  | .linkRetrain link passing => Sys2Proof.Machine.execLinkRetrain link passing s
  | .linkDown link => Sys2Proof.Machine.execLinkDown link s
  | .messageArrival bench index => Sys2Proof.Machine.execMessageArrival bench index s
  | .taskEnd launch task => Sys2Proof.Machine.execTaskEnd launch task s
  | .controlNodeEvaluation launch => Sys2Proof.Machine.execControlNodeEvaluation launch s
  | .launchComplete launch => Sys2Proof.Machine.execLaunchComplete launch s
  | .stopComplete ctx => Sys2Proof.Machine.execStopComplete ctx s
  | .killComplete ctx => Sys2Proof.Machine.execKillComplete ctx s
  | .scrubLine line => Sys2Proof.Machine.execScrubLine line s
  | .fetchSelection launch region => Sys2Proof.Machine.execFetchSelection launch region s
  | .fillComplete launch region block => Sys2Proof.Machine.execFillComplete launch region block s
  | .fillFault launch region block => Sys2Proof.Machine.execFillFault launch region block s
  | .evictionDone launch region block => Sys2Proof.Machine.execEvictionDone launch region block s
  | .copyComplete bench index => Sys2Proof.Machine.execCopyComplete bench index s
  | .getxPlacexComplete bench index => Sys2Proof.Machine.execGetxPlacexComplete bench index s
  | .engineLateFault bench index => Sys2Proof.Machine.execEngineLateFault bench index s
  | .streamBatch bench session => Sys2Proof.Machine.execStreamBatch bench session s
  | .streamReadFault bench session => Sys2Proof.Machine.execStreamReadFault bench session s
  | .collectiveStepStart launch step => Sys2Proof.Machine.execCollectiveStepStart launch step s
  | .collectiveStepFinish launch step status parts => Sys2Proof.Machine.execCollectiveStepFinish launch step status parts s
  | .add f => Sys2Proof.Machine.execAdd f s
  | .addi f => Sys2Proof.Machine.execAddi f s
  | .sub f => Sys2Proof.Machine.execSub f s
  | .mul f => Sys2Proof.Machine.execMul f s
  | .mulh f => Sys2Proof.Machine.execMulh f s
  | .mulhu f => Sys2Proof.Machine.execMulhu f s
  | .div f => Sys2Proof.Machine.execDiv f s
  | .divu f => Sys2Proof.Machine.execDivu f s
  | .rem f => Sys2Proof.Machine.execRem f s
  | .remu f => Sys2Proof.Machine.execRemu f s
  | .and f => Sys2Proof.Machine.execAnd f s
  | .andi f => Sys2Proof.Machine.execAndi f s
  | .or f => Sys2Proof.Machine.execOr f s
  | .ori f => Sys2Proof.Machine.execOri f s
  | .xor f => Sys2Proof.Machine.execXor f s
  | .xori f => Sys2Proof.Machine.execXori f s
  | .shl f => Sys2Proof.Machine.execShl f s
  | .shli f => Sys2Proof.Machine.execShli f s
  | .shr f => Sys2Proof.Machine.execShr f s
  | .shri f => Sys2Proof.Machine.execShri f s
  | .sra f => Sys2Proof.Machine.execSra f s
  | .srai f => Sys2Proof.Machine.execSrai f s
  | .rol f => Sys2Proof.Machine.execRol f s
  | .min f => Sys2Proof.Machine.execMin f s
  | .minu f => Sys2Proof.Machine.execMinu f s
  | .max f => Sys2Proof.Machine.execMax f s
  | .maxu f => Sys2Proof.Machine.execMaxu f s
  | .clz f => Sys2Proof.Machine.execClz f s
  | .ctz f => Sys2Proof.Machine.execCtz f s
  | .popc f => Sys2Proof.Machine.execPopc f s
  | .bfx f => Sys2Proof.Machine.execBfx f s
  | .bfi f => Sys2Proof.Machine.execBfi f s
  | .bswap f => Sys2Proof.Machine.execBswap f s
  | .sel f => Sys2Proof.Machine.execSel f s
  | .cmp f => Sys2Proof.Machine.execCmp f s
  | .cmpi f => Sys2Proof.Machine.execCmpi f s
  | .li f => Sys2Proof.Machine.execLi f s
  | .lih f => Sys2Proof.Machine.execLih f s
  | .lea f => Sys2Proof.Machine.execLea f s
  | .mov f => Sys2Proof.Machine.execMov f s
  | .klog f => Sys2Proof.Machine.execKlog f s
  | .fadd f => Sys2Proof.Machine.execFadd f s
  | .fsub f => Sys2Proof.Machine.execFsub f s
  | .fmul f => Sys2Proof.Machine.execFmul f s
  | .ffma f => Sys2Proof.Machine.execFfma f s
  | .fdiv f => Sys2Proof.Machine.execFdiv f s
  | .fsqrt f => Sys2Proof.Machine.execFsqrt f s
  | .fmin f => Sys2Proof.Machine.execFmin f s
  | .fmax f => Sys2Proof.Machine.execFmax f s
  | .fcmp f => Sys2Proof.Machine.execFcmp f s
  | .fcvt f => Sys2Proof.Machine.execFcvt f s
  | .fclass f => Sys2Proof.Machine.execFclass f s
  | .nop f => Sys2Proof.Machine.execNop f s
  | .br f => Sys2Proof.Machine.execBr f s
  | .brx f => Sys2Proof.Machine.execBrx f s
  | .jmp f => Sys2Proof.Machine.execJmp f s
  | .call f => Sys2Proof.Machine.execCall f s
  | .ret f => Sys2Proof.Machine.execRet f s
  | .loop f => Sys2Proof.Machine.execLoop f s
  | .halt f => Sys2Proof.Machine.execHalt f s
  | .trapi f => Sys2Proof.Machine.execTrapi f s
  | .ld f => Sys2Proof.Machine.execLd f s
  | .st f => Sys2Proof.Machine.execSt f s
  | .ldw f => Sys2Proof.Machine.execLdw f s
  | .stf f => Sys2Proof.Machine.execStf f s
  | .pref f => Sys2Proof.Machine.execPref f s
  | .fence f => Sys2Proof.Machine.execFence f s
  | .cinv f => Sys2Proof.Machine.execCinv f s
  | .touch f => Sys2Proof.Machine.execTouch f s
  | .aadd f => Sys2Proof.Machine.execAadd f s
  | .aand f => Sys2Proof.Machine.execAand f s
  | .aor f => Sys2Proof.Machine.execAor f s
  | .axor f => Sys2Proof.Machine.execAxor f s
  | .amin f => Sys2Proof.Machine.execAmin f s
  | .amax f => Sys2Proof.Machine.execAmax f s
  | .axchg f => Sys2Proof.Machine.execAxchg f s
  | .acas f => Sys2Proof.Machine.execAcas f s
  | .afadd f => Sys2Proof.Machine.execAfadd f s
  | .afmin f => Sys2Proof.Machine.execAfmin f s
  | .afmax f => Sys2Proof.Machine.execAfmax f s
  | .send f => Sys2Proof.Machine.execSend f s
  | .sendm f => Sys2Proof.Machine.execSendm f s
  | .migrate f => Sys2Proof.Machine.execMigrate f s
  | .spawn f => Sys2Proof.Machine.execSpawn f s
  | .signal f => Sys2Proof.Machine.execSignal f s
  | .qlen f => Sys2Proof.Machine.execQlen f s
  | .capnew f => Sys2Proof.Machine.execCapnew f s
  | .capnext f => Sys2Proof.Machine.execCapnext f s
  | .capins f => Sys2Proof.Machine.execCapins f s
  | .capdel f => Sys2Proof.Machine.execCapdel f s
  | .capset f => Sys2Proof.Machine.execCapset f s
  | .capget f => Sys2Proof.Machine.execCapget f s
  | .capend f => Sys2Proof.Machine.execCapend f s
  | .chunk f => Sys2Proof.Machine.execChunk f s
  | .barinit f => Sys2Proof.Machine.execBarinit f s
  | .bararrive f => Sys2Proof.Machine.execBararrive f s
  | .barwait f => Sys2Proof.Machine.execBarwait f s
  | .barexp f => Sys2Proof.Machine.execBarexp f s
  | .clpost f => Sys2Proof.Machine.execClpost f s
  | .rankq f => Sys2Proof.Machine.execRankq f s
  | .ctxnew f => Sys2Proof.Machine.execCtxnew f s
  | .ctxgrant f => Sys2Proof.Machine.execCtxgrant f s
  | .ctxstart f => Sys2Proof.Machine.execCtxstart f s
  | .ctxstop f => Sys2Proof.Machine.execCtxstop f s
  | .ctxresume f => Sys2Proof.Machine.execCtxresume f s
  | .ctxrevoke f => Sys2Proof.Machine.execCtxrevoke f s
  | .ctxkill f => Sys2Proof.Machine.execCtxkill f s
  | .ctxquery f => Sys2Proof.Machine.execCtxquery f s
  | .sysrd f => Sys2Proof.Machine.execSysrd f s
  | .syswr f => Sys2Proof.Machine.execSyswr f s
  | .perfrd f => Sys2Proof.Machine.execPerfrd f s
  | .fcrw f => Sys2Proof.Machine.execFcrw f s
  | .vadd f => Sys2Proof.Machine.execVadd f s
  | .vsub f => Sys2Proof.Machine.execVsub f s
  | .vmul f => Sys2Proof.Machine.execVmul f s
  | .vfma f => Sys2Proof.Machine.execVfma f s
  | .vmin f => Sys2Proof.Machine.execVmin f s
  | .vmax f => Sys2Proof.Machine.execVmax f s
  | .vabs f => Sys2Proof.Machine.execVabs f s
  | .vcmp f => Sys2Proof.Machine.execVcmp f s
  | .vsel f => Sys2Proof.Machine.execVsel f s
  | .vand f => Sys2Proof.Machine.execVand f s
  | .vor f => Sys2Proof.Machine.execVor f s
  | .vxor f => Sys2Proof.Machine.execVxor f s
  | .vshl f => Sys2Proof.Machine.execVshl f s
  | .vshr f => Sys2Proof.Machine.execVshr f s
  | .vcvt f => Sys2Proof.Machine.execVcvt f s
  | .vq f => Sys2Proof.Machine.execVq f s
  | .vdq f => Sys2Proof.Machine.execVdq f s
  | .vred f => Sys2Proof.Machine.execVred f s
  | .vscan f => Sys2Proof.Machine.execVscan f s
  | .vnz f => Sys2Proof.Machine.execVnz f s
  | .vshuf f => Sys2Proof.Machine.execVshuf f s
  | .vbcast f => Sys2Proof.Machine.execVbcast f s
  | .vld f => Sys2Proof.Machine.execVld f s
  | .vst f => Sys2Proof.Machine.execVst f s
  | .vgath f => Sys2Proof.Machine.execVgath f s
  | .vscat f => Sys2Proof.Machine.execVscat f s
  | .vsfu f => Sys2Proof.Machine.execVsfu f s
  | .vfence f => Sys2Proof.Machine.execVfence f s
  | .mma f => Sys2Proof.Machine.execMma f s
  | .mmas f => Sys2Proof.Machine.execMmas f s
  | .mzero f => Sys2Proof.Machine.execMzero f s
  | .mpred f => Sys2Proof.Machine.execMpred f s
  | .msta f => Sys2Proof.Machine.execMsta f s
  | .mlnk f => Sys2Proof.Machine.execMlnk f s
  | .mwait f => Sys2Proof.Machine.execMwait f s
  | .cpy f => Sys2Proof.Machine.execCpy f s
  | .cpyx f => Sys2Proof.Machine.execCpyx f s
  | .cpymm f => Sys2Proof.Machine.execCpymm f s
  | .cpysh f => Sys2Proof.Machine.execCpysh f s
  | .getx f => Sys2Proof.Machine.execGetx f s
  | .placex f => Sys2Proof.Machine.execPlacex f s
  | .ssopen f => Sys2Proof.Machine.execSsopen f s
  | .ssisect f => Sys2Proof.Machine.execSsisect f s
  | .ssunion f => Sys2Proof.Machine.execSsunion f s
  | .sscount f => Sys2Proof.Machine.execSscount f s
  | .ssnext f => Sys2Proof.Machine.execSsnext f s
  | .ssclose f => Sys2Proof.Machine.execSsclose f s
  | .wload f => Sys2Proof.Machine.execWload f s
  | .wrun f => Sys2Proof.Machine.execWrun f s
  | .wwait f => Sys2Proof.Machine.execWwait f s
  | .wldi d imm => Sys2Proof.Machine.execWldi d imm s
  | .wadd d a b imm => Sys2Proof.Machine.execWadd d a b imm s
  | .wld d a w imm => Sys2Proof.Machine.execWld d a w imm s
  | .wcmp d a b c => Sys2Proof.Machine.execWcmp d a b c s
  | .wbr a t => Sys2Proof.Machine.execWbr a t s
  | .wrow a b imm => Sys2Proof.Machine.execWrow a b imm s
  | .wemit a imm => Sys2Proof.Machine.execWemit a imm s
  | .wmeta a b => Sys2Proof.Machine.execWmeta a b s
  | .wflush k => Sys2Proof.Machine.execWflush k s
  | .wskip a imm => Sys2Proof.Machine.execWskip a imm s
  | .unassignedWalkerWord w => Sys2Proof.Machine.execUnassignedWalkerWord w s
  | .thermalThrottle => Sys2Proof.Machine.execThermalThrottle s
  | .benchFence => Sys2Proof.Machine.execBenchFence s
  | .softErrorCorrected => Sys2Proof.Machine.execSoftErrorCorrected s
  | .hostLinkReset => Sys2Proof.Machine.execHostLinkReset s
  | .inputPowerRemoved => Sys2Proof.Machine.execInputPowerRemoved s
  | .issueGapsEnd => Sys2Proof.Machine.execIssueGapsEnd s
  | .gangActivation => Sys2Proof.Machine.execGangActivation s
  | .throttledActivation => Sys2Proof.Machine.execThrottledActivation s
  | .issuePeriod => Sys2Proof.Machine.execIssuePeriod s
  | .bandwidthPeriod => Sys2Proof.Machine.execBandwidthPeriod s
  | .taskDispatch => Sys2Proof.Machine.execTaskDispatch s
  | .watchdog => Sys2Proof.Machine.execWatchdog s
  | .gangDeadlock => Sys2Proof.Machine.execGangDeadlock s
  | .vectorCommandExecute => Sys2Proof.Machine.execVectorCommandExecute s
  | .matrixCommandComplete => Sys2Proof.Machine.execMatrixCommandComplete s
  | .sfuRequestServed => Sys2Proof.Machine.execSfuRequestServed s
  | .walkerRunStart => Sys2Proof.Machine.execWalkerRunStart s
  | .walkerLoadStore => Sys2Proof.Machine.execWalkerLoadStore s
  | .walkerStepLimit => Sys2Proof.Machine.execWalkerStepLimit s
  | .ldwServed => Sys2Proof.Machine.execLdwServed s
  | .queueWaitServed => Sys2Proof.Machine.execQueueWaitServed s
  | .barwaitRelease => Sys2Proof.Machine.execBarwaitRelease s
  | .claimHandover => Sys2Proof.Machine.execClaimHandover s
  | .illegal => Sys2Proof.Machine.execIllegal s
  | .wnop => Sys2Proof.Machine.execWnop s
  | .wend => Sys2Proof.Machine.execWend s

end Sys2Proof.Machine
end

