-- ==== Sys2Proof/Machine/Issue.lean ====
section
/-! DEFINITION. Fetch, the checks of lines, transfers and slots (R226 to R230, R238, R239), issue of single slots and pairs
(R229), a core's clock (R139), a walker's fetch (R349) and the background turns of units. What executes one instruction is
an argument here: Step gives it `exec`. -/

namespace Sys2Proof.Machine

/-! ## Decode of an issue group -/

/-- An issue group: one slot, or a pair (R229). -/
inductive Group where
  | single (i : Instr)
  | pair (first second : Instr)
  deriving DecidableEq, Repr

/-- The cause of a decode error. -/
def decodeCause : DecodeError → Cause
  | .illegalOp => .illegalOp
  | .illegalOperand => .illegalOperand

/-- One slot decoded for a launch: a queue that it has not declared is no operand (R126). -/
def decodeFor (l : Launch) (w : Nat) : Except Cause Instr :=
  match decodeSlot w with
  | .error e => .error (decodeCause e)
  | .ok i =>
    match slotParts i with
    | some (_, f) => if undeclaredQueue l f then .error .illegalOperand else .ok i
    | none => .ok i

/-- The issue group of a line at a slot: the checks of both slots come before any effect (R229, R239). -/
def decodeGroup (l : Launch) (line slot : Nat) : Except Cause Group :=
  match decodeFor l (lineSlot line slot) with
  | .error c => .error c
  | .ok i =>
    if lineP line slot then
      match decodeFor l (lineSlot line (slot + 1)) with
      | .error c => .error c
      | .ok j => .ok (.pair i j)
    else .ok (.single i)

/-- The issue group at the strand's PC. -/
def fetchGroup (t : Strand) (s : State) : Res Group :=
  (fetchLine t s).andThen fun d s1 =>
    match decodeGroup (s1.launch t.launch) d (slotNumber t.pc) with
    | .error c => .fail c s1
    | .ok g => .ok g s1

/-- The checks of a strand's line and transfer are over. An opcode that is not assigned is still to be refused as a fetch
cause (R201, R238). -/
def entered (t : Strand) (g : Group) : Strand :=
  { t with line := some (lineNumber t.pc), transfer := none, firstFetch := t.firstFetch && decide (g = .single .illegal) }

/-! ## Issue of a group (R229) -/

/-- What executes an instruction. -/
abbrev Exec := Instr → State → Out

/-- A waiting strand's slot does not issue alone. -/
def waitWhole (s : State) : State :=
  match s.strand with
  | some t => s.setStrand { t with wait := t.wait.map fun w => { w with slot := none } }
  | none => s

/-- The first slot's class is engine: its command can be what the second waits for. -/
def engineFirst (i : Instr) : Bool :=
  match slotParts i with
  | some (op, _) => decide (pairClass op = .engine)
  | none => false

/-- The strand goes on to the second slot of its pair: a record names the first, and a wait that has begun goes on. -/
def secondSlot (t : Strand) (s : State) : State :=
  match s.strand with
  | some t1 => s.setStrand { t1 with group := t.pc, wait := t.wait }
  | none => s

/-- A wait that is no end's: it suspends an issue group. -/
def suspendedBy : IssueResult → Option WaitFor
  | .waiting (.trap _) | .waiting (.park ..) => none
  | .waiting w => some w
  | _ => none

/-- One instruction of the walker's run on a bench (R349). -/
def walkerTurn (ex : Exec) (bench : Nat) (s : State) : State :=
  let s0 := s.setCur { bench := bench }
  match (s0.bench bench).run with
  | none => s0
  | some r =>
    let i := decodeWalker ((s0.bench bench).store.get r.pc 0).toNat
    outState s0 (ex i s0)

/-- Every unit that can end a command of the present core goes one step on. -/
def enginesStep (ex : Exec) (s : State) : State :=
  let bench := s.cur.bench
  let s1 := matrixExecute (sfuServe (vectorExecute s))
  let s2 := (List.range 32).foldl (fun s i =>
    engineLateFault bench i (completeCopy bench i true (completeCopy bench i false s))) s1
  let s3 := (List.range 16).foldl (fun s n => streamReadFault bench n (streamBatch bench n s)) s2
  (walkerStepLimit (walkerTurn ex bench (walkerRunStart bench (walkerLoadStore bench s3)))).setCur s.cur

/-- The engines go on until the second slot of a pair does not wait, or its strand is over; none where they come to rest
first. -/
def finishFirst (ex : Exec) (j : Instr) : Nat → State → Option State
  | 0, _ => none
  | n + 1, s =>
    let s1 := enginesStep ex s
    if s1.strand.isNone then some s1
    else
      let s2 := outState s1 (ex j s1)
      if (suspendedBy s2.issue).isNone then some s2 else if s1 = s then none else finishFirst ex j n s1

/-- The engines go on until the present strand has no vector memory command left, or is over: then what has become of it. None where
it is still there at the end. -/
def lateEnd (ex : Exec) : Nat → State → Option State
  | 0, _ => none
  | n + 1, s =>
    match s.strand with
    | none => some s
    | some t =>
      let s1 := enginesStep ex s
      if !pendingVecMem s s.cur t || decide (s1 = s) then none else lateEnd ex n s1

/-- The second slot of a pair has begun to wait for its own end, behind older vector memory commands: where one of them faults, the
pair's own first slot included, that fault is taken (R229, R309). Otherwise both slots are suppressed, and the strand waits for the
end on the state before the pair, but for the traffic of its accesses. -/
def pairEnds (ex : Exec) (before after : State) (w : WaitFor) : State :=
  match lateEnd ex (2 ^ 25) after with
  | some s => s
  | none =>
    match w with
    | .park _ _ held => beginWait (held.foldl touchBlock before) w none
    | _ => beginWait before w none

/-- What a pair leaves once its second slot does not wait: a trap or a park suppresses both slots, on the state before the
pair, but for the traffic of its accesses (R306). -/
def pairDone (ex : Exec) (launch : Nat) (before after : State) : State :=
  let left := keepTraffic before after launch
  match after.issue with
  | .trapped i => (takeTrap left before.cur i).setIssue after.issue
  | .parked g b held => parkHolding held g b left
  | .waiting (.trap i) => pairEnds ex left after (.trap i)
  | .waiting (.park g b held) => pairEnds ex left after (.park g b held)
  | _ => after

/-- A pair is counted when it issues, however it ends (R306). -/
def countPair (launch : Nat) (s : State) : State :=
  if (suspendedBy s.issue).isSome then s else countEvent s launch s.cur.bench 2 1

/-- A pair whose second slot waits behind an engine's command in the first: the command is executed completely, and then the
second. Where the engines come to rest before it, the pair cannot issue, and is held back whole (R139, R249), so that an abort
finds neither slot's effect (R229, log 35). -/
def pairWaits (ex : Exec) (i j : Instr) (launch : Nat) (s s2 : State) (w : WaitFor) : State :=
  if !engineFirst i then waitWhole (beginWait s w none)
  else
    match finishFirst ex j (2 ^ 25) s2 with
    | some s4 => countPair launch (pairDone ex launch s s4)
    | none => waitWhole (beginWait s w none)

/-- A pair: the first slot completely and then the second. A trap or a park in either suppresses both, and while the second
waits, the first has had no effect (log 3). -/
def issuePair (ex : Exec) (i j : Instr) (t : Strand) (s : State) : State :=
  let s1 := outState s (ex i s)
  match s1.issue with
  | .retired =>
    let s2 := secondSlot t s1
    let s3 := outState s2 (ex j s2)
    match suspendedBy s3.issue with
    | some w => pairWaits ex i j t.launch s s2 w
    | none => countPair t.launch (pairDone ex t.launch s s3)
  | r => if (suspendedBy r).isSome then waitWhole s1 else countPair t.launch s1

/-- ONE ISSUE GROUP of the strand that State.cur names: fetch, decode, and what its slots do. -/
def issueGroup (ex : Exec) (s : State) : State :=
  match s.strand with
  | none => s.setIssue .none
  | some t =>
    match t.wait with
    | some { why := .trap i, .. } => endWaiting t (.trap i) s
    | some { why := .park g b held, .. } => endWaiting t (.park g b held) s
    | _ =>
      match fetchGroup t s with
      | .trap i s1 => trapAfter none t i s1
      | .park g b s1 => parkAfter none t [] g b s1
      | .wait w => beginWait s w none
      | .ok g s1 =>
        let t1 := entered t g
        let s2 := s1.setStrand t1
        match g with
        | .single i => outState s2 (ex i s2)
        | .pair i j => issuePair ex i j t1 s2

/-! ## A core's clock (R139) -/

/-- A wait that only an event of its own ends (log 3). -/
def eventServed : WaitFor → Bool
  | .queueRead _ | .queueWrite _ | .ldw _ | .barwait _ | .claim => true
  | _ => false

/-- A hardware context has a strand that does not wait for an event. -/
def mayIssue (s : State) (f : Focus) : Bool :=
  match s.strandAt f with
  | none => false
  | some t =>
    match t.wait with
    | none => true
    | some w => w.served || !eventServed w.why

/-- The present core has issued a group of a launch. -/
def noteIssued (launch : Nat) (s : State) : State :=
  countIssue launch (s.setCurCore { s.curCore with lastIssued := s.cur.hc })

/-- The hardware contexts of a core are tried in turn; one whose group only waits gives the clock to the next. -/
def tryContexts (ex : Exec) : List Focus → State → State
  | [], s => s
  | f :: rest, s =>
    if !mayIssue s f then tryContexts ex rest s
    else
      let launch := match s.strandAt f with
        | some t => t.launch
        | none => 0
      let s1 := issueGroup ex (s.setCur f)
      match s1.issue with
      | .waiting _ => tryContexts ex rest s1
      | _ => noteIssued launch s1

/-- The order in which a core's contexts are tried: from the one after the last that issued. -/
def issueOrder (bench seat last : Nat) : List Focus :=
  (List.range 8).map fun i => { bench := bench, seat := seat, hc := (last + 1 + i) % 8 }

/-- One clock for a strand: its budget, and how long its gang has been stuck (R141, R144). -/
def tickStrand (s : State) (f : Focus) : State :=
  match s.strandAt f with
  | none => s
  | some t => s.setStrandAt f (some { t with clocks := t.clocks + 1, gangWait := if gangStuck s f then t.gangWait + 1 else 0 })

/-- The counts of one core clock (R25, R60, R136, R141, R144, R304); the bench's clock is that of seat 0. -/
def tick (bench seat : Nat) (s : State) : State :=
  let k := bench * 8 + seat
  let c := s.core k
  let s1 := s.setCore k { c with cycle := c.cycle + 1 }
  let s2 := (issueOrder bench seat 7).foldl tickStrand s1
  if seat = 0 then
    let b := s2.bench bench
    s2.setBench bench
      { b with idleClocks := b.idleClocks + 1, clocks := b.clocks + 1, periodClocks := b.periodClocks + 1 }
  else s2

/-- ONE CORE CLOCK. An issue gap issues nothing; which clocks are gaps is open (R25). -/
def coreTurn (ex : Exec) (bench seat : Nat) (s : State) : State :=
  let s0 := (s.setCur { bench := bench, seat := seat }).setIssue .none
  if !s0.mgc.mainOn then s0
  else
    let s1 := tick bench seat s0
    if s1.mgc.throttled && Config.freeNat s1.fresh % 2 == 0 then s1.nextFresh
    else
      let s2 := if s1.mgc.throttled then s1.nextFresh else s1
      tryContexts ex (issueOrder bench seat (s2.core (bench * 8 + seat)).lastIssued) s2

/-! ## Other turns -/

/-- The LLC writes back and drops a line; a block's frame leaves by eviction alone (R152, R161). -/
def evictLine (index : Nat) (s : State) : State :=
  match s.mem.llc[index]? with
  | some l => if l.frame then s else dropLine s l
  | none => s

/-- A cache drops an entry, as it may at any time. -/
def dropL1At (bench seat index : Nat) (s : State) : State :=
  let k := bench * 8 + seat
  let c := s.core k
  s.setCore k { c with l1 := removeAt index c.l1 }

def dropFetchAt (bench seat index : Nat) (s : State) : State :=
  let k := bench * 8 + seat
  let c := s.core k
  s.setCore k { c with fetch := removeAt index c.fetch }

def dropPlbAt (bench seat index : Nat) (s : State) : State :=
  let k := bench * 8 + seat
  let c := s.core k
  s.setCore k { c with plb := removeAt index c.plb }

def dropTranslationAt (index : Nat) (s : State) : State :=
  s.setMem { s.mem with translations := removeAt index s.mem.translations }

/-- A row of the table is an event when it has no encoding. -/
def isEvent (i : Instr) : Bool := (encode i).isNone

/-- One turn of the agenda. -/
def takeTurn (ex : Exec) (t : Turn) (s : State) : Out :=
  match t with
  | .event unit i => if isEvent i then ex i (s.setCur unit) else .next s
  | .core bench seat => .next (coreTurn ex bench seat s)
  | .walker bench => .next (walkerTurn ex bench s)
  | .evictLine index => .next (evictLine index s)
  | .dropL1 bench seat index => .next (dropL1At bench seat index s)
  | .dropFetch bench seat index => .next (dropFetchAt bench seat index s)
  | .dropPlb bench seat index => .next (dropPlbAt bench seat index s)
  | .dropTranslation index => .next (dropTranslationAt index s)
  | .performNr index => .next (settleDrops (performNr index s))
  | .copyUnit bench index => .next (copyUnit bench index s)
  | .vectorPart bench seat => .next (vectorPart bench seat s)
  | .resumeLoaded ctx => .next (resumeLoaded ctx s)
  | .managementEnd => .next (managementEnd s)

/-! ## A program placed from outside (log 2) -/

/-- A line whose slot 0 holds a word, with every T bit set and its parity right. -/
def lineHolding (w : Nat) : Nat :=
  let slot := w % 2 ^ 96
  let t := 31 * 2 ^ 27
  let lp := if oddParity 24 (t / 2 ^ 8) then 2 ^ 5 else 0
  let sp := if oddParity 96 slot then 1 else 0
  (t + lp + sp) * 2 ^ 480 + slot

/-- The address of the placed line. -/
def placedPc : Word := 0x10000

/-- A slot placed for a strand that has entered its line: main power is on, the line stands in the instruction cache, and its
page in the PLB. -/
def placeSlot (s : State) (w : Nat) : State :=
  let f : Focus := {}
  let c := s.core 0
  let who : Strand := { pc := placedPc, group := placedPc, transfer := none }
  let t := (s.strandAt f).getD who
  let t1 := { t with pc := placedPc, group := placedPc, transfer := none, line := none, wait := none }
  let ctx := (s.launch t.launch).ctx
  let page : PlbEntry :=
    { ctx := ctx, base := placedPc.toNat, size := 65536, read := false, write := false, execute := true, atomic := false
      engine := false, ord := 0, admitted := true, owner := ctx }
  let line : FetchLine :=
    { line := lineNumber placedPc, part := s.partOf ctx, data := BitVec.ofNat 512 (lineHolding w) }
  let s1 := s.setCore 0 { c with plb := page :: c.plb, fetch := line :: c.fetch, lastIssued := 7 }
  ((s1.setMgc { s1.mgc with mainOn := true, throttled := false }).setStrandAt f (some t1)).setAgenda
    (.core 0 0 :: s.agenda)

/-- A word placed at the PC of the run on bench 0, which is begun if none is in execution. -/
def placeWalkerWord (s : State) (w : Nat) : State :=
  let b := s.bench 0
  let fresh : WalkerRun :=
    { key := 0, issuer := {}, launch := 0, task := 0, ctx := 0, strandPc := 0, seat := 0, sparsity := 0, elem := 1, tag := 0 }
  let r := b.run.getD fresh
  (s.setBench 0 { b with run := some r, store := b.store.put r.pc (BitVec.ofNat 32 w) }).setAgenda (.walker 0 :: s.agenda)

end Sys2Proof.Machine
end

