-- ==== Sys2Proof/Machine/Step.lean ====
section
/-! DEFINITION. One step of the machine: the next turn of its agenda (log 1); and a state whose next step runs a given
instruction. -/

namespace Sys2Proof.Machine

/-- ONE STEP: the first turn of the agenda is taken; with none the package stands still. -/
def step (s : State) : Host.Outcome State Fault Refusal :=
  match s.agenda with
  | [] => .next s
  | t :: rest => takeTurn exec t (s.setAgenda rest)

/-- The instruction whose bits are `w`, in `nbits` bits and zeros above them, stands where the next step fetches. A word of
up to 32 bits is the walker's next word on bench 0, whose run is in execution; any other is slot 0 of the line of a live
strand on bench 0, seat 0 (log 2). -/
def State.withFetchWord (s : State) (nbits w : Nat) : State := if nbits ≤ 32 then placeWalkerWord s w else placeSlot s w

end Sys2Proof.Machine
end

