-- ==== Sys2Proof/Safety.lean ====
section
/-! DEFINITION. What claims speak of: when a slot issues, what a frame leaves alone, and the invariants of the machine. -/

namespace Sys2Proof.Machine

/-! ## Issue and frames -/

/-- The strand that State.cur names is `t`, and the guard of the slot holds (R232). -/
def Issues (s : State) (t : Strand) (f : Slot) : Prop := s.strand = some t ∧ t.guard f = true

/-- No selector of a slot is a queue. -/
def noQueue (f : Slot) : Bool :=
  [f.d, f.a, f.b, f.c].all fun x =>
    match x with
    | .q _ => false
    | _ => true

/-- Two launches differ in their performance counters alone. -/
def SameButCounters (l l' : Launch) : Prop := l' = { l with counters := l'.counters }

/-- Nothing but the present hardware context, performance counters and State.issue differs: no byte of any memory, no other
strand, no core, bench, context, ring or link. -/
def OnlyStrand (s s' : State) : Prop :=
  s' = { s with hcs := s'.hcs, launches := s'.launches, issue := s'.issue }
    ∧ (∀ k, k ≠ s.cur.key → s'.hc k = s.hc k)
    ∧ (∀ k, SameButCounters (s.launch k) (s'.launch k))

/-- A core's turn with its counts made (R139): the state on which the core's contexts are tried. -/
def clocked (bench seat : Nat) (rest : List Turn) (s : State) : State :=
  tick bench seat (((s.setAgenda rest).setCur { bench := bench, seat := seat }).setIssue .none)

/-- A slot with register operands and every other field at code 0, guarded by k0. -/
def slot3 (d a b : Sel) : Slot :=
  { gn := false, gk := 0, d := d, a := a, b := b, c := .x 0, m := 0, ty := .none, space := .g, order := .rlx, scope := .core
    rnd := .dyn, hint := false, imm := 0 }

/-- A hardware context that a core has. -/
def realHc (f : Focus) : Bool := decide (f.seat < 8) && decide (f.hc < 8)

/-- The byte at a virtual address whose line stands in the LLC: of a valid sector, or of the memory that would fill it
(R84, R97). -/
def globalByte (s : State) (va : Nat) : Option Byte :=
  (llcFind s va).map fun l =>
    if l.valid.getLsbD (va % 256 / 32) then (lineBytes l.data (va % 256) 1).headD 0
    else physByte s.mem (l.phys * 256 + va % 256)

/-- The byte memories that strands share are the same: global memory below the LLC, scratchpads, shelves, bench memories. -/
def SameStores (s s' : State) : Prop :=
  s'.mem.bytes = s.mem.bytes ∧ (∀ k, (s'.core k).spad = (s.core k).spad) ∧ (∀ k, (s'.core k).shelf = (s.core k).shelf)
    ∧ (∀ k, (s'.bench k).mem = (s.bench k).mem)

/-- A strand with a register and the program counter set free: what a frame compares. -/
def SameButX (d : Nat) (t t' : Strand) : Prop :=
  (∀ n, n ≠ d → t'.x n = t.x n) ∧ t'.ks = t.ks ∧ t'.qs = t.qs ∧ t'.fcr = t.fcr ∧ t'.handles = t.handles
    ∧ t'.message = t.message ∧ t'.sends = t.sends

/-! ## Invariants -/

/-- The canonical form of global memory. -/
def Memory.wf (m : Memory) : Bool := cellsWf m.bytes

/-- The canonical form of every byte memory of the package. -/
def State.memoriesWf (s : State) : Bool :=
  s.mem.wf && cellsWf s.hostMem && cellsWf s.mgc.staging
    && s.cores.all (fun c => cellsWf c.2.spad && cellsWf c.2.shelf)
    && s.benches.all (fun b => cellsWf b.2.mem)

/-- A power cap that PWRSET may set (R46): 600 to 2,200 W in steps of 25 W. -/
def capLegal (w : Nat) : Bool := decide (600 ≤ w) && decide (w ≤ 2200) && (w - 600) % 25 == 0

/-- The power cap is legal, and the main domain is on only after a boot that ended operational (R26, R43, R45). -/
def PowerSafe (s : State) : Prop :=
  capLegal s.mgc.powerCap = true ∧ (s.mgc.mainOn = true → s.mgc.standby = true ∧ s.mgc.boot = .operational)

end Sys2Proof.Machine
end

