-- ==== Sys2Proof/Certificates/Slice0/Obligations.lean ====
section
/-! DEFINITION. The statements for the provers. -/

open Sys2Proof Sys2Proof.Machine

/-- R139, R228, R229, R349; that a step takes one turn of an agenda is the model's (log 1). -/
def Obligations.StepRunsInstruction : Prop :=
  (∀ (s : State) (unit : Focus) (i : Instr) (rest : List Turn),
      s.agenda = .event unit i :: rest → isEvent i = true → step s = exec i ((s.setAgenda rest).setCur unit))
    ∧ (∀ (s : State) (bench : Nat) (rest : List Turn) (r : WalkerRun),
        s.agenda = .walker bench :: rest → (s.bench bench).run = some r →
        step s = exec (decodeWalker ((s.bench bench).store.get r.pc 0).toNat) ((s.setAgenda rest).setCur { bench := bench }))
    ∧ (∀ (s s1 s2 : State) (bench seat : Nat) (rest : List Turn) (f : Focus) (t : Strand) (i : Instr),
        s.agenda = .core bench seat :: rest → s.mgc.mainOn = true → s.mgc.throttled = false →
        f = { bench := bench, seat := seat, hc := ((s.core (bench * 8 + seat)).lastIssued + 1) % 8 } →
        mayIssue (clocked bench seat rest s) f = true → (clocked bench seat rest s).strandAt f = some t →
        (∀ w x g b held, t.wait = some w → w.why ≠ .trap x ∧ w.why ≠ .park g b held) →
        fetchGroup t ((clocked bench seat rest s).setCur f) = .ok (.single i) s1 →
        exec i (s1.setStrand (entered t (.single i))) = .next s2 → (∀ w, s2.issue ≠ .waiting w) →
        step s = .next (noteIssued t.launch s2))

/-- R10, R16, R22, R25, R26, R28, R32, R34, R40, R43 to R46, R60, R67, R71, R87, R94, R95, R124, R130, R133, R135 to R138, R141, R144,
R148, R154, R159 to R162, R168, R180, R190, R191, R268, R295, R298, R348 to R350: when each completes. Where the spec leaves an effect open, it is the
model's choice: what a function-level reset keeps and consumes (log 62), MAINON with the main domain on (log 63), a stream fault of any
cause that makes its session FAULTED (log 52), BAD in recovery and a changing command that is in execution until a later turn (log 67). -/
def Obligations.EventsComplete : Prop :=
  ∀ (s : State) (b : Nat), b = s.cur.bench →
  ∀ does : Instr → (State → Prop) → Prop, does = (fun i p => ∃ u, exec i s = .next u ∧ p u) →
  -- power, losses and errors
  (s.mgc.standby = false → ∀ t, does (.standbyPowerOn t) fun u => u.mgc.standby = true)
  ∧ does .inputPowerRemoved (fun u => u.mgc.standby = false ∧ u.mgc.mainOn = false)
  ∧ does .softErrorCorrected (fun u => u.curBench.softErrors = s.curBench.softErrors + 1)
  ∧ (∀ off, off < 4194304 → does (.uncorrectableError (.benchMemory b off)) fun u => off / 8 ∈ (u.bench b).poison)
  ∧ (s.mgc.mainOn = true → (∀ die r, 920 ≤ BitVec.toInt r → die < 10 → does (.thermalTrip die r) fun u => u.mgc.mainOn = false)
    ∧ (∀ mv, mv.toNat < 40000 → does (.undervoltageTrip mv) fun u => u.mgc.mainOn = false)
    ∧ does .thermalThrottle (fun u => u.mgc.throttled = true) ∧ does .issueGapsEnd (fun u => u.mgc.throttled = false)
    ∧ (benchLive s.pkg b = true → operating s b = false → sliceWaits s b = false → does .benchFence fun u => b ∈ u.pkg.fenced)
    ∧ (0 < s.pkg.cxl0 → s.pkg.cxl0Down = false → does (.cxlDeviceLoss 0) fun u => u.pkg.cxl0Down = true)
    ∧ (0 < s.pkg.cxl1 → s.pkg.cxl1Down = false → does (.cxlDeviceLoss 1) fun u => u.pkg.cxl1Down = true))
  ∧ (∀ n l, l = s.link n → l.up = true →
    (l.retraining = false →
      (s.mgc.mainOn = true → ∀ x, flitGood x = true → flitSeq x = l.rxSeq → flitType x ≠ 0 →
        does (.flitReceived n x) fun u => (u.link n).rxSeq = l.rxSeq + 1)
      ∧ ∀ seq, does (.retryRequest n seq) fun u => (u.link n).retrySeq = seq)
    ∧ (l.retraining = true → does (.linkDown n) (fun u => (u.link n).up = false)
      ∧ ∀ lanes w, trainedWidth (lanes.filter fun k => decide (k < s.pkg.linkLanes.getD n 0)) = some w →
        does (.linkRetrain n lanes) fun u => (u.link n).lanes = w))
  -- the host's registers
  ∧ does .hostLinkReset (fun u => ∀ fn, (u.fn fn).fr.en = false)
  ∧ (∀ fn v f, f = s.fn fn → fn ≤ 192 → s.pkg.hostUp = true →
    (∀ slot word, slot < 64 → word < 8 → f.busy.getLsbD slot = false →
      does (.commandSlotWrite fn slot word v) fun u => (u.fn fn).slots.get (slot * 8 + word) 0 = v)
    ∧ does (.registerWrite fn 0x110 8 v) (fun u => (u.fn fn).cpl.base = v)
    ∧ (∀ k, v.getLsbD 63 = false → does (.ringControlWrite fn k v) fun u => ((u.fn fn).ring k).en = false)
    ∧ (∀ legal : Ring → Prop, legal = (fun r => (v.setWidth 32 - r.cons).toNat ≤ (r.prod - r.cons).toNat) →
      (legal f.cpl → does (.cplConsWrite fn v) fun u => (u.fn fn).cpl.cons = v.setWidth 32)
      ∧ (legal f.qr → does (.qrConsWrite fn v) fun u => (u.fn fn).qr.cons = v.setWidth 32)
      ∧ (legal f.fr → ∀ n, n = (v.setWidth 32 - f.fr.cons).toNat → exec (.frConsWrite fn v) s = .next
          ((f.frKeys.take n).foldl consumeRecord (rearm (s.setFn fn
            { f with fr := { f.fr with cons := v.setWidth 32 }, frKeys := f.frKeys.drop n }) fn .fault))))
    ∧ (fn ≠ 0 → exec (.vfFunctionLevelReset fn) s =
        .next (f.frKeys.foldl consumeRecord (discardCompletions (s.setFn fn (clearedFn f)) fn))))
  ∧ (∀ fn f, f = s.fn fn →
    (∀ c rest, f.heldCpl = c :: rest → f.cpl.room = true → does (.heldCompletionWrite fn) fun u => (u.fn fn).heldCpl = rest)
    ∧ (∀ r rest, f.heldFr = r :: rest → f.fr.room = true → does (.faultRecordDelivery fn) fun u => (u.fn fn).heldFr = rest)
    ∧ (∀ q rest u, f.heldQr = q :: rest → tryWriteQuar (s.setFn fn { f with heldQr := rest }) fn q = some u →
      exec (.quarantineItemWrite fn) s = .next (settleRevokes u)))
  -- the management port
  ∧ (∀ (f : MgmtFrame) (n v : Nat), n = f.body.length → v = bytesToNat f.body → s.mgc.standby = true →
    ∀ ok ends : Instr → Prop, ok = (fun i => ∃ u r, exec i s = .next u ∧ u.mgc.responses = r :: s.mgc.responses ∧ r.getD 4 1 = 0) →
    ends = (fun i => ∃ u r, exec i s = .next u ∧ u.mgc.executing = some r ∧ r.getD 4 1 = 0) →
    (s.mgc.boot ≠ .recovery → f.ethernet = false → s.mgc.executing = none →
      (n = 0 → ok (.ident f) ∧ ok (.live f) ∧ ok (.sensors f) ∧ ok (.triplog f) ∧ ok (.pwrget f) ∧ ends (.mainoff f)
        ∧ ∀ t, ends (.mainon f t) ∧ ends (.reset f t))
      ∧ (n = 2 → 600 ≤ v → v ≤ 2200 → (v - 600) % 25 = 0 → ends (.pwrset f))
      ∧ (n = 1 → v < 16 → ends (.mgmtLinkup f) ∧ ends (.mgmtLinkdown f))
      ∧ (n = 32 → s.mgc.hssUsed < 2 ^ 30 → ok (.attest f))
      ∧ (5 ≤ n → n ≤ 4100 → bytesToNat (f.body.take 4) % 4096 = 0 → ends (.fwstage f))
      ∧ (n = 4 → ok (.evlog f) ∧ ∀ image, image = cellBytes s.mgc.staging 0 v → exec (.fwactivate f) s = .next (if imageVerifies image
          then answerAtEnd (s.setMgc { s.mgc with marked := some image }) 14 f 0 [] else answerAtEnd s 14 f 3 [])))
    ∧ exec (.mgmtBadCommand 0 f) s = .next (respond s 0 f 1 []))
  -- scheduling
  ∧ (65536 ≤ s.curBench.periodClocks → does .issuePeriod fun u => u.curBench.periodClocks = 0)
  ∧ (∀ c, c < 4096 → does .bandwidthPeriod fun u => (u.spending true b c).spent = 0)
  ∧ (∀ h rest left u, (s.bench b).held = h :: rest → (s.launch h.launch).stopped = false →
    left = (h :: rest).filter (fun x => !(x.launch == h.launch && x.message.key == h.message.key)) →
    ((s.launch h.launch).rank h.message.dest).st = rankValid →
    placeMessage (s.setBench b { s.bench b with held := left }) h.launch h.message = some u →
    exec (.messageArrival b 0) s = .next (slotFreed u h.launch h.message.dest))
  ∧ (∀ k m, (m.cls = 1 ∨ m.hidx < (s.launch k).handlerCount) → mayStart s k = true →
    (∀ r, launchOn s b = some k → s.strandAt s.cur = none → unreserved s b s.cur.seat = true →
      rankAt (s.launch k) b s.cur.seat = some r → nextMessage (s.launch k) r = some m → m.cls ≠ 3 →
      (m.ordinary = false → exec .taskDispatch s = .next (activate s k m [s.cur]))
      ∧ (m.ordinary = true → takeBudget b k 1 s = none → gangReady s b = false → 4096 ≤ (s.bench b).idleClocks →
        exec .throttledActivation s = .next (activate (s.setBench b { s.bench b with idleClocks := 0 }) k m [s.cur])))
    ∧ (∀ u places, reservedGang s b = some (k, m) → rankHeld (s.launch k) m.dest = false → gangPlaces s b (s.launch k) m = some places →
      takeBudget b k (s.launch k).gangSize s = some u → (m.cls = 1 ∨ m.hidx < (u.launch k).handlerCount) →
      exec .gangActivation s = .next (activate (u.setBench b { u.bench b with gang := none }) k m places)))
  ∧ (∀ k n x m v, (s.launch k).tasks.find n = some x → x.live = 0 → taskStrands s k n = [] → taskEngineWork s x.bench k n = false →
    x.fate = .halted → x.descriptor = none → (s.launch k).boxMessage x.rank n = some m →
    v = freeBody (dropMessage s k x.rank n) x.bench m → exec (.taskEnd k n) s = .next (slotFreed (snapEnded
      (v.setLaunch k { v.launch k with tasks := (v.launch k).tasks.drop n }) k x.snapshot) k x.rank))
  ∧ (∀ k u v d bs, (s.launch k).stopped = false → (s.launch k).unread = [u] → u.record = none →
    (s.launch k).descriptors[u.task]? = some d → 2 ≤ d.kind →
    deviceRead (s.setLaunch k { s.launch k with unread := [] }) (s.launch k).ctx d.control 8 = .ok bs v →
    exec (.controlNodeEvaluation k) s = .next (evaluateNode v k u.task d (byteWord bs 0)))
  ∧ (∀ t f live, s.strand = some t → taskStrands s t.launch t.message.key = f :: live →
    ((s.launch t.launch).budget ≤ t.clocks → (f :: live).any (inCtxOp s) = false → lowestStrand s t.launch t.message.key = some f →
      exec .watchdog s = .next (countEvent
        (abortTask s { first := f, info := { cause := .watchdog }, expire := true }) t.launch f.bench 9 1))
    ∧ (gangStuck s s.cur = true → (∀ g ∈ f :: live, ∃ x, s.strandAt g = some x ∧ 256 ≤ x.gangWait) → exec .gangDeadlock s =
      .next (abortTask s { first := f, info := { cause := .gangDeadlock }, others := .gangDeadlock, expire := true })))
  ∧ (∀ k l, s.launches.find k = some l → l.stopped = false → launchDone s k = true → l.issuer = .nobody →
    does (.launchComplete k) fun u => u.launches.find k = none)
  ∧ (∀ c o x r v, s.ctl.ops.find? (fun o => o.target == c && o.begun && o.result.isNone && o.items == 0 && o.drops.isEmpty && decide (o.kind ≠ .kill)) = some o →
    o.kind = .stop → revoking s = false → s.ctx c = some x → x.st = .stopping → ownOpBelow s c = false → subtreeQuiet s c = true →
    r = settleImage (suspendBelow s c) c → v = finishOp r.1 o.key (if r.2 then some x.image else none) →
    exec (.stopComplete c) s = .next (resumeOps (v.subtree c) v.ctl.ops.length v))
  ∧ (∀ c o, killOp s c = some o → revoking s = false → (∀ x ∈ s.ctl.ops, x.target = c → unwrittenItems s x.key = 0) →
    exec (.killComplete c) s = .next (finishKill s o))
  ∧ (∀ line, unscrubbed s.mem line = true → does (.scrubLine line) fun u => s.memoriesWf = true → ∀ a, line * 256 ≤ a → a < line * 256 + 256 → cellRead u.mem.bytes a = 0)
  -- the drawer controller
  ∧ (∀ k n l g x, l = s.launch k → l.regions[n]? = some g → l.stopped = false → startsNothing s l.ctx = false → fillRecordHeld s l = false →
    selectQueue (if g.thr = 0 then 8 else g.thr) ((regionBlocks l n).filter fun y => !y.2.queue.isEmpty && y.2.heldOut.isNone) = some x →
    x.2.leaving = false → framesUsed l n < g.frames → tablesFree s (blockWants l (n, x.1) true) = true →
    registersLater s none none (blockWants l (n, x.1) true) = false → exec (.fetchSelection k n) s = .next (openFill s k n x.1 none))
  ∧ (∀ k n m ls u, fillReady s k n m = true →
    (fillLines s (s.launch k).ctx (blockLines (s.launch k) (n, m)) = .ok ls u → ∀ v, v = unlockAll (fillFrame s ls) k (.fill k n m) →
      exec (.fillComplete k n m) s = .next (releaseSnapshot (v.changeBlock k (n, m) fun x =>
        { x with st := .resident, snapshot := [], since := v.ticket, age := 0 }).nextTicket k n m ((s.launch k).block (n, m)).snapshot))
    ∧ (∀ ti, fillLines s (s.launch k).ctx (blockLines (s.launch k) (n, m)) = .trap ti u →
      does (.fillFault k n m) fun u => ((u.launch k).block (n, m)).heldOut.isSome = true))
  ∧ (∀ k n m, ((s.launch k).block (n, m)).leaving = true → frameWaits s k (n, m) = false →
    does (.evictionDone k n m) fun u => ((u.launch k).block (n, m)).leaving = false)
  -- engines and collective steps
  ∧ (∀ t f, Issues s t f → pendingVecMem s s.cur t = false →
    (∀ a ws, a = (xOf t f.a).toNat → a < (s.launch t.launch).stepCount → postChecks t a s = .ok ws s →
      does (.clpost f) fun u => ((u.launch t.launch).collective a).count = blockCount ws)
    ∧ (∀ bs v, (xOf t f.b).toNat + (xOf t f.c).toNat ≤ 1024 → v.curBench.jobs.length < 8 →
      readSource t (sourceSpace { f with c := .x 0 } s.cur.seat) (xOf t f.a) (4 * (xOf t f.c).toNat) s = .ok bs v →
      does (.wload f) fun u => u.curBench.jobs.length = v.curBench.jobs.length + 1)
    ∧ (∀ out wants, out = (xOf t f.a).toNat → selNum f.b ≤ 57 → immField f 10 2 ≠ 3 → out < 196608 → out % 32 = 0 →
      s.curBench.jobs.length < 8 → wants = (spanOf (.spad (immField f 26 3)) out (196608 - out) true).map (fun p => (b, p)) →
      tablesFree s wants = true → registersLater s (some s.cur.key) (waitTicket s s.cur.key (.register wants)) wants = false →
      does (.wrun f) fun u => u.curBench.jobs.length = s.curBench.jobs.length + 1)
    ∧ (pendingRuns s s.cur t = false → exec (.wwait f) s = .next (retire s .seq)))
  ∧ (∀ k n c, c = (s.launch k).collective n → (s.launch k).stopped = false →
    (c.running = true → c.started = false → ∀ bs src op ws u v, stepRead s (s.launch k).ctx ((s.launch k).stepBlock n) 64 = .ok bs u →
      ws = (List.range 8).map (byteWord bs) → op = (s.launch k).stepOp n → stepLockFree u (s.launch k) n (stepSpans op ws) = true →
      stepRead (stepLock u k n (stepSpans op ws)) (s.launch k).ctx (blockSource ws) (stepSourceBytes op ws) = .ok src v →
      does (.collectiveStepStart k n) fun u => ((u.launch k).collective n).started = true)
    ∧ (c.started = true → ∀ ps, contributionsReady ((s.launch k).stepOp n) c.operands ps = true →
      does (.collectiveStepFinish k n 0 ps) fun u => ((u.launch k).collective n).started = false))
  ∧ (∀ v g t d, s.strandAt g = some t →
    (headCommand s s.cur false = some (v, g) → 0xB0 ≤ v.opcode → v.opcode ≤ 0xBD → v.slot.d = .v d →
      does .vectorCommandExecute fun u => ∀ x ∈ (u.core g.core).inFlight, x.key ≠ v.key)
    ∧ (headCommand s s.cur true = some (v, g) → v.opcode = 0xD2 ∨ v.opcode = 0xD3 ∨ v.opcode = 0xD5 →
      does .matrixCommandComplete fun u => ∀ x ∈ (u.core g.core).inFlight, x.key ≠ v.key))
  ∧ (∀ r rest, s.curCore.sfu = r :: rest → r.command = none → does .sfuRequestServed fun u => u.curCore.sfu = rest)
  ∧ (∀ n c c1 u, (s.bench b).copies[n]? = some c → c.cancelled = false → c.status = none →
    (runUnits b c.fuel c s = .done c1 u → c1.follow = none →
      exec (if c.indexed then .getxPlacexComplete b n else .copyComplete b n) s = .next (endCopy u b c1 0))
    ∧ (∀ ti, runUnits b c.fuel c s = .fault ti c1 u → exec (.engineLateFault b n) s = .next (endCopy
      (engineRecord u ti true (BitVec.ofNat 64 c1.done) c.ctx c.msgId c.pc c.rank c.issuer).1 b c1 (faultStatus ti))))
  ∧ (∀ n p f u, (u.session b n).requester = some f →
    (∀ ws, sessionBatch s b n = .ready p ws u → does (.streamBatch b n) fun v => (v.session b n).posted = true)
    ∧ (∀ ti, sessionBatch s b n = .fault ti p u → does (.streamReadFault b n) fun v => (v.session b n).st = .faulted))
  ∧ (∀ x w, (s.bench b).run = none →
    ((s.bench b).jobs = .run x :: w → exec .walkerRunStart s = .next (s.setBench b { s.bench b with run := some x, jobs := w }))
    ∧ (∀ f at_ ws l k, (s.bench b).jobs = .load f at_ ws l k :: w → does .walkerLoadStore fun u => (u.bench b).jobs = w))
  ∧ (∀ r q, (s.bench b).run = some r → q = { r with steps := r.steps + 1, pc := r.pc + 1 } →
    (2 ^ 24 ≤ r.steps → exec .walkerStepLimit s = .next (endRun b r stWalker s))
    ∧ ∀ ran : Instr → WalkerRun → Prop, ran = (fun i w => exec i s = .next (s.setBench b { s.bench b with run := some w })) →
      r.steps < 2 ^ 24 → r.pc < 1023 → ∀ (d a c : Fin 16) (i : BitVec 16) (j : BitVec 24) (w : BitVec 32) (y : Nat) (v : Word),
      y = (q.reg a).toNat → v = q.reg c + i.signExtend 64 →
      ran .wnop q ∧ ran (.wldi d j) (q.setReg d (j.signExtend 64)) ∧ ran (.wadd d a c i) (q.setReg d (q.reg a + v))
      ∧ (∀ x, c.val < 4 → walkerLoad q (q.reg a + i.signExtend 64).toNat (2 ^ c.val) s = .ok x s → ran (.wld d a c i) (q.setReg d x))
      ∧ (i.toNat < 10 → ran (.wcmp d a c i) (q.setReg d (if intCond i.toNat (q.reg a) (q.reg c) then 1 else 0)))
      ∧ (i.toNat < 1024 → ran (.wbr a i) (if a = 0 ∨ q.reg a ≠ 0 then { q with pc := i.toNat } else q))
      ∧ (y < 16 → v.toNat < q.columns → ran (.wrow a c i) { q with row := y, col := v.toNat })
      ∧ (q.col < q.columns → ran (.wemit a i) { q with
          emit := q.emit.put (q.row * 4096 + q.col) (q.reg a), col := (BitVec.ofNat 64 q.col + (1 + i.signExtend 64)).toNat })
      ∧ (q.sparsity = 1 → (q.reg c).toNat < q.columns / 4 → ran (.wmeta a c) { q with
          groups := q.groups.put (q.row * 4096 + (q.reg c).toNat) (BitVec.ofNat 4 (field (q.reg a) 0 4)) })
      ∧ ran (.wskip a i) { q with col := (BitVec.ofNat 64 q.col + (q.reg a + i.signExtend 64)).toNat }
      ∧ (0 < i.toNat → i.toNat ≤ q.columns → q.sparsity = 0 → q.out + (tileBytes q i.toNat).length ≤ 196608 →
          does (.wflush i) fun u => ((u.bench b).run.map (·.tiles)) = some (q.tiles + 1))
      ∧ exec .wend s = .next (endRun b q stDone s) ∧ exec (.unassignedWalkerWord w) s = .next (endRun b q stWalker s))
  -- waits that are served
  ∧ (∀ t w served, s.strand = some t → t.wait = some w → served = s.setStrand { t with wait := some { w with served := true } } →
    (∀ off f, w.why = .ldw off → w.slot = some f → s.curCore.full.contains (off / 8) = true →
      olderWaiter s s.cur (upFrom (s.cur.core * 8) 8) w.why = false →
      ∃ u, exec (.ldw f) s = .next u ∧ exec .ldwServed s = .next (countIssue t.launch u))
    ∧ (∀ n, w.why = .queueRead n → queueWords s t n ≠ [] → olderWaiter s s.cur (queueSharers s.cur n) w.why = false →
      exec .queueWaitServed s = .next served)
    ∧ (∀ n f h, w.why = .barwait n → w.slot = some f → h = t.handle (selNum f.a) → barwaitOver h (s.barrier b h.object) = true →
      ∃ u, exec (.barwait f) s = .next u ∧ exec .barwaitRelease s = .next (countIssue t.launch u)))
  ∧ (∀ h, s.curCore.claim = none → claimHeir s = some h → does .claimHandover fun u => u.curCore.claim = some h)

/-- R249, R250 and R223: results of the integer instructions of two sources. -/
def Obligations.IntegerTwoSources : Prop :=
  (∀ (s s1 s2 s3 : State) (t : Strand) (f : Slot) (a b : Word),
    Issues s t f → readSel f.a s = .ok a s1 → readSel f.b s1 = .ok b s2 →
    ∀ p ∈ ([(.add, a + b), (.sub, a - b), (.mul, a * b), (.mulh, BitVec.ofInt 64 (a.toInt * b.toInt / 2 ^ 64)),
        (.mulhu, BitVec.ofNat 64 (a.toNat * b.toNat / 2 ^ 64)),
        (.div, if b = 0 then BitVec.allOnes 64 else BitVec.ofInt 64 (a.toInt.tdiv b.toInt)),
        (.divu, if b = 0 then BitVec.allOnes 64 else BitVec.ofNat 64 (a.toNat / b.toNat)),
        (.rem, if b = 0 then a else BitVec.ofInt 64 (a.toInt.tmod b.toInt)),
        (.remu, if b = 0 then a else BitVec.ofNat 64 (a.toNat % b.toNat)),
        (.and, a &&& b), (.or, a ||| b), (.xor, a ^^^ b), (.shl, a <<< (b.toNat % 64)), (.shr, a >>> (b.toNat % 64)),
        (.sra, a.sshiftRight (b.toNat % 64)), (.rol, a.rotateLeft (b.toNat % 64)),
        (.min, if b.toInt < a.toInt then b else a), (.minu, if b.toNat < a.toNat then b else a),
        (.max, if a.toInt < b.toInt then b else a), (.maxu, if a.toNat < b.toNat then b else a)] :
        List ((Slot → Instr) × Word)),
      writeSel f.d p.2 s2 = .ok () s3 → exec (p.1 f) s = .next (retire s3 .seq))
    ∧ (∀ (s : State) (t : Strand) (f : Slot) (d a b : Fin 64),
    Issues s t f → f.d = .x d → f.a = .x a → f.b = .x b →
    (t.x b.val = 0 →
      exec (.div f) s = .next (retire (s.setStrand (t.setX d.val (BitVec.allOnes 64))) .seq)
        ∧ exec (.divu f) s = .next (retire (s.setStrand (t.setX d.val (BitVec.allOnes 64))) .seq)
        ∧ exec (.rem f) s = .next (retire (s.setStrand (t.setX d.val (t.x a.val))) .seq)
        ∧ exec (.remu f) s = .next (retire (s.setStrand (t.setX d.val (t.x a.val))) .seq))
      ∧ (t.x a.val = 0x8000000000000000 → t.x b.val = BitVec.allOnes 64 →
          exec (.div f) s = .next (retire (s.setStrand (t.setX d.val 0x8000000000000000)) .seq)
            ∧ exec (.rem f) s = .next (retire (s.setStrand (t.setX d.val 0)) .seq)))

/-- R251 to R256. -/
def Obligations.IntegerOtherForms : Prop :=
  ∀ (s s1 s2 s3 : State) (t : Strand) (f : Slot) (a b : Word),
    Issues s t f → readSel f.a s = .ok a s1 → readSel f.b s1 = .ok b s2 →
    (∀ p ∈ ([(.addi, a + sext32 f), (.andi, a &&& sext32 f), (.ori, a ||| sext32 f), (.xori, a ^^^ sext32 f),
          (.clz, BitVec.ofNat 64 (64 - bitLen a.toNat)), (.ctz, trailingZeros a), (.popc, popCount a), (.bswap, byteSwap a),
          (.cmpi, if intCond f.m.toNat a (sext32 f) then 1 else 0), (.mov, a)] : List ((Slot → Instr) × Word)),
        writeSel f.d p.2 s1 = .ok () s3 → exec (p.1 f) s = .next (retire s3 .seq))
      ∧ (imm32 f ≤ 63 →
          ∀ p ∈ ([(.shli, a <<< imm32 f), (.shri, a >>> imm32 f), (.srai, a.sshiftRight (imm32 f))] :
              List ((Slot → Instr) × Word)),
            writeSel f.d p.2 s1 = .ok () s3 → exec (p.1 f) s = .next (retire s3 .seq))
      ∧ (fieldPos f + fieldLen f ≤ 64 → writeSel f.d
            (if f.m = 1 then BitVec.ofInt 64 (signedOf (fieldLen f) (a.toNat / 2 ^ fieldPos f))
             else BitVec.ofNat 64 (a.toNat / 2 ^ fieldPos f % 2 ^ fieldLen f)) s1 = .ok () s3 →
          exec (.bfx f) s = .next (retire s3 .seq))
      ∧ (fieldPos f + fieldLen f ≤ 64 → writeSel f.d (insertField a b (fieldPos f) (fieldLen f)) s2 = .ok () s3 →
          exec (.bfi f) s = .next (retire s3 .seq))
      ∧ (writeSel f.d (if intCond f.m.toNat a b then 1 else 0) s2 = .ok () s3 → exec (.cmp f) s = .next (retire s3 .seq))
      ∧ (∀ k : Fin 8, f.c = .k k → writeSel f.d (if t.k k.val then a else b) s2 = .ok () s3 →
          exec (.sel f) s = .next (retire s3 .seq))
      ∧ (writeSel f.d (a + (b <<< f.m.toNat) + sext32 f) s2 = .ok () s3 → exec (.lea f) s = .next (retire s3 .seq))
      ∧ (∀ d : Fin 64, f.d = .x d →
          exec (.li f) s = .next (retire (s.setStrand (t.setX d.val (f.imm.signExtend 64))) .seq)
            ∧ (f.imm.extractLsb' 16 32 = 0 → exec (.lih f) s = .next (retire (s.setStrand
                (t.setX d.val ((t.x d.val &&& 0xFFFFFFFFFFFF) ||| (f.imm.setWidth 64 <<< 48)))) .seq)))
      ∧ (∀ d x y : Fin 8, f.d = .k d → f.a = .k x → (f.b = .k y ∨ (f.m = 5 ∧ f.b = .x 0)) → ∀ r : Bool,
          r = (match f.m.toNat with
            | 0 => t.k x.val && t.k y.val
            | 1 => t.k x.val || t.k y.val
            | 2 => t.k x.val != t.k y.val
            | 3 => t.k x.val && !t.k y.val
            | 4 => t.k x.val || !t.k y.val
            | _ => !t.k x.val) →
          exec (.klog f) s = .next (retire (s.setStrand (t.setK d.val r)) .seq))

/-- R257 to R260, R216, R217, R173: what each instruction gives D and the FCR, from the operations on codes. That FDIV and FSQRT give
D and the FCR at issue, and not when the SFU has served their request, is the model's choice (log 27). -/
def Obligations.FloatResults : Prop :=
  ∀ (s s1 s2 s3 : State) (t : Strand) (f : Slot) (a b x : Word) (c : FpCtl),
    Issues s t f → readSel f.a s = .ok a s1 → readSel f.b s1 = .ok b s2 → readSel f.c s2 = .ok x s3 →
    c = { rm := if f.rnd = .dyn then fcrMode t.fcr else f.rnd, ftz := t.fcr.getLsbD 3, daz := t.fcr.getLsbD 4,
          satn := t.fcr.getLsbD 5 } →
    ∀ done : Nat × Flags → State → State → Prop,
      done = (fun r s4 s5 => writeSel f.d (BitVec.ofNat 64 r.1) (orFlags r.2 s4) = .ok () s5) →
    (∀ s4, done (scalarConvert c (tyOfCode f.m.toNat) f.ty a.toNat) s1 s4 → exec (.fcvt f) s = .next (retire s4 .seq))
    ∧ ∀ fmt : Fmt, fmtOf f.ty = some fmt → ∀ low : Word → Nat, low = (fun w => w.toNat % 2 ^ fmt.bits) →
    (∀ p ∈ ([(.fadd, fpAdd fmt c (low a) (low b)), (.fsub, fpSub fmt c (low a) (low b)),
          (.fmul, fpMul fmt c (low a) (low b)), (.fmin, minMaxFp fmt false c.daz (low a) (low b)),
          (.fmax, minMaxFp fmt true c.daz (low a) (low b)),
          (.fcmp,
            let r := fpCompare (floatCond f.m.toNat) (readFp fmt c.daz (low a)) (readFp fmt c.daz (low b))
            (if r.1 then 1 else 0, r.2))] : List ((Slot → Instr) × (Nat × Flags))),
        ∀ s4, done p.2 s2 s4 → exec (p.1 f) s = .next (retire s4 .seq))
      ∧ (∀ s4, done (fpFma fmt c (low a) (low b) (low x)) s3 s4 → exec (.ffma f) s = .next (retire s4 .seq))
      ∧ (s2.curCore.sfu.length < 32 → ∀ s4,
          done (fpDiv fmt c (low a) (low b))
            (s2.setCurCore { s2.curCore with sfu := s2.curCore.sfu ++ [{ hc := s2.cur.hc }] }) s4 →
          exec (.fdiv f) s = .next (retire s4 .seq))
      ∧ (s1.curCore.sfu.length < 32 → ∀ s4,
          done (fpSqrt fmt c (low a))
            (s1.setCurCore { s1.curCore with sfu := s1.curCore.sfu ++ [{ hc := s1.cur.hc }] }) s4 →
          exec (.fsqrt f) s = .next (retire s4 .seq))
      ∧ (32 ≤ s2.curCore.sfu.length → exec (.fdiv f) s = .next (beginWait s .engineFull (some f)))
      ∧ (32 ≤ s1.curCore.sfu.length → exec (.fsqrt f) s = .next (beginWait s .engineFull (some f)))

/-- R261, whole: the class from the sign, exponent and fraction of the code. -/
def Obligations.FloatClass : Prop :=
  ∀ (s : State) (t : Strand) (f : Slot) (d a : Fin 64) (fmt : Fmt) (ex fr : Nat) (neg : Bool),
    Issues s t f → f.d = .x d → f.a = .x a → f.ty ∈ [Ty.f64, .f32, .bf16] → fmtOf f.ty = some fmt →
    fr = (t.x a.val).toNat % 2 ^ fmt.fb → ex = (t.x a.val).toNat / 2 ^ fmt.fb % 2 ^ fmt.eb →
    neg = (t.x a.val).getLsbD (fmt.eb + fmt.fb) →
    exec (.fclass f) s = .next (retire (s.setStrand (t.setX d.val (1 <<<
      (if ex = 2 ^ fmt.eb - 1 then
        if fr = 0 then if neg then 0 else 7 else if fr < 2 ^ (fmt.fb - 1) then 8 else 9
      else if ex = 0 then
        if fr = 0 ∨ t.fcr.getLsbD 4 = true then if neg then 3 else 4 else if neg then 2 else 5
      else if neg then 1 else 6)))) .seq)

/-- R262, R233, R230, R229. -/
def Obligations.ControlTransfers : Prop :=
  ∀ (s : State) (t : Strand) (f : Slot) (disp next : Word), Issues s t f →
    disp = (t.pc &&& 0xFFFFFFFFFFFFFFC0) + 64 * (f.imm.extractLsb' 3 29).signExtend 64
      + (f.imm.extractLsb' 0 3).setWidth 64 →
    next = (if t.pc.extractLsb' 0 3 = 4 then t.pc + 60 else t.pc + 1) →
    ∀ goes : Instr → State → Word → Prop,
      goes = (fun i u w => (transferFault t w s = none → exec i s = .next (retire u (.jump w)))
        ∧ (∀ x, transferFault t w s = some x → endWaits s t = false →
            exec i s = .next ((takeTrap s s.cur x).setIssue (.trapped x)))) →
    exec (.nop f) s = .next (retire s .seq)
      ∧ goes (.br f) s disp ∧ goes (.ret f) s (t.x 63)
      ∧ (f.m = 0 → goes (.call f) (s.setStrand (t.setX 63 next)) disp)
      ∧ (∀ n : Fin 64, f.a = .x n → goes (.brx f) s (disp + 64 * t.x n.val) ∧ goes (.jmp f) s (t.x n.val)
          ∧ (f.m = 1 → goes (.call f) (s.setStrand (t.setX 63 next)) (t.x n.val)))
      ∧ (∀ (n : Fin 64) (u : State), f.d = .x n → u = s.setStrand (t.setX n.val (t.x n.val - 1)) →
          (n ≠ 0 → t.x n.val = 1 → exec (.loop f) s = .next (retire u .seq))
            ∧ ((n = 0 ∨ t.x n.val ≠ 1) → goes (.loop f) u disp))
      ∧ (∀ w, targetFormed w = false → transferFault t w s = some { cause := .badTarget, addr := some w, pc := some t.group })
      ∧ (∀ (w : Word) (p : PlbEntry) (l : FetchLine), targetFormed w = true →
          (s.core s.cur.core).plb.find? (fun p => p.ctx == (s.launch t.launch).ctx && decide (p.base ≤ w.toNat)
            && decide (w.toNat < p.base + p.size)) = some p → p.execute = true → p.admitted = true →
          (s.core s.cur.core).fetch.find? (fun l => l.line == lineNumber w) = some l →
          lineParityOk l.data.toNat = true → lineTemplateOk l.data.toNat = true →
          transferFault t w s = if lineT l.data.toNat (slotNumber w) then none
            else some { cause := .badTarget, addr := some w, pc := some t.group })

/-- R264, R238, R81, R142, R141, R304; SYS.TVAL of 0 is the model's (log 21). -/
def Obligations.TrapEntry : Prop :=
  (∀ (s : State) (t : Strand) (f : Slot), Issues s t f → endWaits s t = false →
      exec (.trapi f) s = .next ((takeTrap s s.cur { cause := .trapi, fails := true }).setIssue
        (.trapped { cause := .trapi, fails := true }))
        ∧ exec .illegal s = .next ((takeTrap s s.cur { cause := .illegalOp }).setIssue (.trapped { cause := .illegalOp })))
    ∧ (∀ (s : State) (f : Focus) (t : Strand) (x : TrapInfo) (m : Message),
        s.strandAt f = some t → realHc f = true → x.cause ≠ .rangeLock →
        (s.launch t.launch).boxMessage t.message.dest t.message.key = some m → t.message.expiry = m.expiry →
        ∀ u, u = takeTrap s f x →
          (u.hc f.key).cause = BitVec.ofNat 8 (causeCode x.cause) ∧ (u.hc f.key).tval = x.addr.getD 0
            ∧ u.strandAt f = none
            ∧ ∀ fails : Prop, fails = (x.fails = true ∨ (t.message.cls = 1 ∧ t.firstFetch = true
                ∧ (causeClass x.cause = 0 ∨ x.cause = .prot))) →
              (fails → (u.launch t.launch).failed = true
                ∧ ((u.launch t.launch).tasks.get t.message.key {}).fate = .failed
                ∧ ((u.launch t.launch).boxMessage t.message.dest t.message.key).isSome = true)
            ∧ (¬ fails →
                ((u.launch t.launch).mailboxes.get t.message.dest []).head? =
                  some { m with active := false, attached := false, req := true })
            ∧ u.mem = s.mem
            ∧ (∀ k, (u.core k).spad = (s.core k).spad) ∧ (∀ k, (u.bench k).mem = (s.bench k).mem))

/-- R263 with R181, R182, R194 to R196 and R168; HALT.r accepts handler indices up to 255. -/
def Obligations.HaltEnds : Prop :=
  ∀ (s : State) (t : Strand) (f : Slot), Issues s t f → (f.m = 0 ∨ (f.m = 1 ∧ imm32 f ≤ 255)) →
    ((pendingMatrix s s.cur t = true ∨ pendingRuns s s.cur t = true) →
        exec (.halt f) s = .next (beginWait s .older (some f)))
      ∧ (pendingMatrix s s.cur t = false → pendingRuns s s.cur t = false →
          (∀ c, haltTrap t = some c → endWaits s t = false →
            exec (.halt f) s = .next ((takeTrap s s.cur { cause := c }).setIssue (.trapped { cause := c })))
          ∧ (haltTrap t = none →
              ((strandCommands s s.cur t ≠ [] ∨ pendingSfu s s.cur = true) →
                exec (.halt f) s = .next (beginWait s .older (some f)))
              ∧ (strandCommands s s.cur t = [] → pendingSfu s s.cur = false →
                  (canRelease s.cur t s = false → exec (.halt f) s = .next (beginWait s .release (some f)))
                  ∧ (canRelease s.cur t s = true → ∀ v, v = t.sends.foldl (releaseSend s.cur t) s →
                      ∃ u, exec (.halt f) s = .next u ∧ u.issue = .ended ∧ u.strandAt s.cur = none
                        ∧ ((s.core s.cur.core).matrix = none → (u.core s.cur.core).claim ≠ some s.cur.hc)
                        ∧ u.flights = v.flights ∧ u.fns = v.fns ∧ u.hostMem = v.hostMem ∧ u.msix = v.msix
                        ∧ (∀ k, (u.launch k).pool = (v.launch k).pool ∧ (u.launch k).spill = (v.launch k).spill
                            ∧ (u.launch k).reached = (v.launch k).reached ∧ (u.launch k).deviceHeld = (v.launch k).deviceHeld
                            ∧ (u.launch k).ranks = (v.launch k).ranks)
                        ∧ (t.message.capsule = none → (∀ e ∈ (s.bench s.cur.bench).sessions, e.2.requester ≠ some s.cur) →
                            ∀ k, (u.launch k).mailboxes = (v.launch k).mailboxes)
                        ∧ (∀ m, t.sends = [.message m] → m.capsule = none → ((s.launch t.launch).rank m.dest).st ≠ rankTransit →
                            u.flights = s.flights ++ [{ launch := t.launch, source := some s.cur.bench, message :=
                              { m with sender := t.rank, seq := ((s.launch t.launch).ranks.get t.rank {}).strandSeq
                                       key := s.ticket, ctx := (s.launch t.launch).ctx } }])
                        ∧ ((u.launch t.launch).tasks.get t.message.key {}).live =
                            ((v.launch t.launch).tasks.get t.message.key {}).live - 1))))

/-- R267, R269, R88, R89, R108, R96, R103, R107, R203 to R205, with the frame. -/
def Obligations.LocalStores : Prop :=
  ∀ (s s1 : State) (t t1 : Strand) (f : Slot) (i : Instr) (n off : Nat) (full : Bool) (v : Word),
    Issues s t f → readSel f.b s = .ok v s1 → s1.strand = some t1 → s1.cur = s.cur → s1.memoriesWf = true →
    strandCommands s1 s.cur t1 = [] → (s1.bench s.cur.bench).locks = [] →
    f.order ∈ [Order.rlx, .rel, .sc] → ¬ (f.order = .sc ∧ f.scope = .sys) →
    (f.order ≠ .rlx → f.scope = .sys → sysPending s1 t1.launch = false) →
    ((i = .st f ∧ f.ty ∈ [Ty.i8, .i16, .i32, .i64, .n8, .n16, .n32] ∧ n = tyBits f.ty / 8
        ∧ full = decide (∃ w, f.c = .win w))
      ∨ (i = .stf f ∧ (∃ b, f.b = .x b) ∧ n = 8 ∧ full = true)) →
    off = (xOf t1 f.a + sext32 f).toNat → off % n = 0 →
    ∀ bs, bs = natToBytes v.toNat n →
    ∀ stored : (State → Prop) → Prop, stored = (fun p => ∃ u, exec i s = .next u ∧ u.issue = .retired ∧ u.mem = s1.mem
      ∧ (∀ k, (u.core k).shelf = (s1.core k).shelf) ∧ u.ctl = (takeDesk s1 (s1.launch t1.launch).ctx f.order).ctl
      ∧ (∃ t', u.strand = some t' ∧ SameButX 64 t1 t') ∧ p u) →
    ∀ pads : State → Prop, pads = (fun u => ∀ k, (u.core k).spad = (s1.core k).spad ∧ (u.core k).full = (s1.core k).full) →
    ∀ traps : TrapInfo → Prop, traps = (fun x => endWaits s t = false → ∃ u, exec i s = .next u ∧ u.issue = .trapped x) →
    ∀ prot : TrapInfo, prot = { cause := .prot, addr := some (BitVec.ofNat 64 off) } →
    (∀ seat, memSpace f s.cur.seat = .spad seat → off + n ≤ 196608 → ∀ k, k = s.cur.bench * 8 + seat → stored fun u =>
        cellBytes (u.core k).spad off n = bs
          ∧ (∀ c a, (c ≠ k ∨ a < off ∨ off + n ≤ a) → cellRead (u.core c).spad a = cellRead (s1.core c).spad a)
          ∧ (∀ c q, ((u.core c).full.contains q = true ↔
              (s1.core c).full.contains q = true ∨ (full = true ∧ c = k ∧ off / 8 ≤ q ∧ q ≤ (off + n - 1) / 8)))
          ∧ u.benches = s1.benches)
      ∧ (memSpace f s.cur.seat = .bench → off + n ≤ 4192256 → i = .st f → stored fun u =>
        cellBytes (u.bench s.cur.bench).mem off n = bs ∧ pads u
          ∧ (∀ c a, (c ≠ s.cur.bench ∨ a < off ∨ off + n ≤ a) → cellRead (u.bench c).mem a = cellRead (s1.bench c).mem a))
      ∧ (f.c = .msg → i = .st f → traps prot)
      ∧ (f.c = .cap → i = .st f → (t1.capsule = none → traps prot) ∧ ∀ c count cursor top e,
          t1.capsule = some c → count = field c.header 22 6 → cursor = field c.header 16 6 → c.entries.length = count → count ≤ 32 →
          top = 0x108 + 128 * (field c.header 6 6 + 1) → e = (off - 8) / 8 →
          ∀ edits : Prop, edits = (stored fun u => pads u ∧ u.benches = s1.benches
            ∧ ∃ t' c', u.strand = some t' ∧ t'.capsule = some c' ∧ c'.header = c.header ∧ c'.entries.length = count
              ∧ ∀ k, capByte c' k = if off ≤ k ∧ k < off + n then bs.getD (k - off) 0 else capByte c k) →
          ((off < 8 ∨ (off < 0x108 ∧ count ≤ e) ∨ top < off + n) → traps prot)
          ∧ (0x108 ≤ off → off + n ≤ top → edits)
          ∧ (8 ≤ off → off < 0x108 → e < count → ∀ z, z = (if off ≤ 8 * e + 12 ∧ 8 * e + 12 < off + n then bs.getD (8 * e + 12 - off) 0
                else capByte c (8 * e + 12)) →
              (t1.capsuleEnd = .open_ ∧ cursor < e ∧ z = 0 → edits)
              ∧ (t1.capsuleEnd ≠ .open_ ∨ e ≤ cursor ∨ z ≠ 0 →
                  traps { cause := .capItin, detail := place 40 24 (field c.header 40 24) ||| place 0 6 cursor })))

/-- R268, R88. -/
def Obligations.LdwWaitsForFull : Prop :=
  ∀ (s : State) (t : Strand) (f : Slot) (d : Fin 64) (off : Nat),
    Issues s t f → f.d = .x d → f.order = .rlx → off = (xOf t f.a + sext32 f).toNat → off + 8 ≤ 0x30000 → off % 8 = 0 →
    strandCommands s s.cur t = [] → (s.bench s.cur.bench).locks = [] → s.curCore.spadPoison = [] →
    ∀ before, before = olderWaiter s s.cur (upFrom (s.cur.core * 8) 8) (.ldw off) →
    ((s.curCore.full.contains (off / 8) = false ∨ before = true) →
        exec (.ldw f) s = .next (beginWait s (.ldw off) (some f)))
      ∧ (s.curCore.full.contains (off / 8) = true → before = false →
          ∃ s1, s1 = noteBanks off 8 s
            ∧ exec (.ldw f) s = .next (retire
                ((if f.hint then s1 else s1.setCurCore { s1.curCore with full := s1.curCore.full.filter (· != off / 8) }).setStrand
                  ((s1.strand.getD t).setX d.val (BitVec.ofNat 64 (bytesToNat (cellBytes s.curCore.spad off 8))))) .seq))

/-- R265 to R267, R74, R101, R103, R105, R309. -/
def Obligations.GlobalAccesses : Prop :=
  ∀ (s s1 s2 s3 : State) (t t2 : Strand) (f : Slot) (n : Nat) (bs : List Byte) (v : Word), Issues s t f →
    (memSpace f s.cur.seat = .global → n = tyBits f.ty / 8 → ¬ (f.order = .sc ∧ f.scope = .sys) →
      (fenceHolds s s.cur t classG = false →
        overlapsVecMem s s.cur t .global (xOf t f.a + sext32 f).toNat ((xOf t f.a + sext32 f).toNat + n - 1) = false →
        soHold t (xOf t f.a + sext32 f).toNat n s = .ok () s1 →
        loadGlobal (curWho t s1) (xOf t f.a + sext32 f).toNat n f.order f.scope s1 = .ok bs s2 →
        writeSel f.d (extendLoad f.ty bs) s2 = .ok () s3 → exec (.ld f) s = .next (retire s3 .seq))
      ∧ (readSel f.b s = .ok v s2 → s2.strand = some t2 → s2.cur = s.cur →
          writeHold t2 .global (xOf t2 f.a + sext32 f).toNat n s2 = .ok () s2 → fenceHolds s2 s2.cur t2 classG = false →
          pageHold t2 f.order f.scope (xOf t2 f.a + sext32 f).toNat n kWrite s2 = .ok () s2 →
          storeGlobal (curWho t2 s2) (xOf t2 f.a + sext32 f).toNat (natToBytes v.toNat n) f.order s2 = .ok () s3 →
          exec (.st f) s = .next (retire s3 .seq)))
      ∧ (f.order = .sc → f.scope = .sys → endWaits s t = false → ∀ i ∈ [Instr.ld f, .st f],
          exec i s = .next ((takeTrap s s.cur { cause := .scScope }).setIssue (.trapped { cause := .scScope })))

/-- R106, R100 (log 69), R271, R272, R270, R273, R155, R158. -/
def Obligations.FencesAndCaches : Prop :=
  ∀ (s : State) (t : Strand) (f : Slot), Issues s t f → pendingVecMem s s.cur t = false →
    ∀ mask lo len, mask = f.imm.toNat % 16 → lo = (xOf t f.a).toNat → len = (xOf t f.b).toNat →
    ((f.order = .rlx → endWaits s t = false → exec (.fence f) s = .next ((takeTrap s s.cur { cause := .illegalOperand }).setIssue
          (.trapped { cause := .illegalOperand })))
      ∧ (f.order = .sc → f.scope = .sys → endWaits s t = false → exec (.fence f) s = .next ((takeTrap s s.cur { cause := .scScope }).setIssue
          (.trapped { cause := .scScope })))
      ∧ (f.order ≠ .rlx → ¬ (f.order = .sc ∧ f.scope = .sys) →
          (mask = 0 → exec (.fence f) s = .next (retire s .seq))
          ∧ (mask ≠ 0 → (f.order = .acq ∨ ((mask.testBit 2 = false ∨ pendingNr s s.cur t = false)
                ∧ (mask.testBit 3 = false ∨ pendingEngines s s.cur t = false) ∧ (f.scope ≠ .sys ∨ sysPending s t.launch = false))) →
              exec (.fence f) s = .next (retire
                (let s1 := takeDesk s (s.launch t.launch).ctx f.order
                 if f.order ≠ .rel ∧ f.scope ≠ .core then dropUnRc s1 s1.cur.core else s1) .seq))
          ∧ (mask ≠ 0 → f.order ≠ .acq → ((mask.testBit 2 = true ∧ pendingNr s s.cur t = true)
                ∨ (mask.testBit 3 = true ∧ pendingEngines s s.cur t = true) ∨ (f.scope = .sys ∧ sysPending s t.launch = true)) →
              exec (.fence f) s = .next (beginWait s .older (some f)))))
      ∧ ((2 ^ 40 < len → endWaits s t = false → exec (.cinv f) s = .next ((takeTrap s s.cur { cause := .prot, addr := some (xOf t f.a) }).setIssue
            (.trapped { cause := .prot, addr := some (xOf t f.a) })))
        ∧ (len = 0 → exec (.cinv f) s = .next (retire s .seq))
        ∧ (0 < len → len ≤ 2 ^ 40 →
            (f.m = 0 → exec (.cinv f) s = .next (retire (dropL1Range s s.cur.core lo (lo + len - 1)) .seq))
            ∧ (f.m = 2 → exec (.cinv f) s = .next (retire
                (dropTranslations s (s.partOf (s.launch t.launch).ctx) lo (lo + len - 1)) .seq))
            ∧ (∀ u, f.m = 1 → cinvPages (curWho t s) (len / 65536 + 2) lo (lo + len - 1) s = .ok () u →
                exec (.cinv f) s = .next (retire u .seq))))
      ∧ ((∀ u, prefetch (curWho t s) (effAddr t f).toNat (f.m == 1) s = .ok () u → exec (.pref f) s = .next (retire u .seq))
        ∧ ((∀ u, prefetch (curWho t s) (effAddr t f).toNat (f.m == 1) s ≠ .ok () u) →
            exec (.pref f) s = .next (retire s .seq)))
      ∧ (∀ s1 s2 o l, checkRights (curWho t s) (effAddr t f).toNat kRead s = .ok o s1 →
          ensureLine (curWho t s) (effAddr t f).toNat kRead (chargePort (curWho t s) (effAddr t f).toNat s1) = .ok l s2 →
          (l.frame = false → exec (.touch f) s = .next (retire s2 .seq))
          ∧ (∀ gb, l.frame = true → blockOf (s2.launch t.launch) (effAddr t f).toNat = some gb →
              ((gb ∈ t.touches ∨ 4 ≤ t.touches.length) → exec (.touch f) s = .next (retire s2 .seq))
              ∧ (gb ∉ t.touches → t.touches.length < 4 → exec (.touch f) s = .next (retire
                  ((s2.changeBlock t.launch gb fun b => { b with hold := b.hold + 1 }).setStrand
                    { t with touches := t.touches ++ [gb] }) .seq))))

/-- R274 to R277, R86, R109, R140, R292. -/
def Obligations.AtomicResults : Prop :=
  (∀ (s s1 s2 s3 : State) (t : Strand) (f : Slot) (ord old : Nat) (va m : Nat),
      Issues s t f → va = (xOf t f.a + sext32 f).toNat → m = f.m.toNat →
      ∀ p ∈ ([(.aadd, 0x70), (.aand, 0x71), (.aor, 0x72), (.axor, 0x73), (.amin, 0x74), (.amax, 0x75), (.axchg, 0x76),
          (.acas, 0x77), (.afadd, 0x78), (.afmin, 0x79), (.afmax, 0x7A)] : List ((Slot → Instr) × Nat)),
        ∀ n, n = atomicBytes p.2 m f.ty → atomicChecks t f n s = .ok ord s1 →
        (f.hint = false →
            atomicAt (curWho t s) va n (atomicNew p.2 m f.ty (pairOf t f f.b) (pairOf t f f.c))
              (takeDesk s1 (s.launch t.launch).ctx f.order) = .ok old s2 →
            s3 = (if isAcquire f.order ord = true ∧ f.scope ≠ .core then dropRc s2 s.cur.core else s2) →
            exec (p.1 f) s = .next (retire (writeAtomic f p.2 old s3) .seq))
          ∧ (∀ l, f.hint = true → resolveAtomic (curWho t s) va n s1 = .ok l s2 →
              ∃ a : NrAtomic, a.va = va ∧ a.at_ = l ∧ a.opcode = p.2 ∧ a.operand = pairOf t f f.b ∧ a.compare = pairOf t f f.c
                ∧ a.launch = t.launch ∧ a.task = t.message.key
                ∧ exec (p.1 f) s = .next (retire (s2.setMem { s2.mem with nr := s2.mem.nr ++ [a] }) .seq)))
    ∧ (∀ (b c v : BitVec 32) (m : Nat),
        atomicNew 0x70 m .i32 b.toNat c.toNat v.toNat = some (v + b).toNat
          ∧ atomicNew 0x71 m .i32 b.toNat c.toNat v.toNat = some (v &&& b).toNat
          ∧ atomicNew 0x72 m .i32 b.toNat c.toNat v.toNat = some (v ||| b).toNat
          ∧ atomicNew 0x73 m .i32 b.toNat c.toNat v.toNat = some (v ^^^ b).toNat
          ∧ atomicNew 0x74 0 .i32 b.toNat c.toNat v.toNat = some (if v.toInt ≤ b.toInt then v else b).toNat
          ∧ atomicNew 0x74 1 .i32 b.toNat c.toNat v.toNat = some (if v.toNat ≤ b.toNat then v else b).toNat
          ∧ atomicNew 0x75 0 .i32 b.toNat c.toNat v.toNat = some (if b.toInt ≤ v.toInt then v else b).toNat
          ∧ atomicNew 0x75 1 .i32 b.toNat c.toNat v.toNat = some (if b.toNat ≤ v.toNat then v else b).toNat
          ∧ atomicNew 0x76 m .i32 b.toNat c.toNat v.toNat = some b.toNat
          ∧ atomicNew 0x77 m .i32 b.toNat c.toNat v.toNat = (if v = c then some b.toNat else none)
          ∧ atomicOld 0x70 .i32 v.toNat = v.signExtend 64)
    ∧ (∀ (s s1 s2 s3 : State) (t t1 : Strand) (f : Slot) (ord v : Nat),
        Issues s t f → atomicChecks t f 32 s = .ok ord s1 →
        atomicAt (curWho t s) (xOf t f.a + sext32 f).toNat 32 chunkNew (takeDesk s1 (s.launch t.launch).ctx f.order) =
          .ok v s2 →
        s3 = (if isAcquire f.order ord = true ∧ f.scope ≠ .core then dropRc s2 s.cur.core else s2) → s3.strand = some t1 →
        ∀ p last parts m left, p = v % 2 ^ 64 → last = v / 2 ^ 64 % 2 ^ 64 → parts = v / 2 ^ 128 % 2 ^ 16 →
          m = v / 2 ^ 144 % 2 ^ 32 → left = last - p →
          ∀ size, size = (if m = 0 ∨ parts = 0 ∨ last ≤ p then 0
              else min left (max m ((left + 2 * parts - 1) / (2 * parts)))) →
            exec (.chunk f) s = .next (retire (s3.setStrand ((t1.setX (selNum f.d) (BitVec.ofNat 64 p)).setX
              (selNum f.d + 1) (BitVec.ofNat 64 size))) .seq)
              ∧ (size ≠ 0 → chunkNew v = some (v / 2 ^ 64 * 2 ^ 64 + (p + size)))
              ∧ (size = 0 → chunkNew v = none))

/-- R287 to R291, R204, R206. -/
def Obligations.CapsuleInstructions : Prop :=
  ∀ (s : State) (t : Strand) (f : Slot), Issues s t f → pendingVecMem s s.cur t = false →
    ∀ wordSet : Word → Nat → Nat → Nat → Word → Prop, wordSet = (fun old lo n v new => field new lo n = v
      ∧ ∀ k, (k < lo ∨ lo + n ≤ k) → new.getLsbD k = old.getLsbD k) →
    ∀ traps : Instr → TrapInfo → Prop, traps = (fun i x => endWaits s t = false → exec i s = .next ((takeTrap s s.cur x).setIssue (.trapped x))) →
    (t.capsule = none → ∀ i ∈ [Instr.capnext f, .capend f, .capins f, .capdel f, .capset f, .capget f],
        traps i { cause := .prot })
      ∧ (∀ c, t.capsule = some c → ∀ cursor count, cursor = field c.header 16 6 → count = field c.header 22 6 →
        (t.capsuleEnd ≠ .open_ → ∀ i ∈ [Instr.capnext f, .capend f, .capins f, .capdel f, .capset f],
          traps i { cause := .capItin, detail := place 40 24 (field c.header 40 24) ||| place 0 6 cursor })
        ∧ (∀ d : Fin 64, f.d = .x d →
            (∀ p ∈ [(0, 0, 64), (1, 56, 8), (2, 44, 12), (3, 0, 32), (4, 40, 4)], f.m.toNat = p.1 →
              (xOf t f.a).toNat < count → exec (.capget f) s = .next (retire (s.setStrand
                (t.setX d.val (BitVec.ofNat 64 (field (c.entries.getD (xOf t f.a).toNat 0) p.2.1 p.2.2)))) .seq))
            ∧ (∀ p ∈ [(8, 22, 6), (9, 12, 4), (10, 6, 6), (11, 0, 6), (12, 0, 64), (13, 16, 6)], f.m.toNat = p.1 →
                exec (.capget f) s = .next (retire (s.setStrand
                  (t.setX d.val (BitVec.ofNat 64 (field c.header p.2.1 p.2.2)))) .seq)))
        ∧ (t.capsuleEnd = .open_ →
            exec (.capend f) s = .next (retire (s.setStrand { t with capsuleEnd := .ended }) .seq)
            ∧ (∀ i v, i = (xOf t f.a).toNat → v = xOf t f.b →
                (cursor < i → i ≤ count → count < 32 → field v 32 8 = 0 → exec (.capins f) s = .next (retire (s.setStrand
                  { t with capsule := some { c with
                    entries := c.entries.take i ++ v :: c.entries.drop i, header := c.header + place 22 6 1 } }) .seq))
                ∧ (cursor < i → i < count → exec (.capdel f) s = .next (retire (s.setStrand
                  { t with capsule := some { c with
                    entries := removeAt i c.entries, header := c.header - place 22 6 1 } }) .seq))
                ∧ (f.m = 0 → cursor < i → i < count → field v 32 8 = 0 → exec (.capset f) s = .next (retire (s.setStrand
                  { t with capsule := some { c with entries := changeAt i (fun _ => v) c.entries } }) .seq))
                ∧ (∀ p ∈ [(1, 56, 8), (2, 44, 12), (3, 0, 32), (4, 40, 4)], f.m.toNat = p.1 → cursor < i → i < count →
                    (v.toNat < 2 ^ p.2.2 → ∃ e, wordSet (c.entries.getD i 0) p.2.1 p.2.2 v.toNat e ∧ exec (.capset f) s =
                      .next (retire (s.setStrand
                        { t with capsule := some { c with entries := changeAt i (fun _ => e) c.entries } }) .seq))
                    ∧ (2 ^ p.2.2 ≤ v.toNat → traps (.capset f)
                        { cause := .capItin, detail := place 40 24 (field c.header 40 24) ||| place 0 6 cursor }))
                ∧ (∀ p ∈ [(9, 12, 4), (10, 6, 6), (11, 0, 6)], f.m.toNat = p.1 → v.toNat < 2 ^ p.2.2 →
                    ∀ tile, tile = (if p.1 = 10 then
                        c.tile.take (128 * (v.toNat + 1)) ++ List.replicate (128 * (v.toNat + 1) - c.tile.length) 0
                      else c.tile) →
                    ∃ h, wordSet c.header p.2.1 p.2.2 v.toNat h ∧ exec (.capset f) s = .next (retire (s.setStrand
                      { t with capsule := some { c with header := h, tile := tile } }) .seq))
                ∧ (f.m = 8 → cursor + 1 ≤ v.toNat → v.toNat ≤ count → exec (.capset f) s = .next (retire (s.setStrand
                  { t with capsule := some { c with
                    header := setField c.header 22 6 v.toNat, entries := c.entries.take v.toNat } }) .seq)))
            ∧ (∀ dest r, dest = field (c.entries.getD (cursor + 1) 0) 44 12 → r = (s.launch t.launch).rank dest →
                cursor + 1 < count → t.sends.length < 16 → r.st ≠ 0 →
                (r.st = 1 → permitted s (s.launch t.launch).ctx r.bx r.bY = true) →
                exec (.capnext f) s = .next (retire (s.setStrand
                  { t with capsuleEnd := .forward, sends := t.sends ++ [.forward] }) .seq))))
      ∧ (∀ (d : Fin 64) count tile eb tb s1 s2 dest r, f.d = .x d → count = f.imm.toNat % 64 →
          tile = 128 * (f.imm.toNat / 64 % 64 + 1) → 1 ≤ count → count ≤ 32 →
          readSource t (sourceSpace f s.cur.seat) (xOf t f.a) (8 * count) s = .ok eb s1 →
          readSource (s1.strand.getD t) (sourceSpace f s.cur.seat) (xOf t f.b) tile s1 = .ok tb s2 →
          s2.launches = s.launches → s2.ctl = s.ctl → (∀ e ∈ (List.range count).map (byteWord eb), field e 32 8 = 0) →
          dest = field (byteWord eb 0) 44 12 → r = (s.launch t.launch).rank dest → t.sends.length < 16 → r.st ≠ 0 →
          (r.st = 1 → permitted s (s.launch t.launch).ctx r.bx r.bY = true) →
          ∃ (m : Message) (c : Capsule) (u : Strand), m.capsule = some c ∧ m.dest = dest ∧ m.cls = 2 ∧ c.tile = tb
            ∧ c.entries = (List.range count).map (byteWord eb)
            ∧ field c.header 22 6 = count ∧ field c.header 16 6 = 0
            ∧ u = { s2.strand.getD t with sends := (s2.strand.getD t).sends ++ [.message m] }
            ∧ (s2.strand.isSome → exec (.capnew f) s = .next (retire (s2.setStrand
                (u.setX d.val (BitVec.ofNat 64 (field c.header 40 24)))) .seq)))

/-- R293, R294, R295, R110, R95; that a poisoned word of the object makes each of its instructions trap is the model's reading (log 98). -/
def Obligations.BarrierPhases : Prop :=
  (∀ (s : State) (t : Strand) (f : Slot) (n : Fin 16) (h : Handle) (o : Barrier), Issues s t f → f.a = .b n →
      pendingVecMem s s.cur t = false →
      h = t.handles.get n.val { object := n.val } → o = (s.bench s.cur.bench).barriers.get h.object {} →
      ∀ put : State → Barrier → State, put = (fun s o => s.setBench s.cur.bench
        { s.bench s.cur.bench with barriers := (s.bench s.cur.bench).barriers.put h.object o }) →
      (barrierPoisoned s s.cur.bench h.object = true → endWaits s t = false →
        ∀ x : TrapInfo, x = { cause := .poison, addr := some (BitVec.ofNat 64 (0x3FF800 + 32 * h.object)) } →
        (∀ i ∈ [Instr.barinit f, .barexp f, .barwait f], exec i s = .next ((takeTrap s s.cur x).setIssue (.trapped x)))
        ∧ (∀ s1, fenceBody t .rel .bench 7 s = .ok () s1 → s1.benches = s.benches → s1.cur = s.cur →
          exec (.bararrive f) s = .next ((takeTrap (onlyMemory s s1) s.cur x).setIssue (.trapped x))))
      ∧ (barrierPoisoned s s.cur.bench h.object = false →
      (∃ o', exec (.barinit f) s = .next (retire (put s o') .seq) ∧ o'.expect = (xOf t f.b).toNat % 2 ^ 16
          ∧ o'.pend = (xOf t f.c).toNat % 2 ^ 56 ∧ o'.arrived = 0 ∧ o'.under = false
          ∧ o'.initTask = some (t.launch, t.message.key)
          ∧ o'.phase = (o.phase != (!o.complete && decide (o'.expect = 0 ∧ o'.pend = 0))))
        ∧ (∃ o', exec (.barexp f) s = .next (retire (put s o') .seq) ∧ o'.arrived = o.arrived
          ∧ (f.m = 1 → o'.expect = min 65535 (o.expect + (xOf t f.b).toNat % 2 ^ 16) ∧ o'.pend = o.pend)
          ∧ (f.m = 0 → o'.expect = o.expect ∧ o'.pend = min (2 ^ 56 - 1) (o.pend + (xOf t f.b).toNat))
          ∧ o'.phase = (o.phase != (!o.complete && o'.complete)))
        ∧ (∀ s1, fenceBody t .rel .bench 7 s = .ok () s1 → s1.benches = s.benches → s1.cur = s.cur →
          (o.expect = 0 → exec (.bararrive f) s = .next (retire s1 .seq))
          ∧ (o.expect ≠ 0 → exec (.bararrive f) s = .next (retire ((put s1 o.arrive).setStrand
              { t with handles := t.handles.put n.val { h with arr := true, ph := o.phase } }) .seq)))
        ∧ ((h.arr = true → o.phase = h.ph) → (h.arr = false → o.complete = false) →
          exec (.barwait f) s = .next (beginWait s (.barwait h.object) (some f)))
        ∧ (∀ s1, (if h.arr then o.phase ≠ h.ph else o.complete = true) → fenceBody t .acq .bench 15 s = .ok () s1 →
          exec (.barwait f) s = .next (retire (s1.setStrand
            { t with handles := t.handles.put n.val { h with arr := false } }) .seq))))
    ∧ (∀ o : Barrier, o.expect ≠ 0 →
        (o.complete = true → o.arrive.arrived = 1 ∧ (o.arrive.phase = !o.phase ↔ o.expect = 1 ∧ o.pend = 0))
          ∧ (o.complete = false → o.arrive.arrived = min (max o.expect o.arrived) (o.arrived + 1)
              ∧ (o.arrive.phase = !o.phase ↔ o.arrive.complete = true)))
    ∧ (∀ (o : Barrier) (bytes : Nat),
        ((o.land bytes).pend = o.pend - bytes ∧ (o.land bytes).under = (o.under || decide (o.pend < bytes)))
          ∧ (o.land bytes).phase = (o.phase != (!o.complete && (o.land bytes).complete)))

/-- R305, whole; what each register holds is R304's, in SystemRegisterValues. -/
def Obligations.SystemRegisters : Prop :=
  ∀ (s s1 : State) (t : Strand) (f : Slot) (sel : Nat), Issues s t f → sel = f.imm.toNat % 4096 →
    (∀ w, sysRead s t sel = some w → writeSel f.d w s = .ok () s1 → exec (.sysrd f) s = .next (retire s1 .seq))
      ∧ (∀ n : Fin 16, sel = 0x30 + n.val → exec (.syswr f) s = .next (retire (s.setStrand { t with
          handles := t.handles.put n.val
            { arr := (xOf t f.a).getLsbD 7, ph := (xOf t f.a).getLsbD 6, object := (xOf t f.a).toNat % 64 } }) .seq))
      ∧ ((sysRead s t sel).isSome → ¬ (0x30 ≤ sel ∧ sel ≤ 0x3F) → endWaits s t = false →
          exec (.syswr f) s = .next ((takeTrap s s.cur { cause := .illegalOperand }).setIssue
            (.trapped { cause := .illegalOperand })))

/-- R286, whole, with the layout of R198. -/
def Obligations.RankQuery : Prop :=
  ∀ (s : State) (t : Strand) (f : Slot) (d a : Fin 64) (l : Launch) (e : RankEntry), Issues s t f → f.d = .x d → f.a = .x a →
    l = s.launch t.launch → e = l.ranks.get (t.x a.val).toNat {} →
    exec (.rankq f) s = .next (retire (s.setStrand (t.setX d.val
      (if (t.x a.val).toNat < field (l.header.getD 1 0) 44 12 + 1 then
        place 30 2 e.st ||| place 16 5 e.bx ||| place 8 4 e.bY ||| place 0 3 e.seat
       else 0))) .seq)

/-- R285, R306, R307, R215, R217, R64; that FCRW takes a matrix command as completed while its word still waits for q1 (log 99), and
judges a change of a flag bit against the FCR as it stands (log 45), are the model's choices. -/
def Obligations.CountersAndControls : Prop :=
  ∀ (s : State) (t : Strand) (f : Slot) (d : Fin 64) (l : Launch), Issues s t f → f.d = .x d → l = s.launch t.launch →
    (∀ q : Fin 32, f.m = 0 → f.a = .q q → queueNamed l q.val = true → exec (.qlen f) s =
        .next (retire (s.setStrand (t.setX d.val (BitVec.ofNat 64 (queueWords s t q.val).length))) .seq))
      ∧ (f.m = 1 → exec (.qlen f) s = .next (retire (s.setStrand (t.setX d.val
          (place 32 32 (l.overflow.get t.rank []).length ||| place 0 8 (seatBox l s.cur).length))) .seq))
      ∧ (∀ (k : Fin 8) (event : Nat) (allowed : Bool), f.c = .k k → event = f.imm.toNat % 64 →
          allowed = (match s.ctx l.ctx with | some c => c.allow.getLsbD event | none => false) →
          exec (.perfrd f) s = .next (retire (s.setStrand ((t.setX d.val
            (if allowed then
              if event = 13 then (s.bench s.cur.bench).softErrors
              else if event < 16 then l.counters.get (s.cur.bench * 64 + event) 0 else 0
             else 0)).setK k.val allowed)) .seq))
      ∧ (∀ (old new a : Word) (idle : Bool), old = t.fcr → a = xOf t f.a → f.m.toNat ≤ 4 →
          new = (match f.m.toNat with
            | 0 => old | 1 => a &&& 0x1F3E | 2 => a &&& 0x1F3E | 3 => old ||| (a &&& 0x1F3E) | _ => old &&& ~~~ a) →
          idle = ((strandCommands s s.cur t).isEmpty && !matrixWork s s.cur t && !pendingSfu s s.cur) →
          ((idle = true ∨ (f.m ≠ 0 ∧ f.m ≠ 2 ∧ (new ^^^ old) &&& 0x1F00 = 0)) → exec (.fcrw f) s =
            .next (retire (s.setStrand (if f.m = 0 ∨ f.m = 2 then { t with fcr := new }.setX d.val old
              else { t with fcr := new })) .seq))
          ∧ (idle = false → (f.m = 0 ∨ f.m = 2 ∨ (new ^^^ old) &&& 0x1F00 ≠ 0) →
            exec (.fcrw f) s = .next (beginWait s .older (some f))))

/-- R299 to R301, R51. -/
def Obligations.ContextInstructions : Prop :=
  ∀ (s s1 s2 : State) (t : Strand) (f : Slot) (w : Word) (key : Nat) (r : Nat → CtxReq), Issues s t f →
    pendingVecMem s s.cur t = false →
    r = (fun op => { op := op, issuerCtx := (s.launch t.launch).ctx, issuer := .strand t.launch s.cur
                     target := (xOf t f.b).toNat % 4096
                     ops := if selNum f.a = 0 then [] else (List.range 6).map fun i => t.x (selNum f.a + i) }) →
    ∀ p ∈ ([(.ctxnew, 0x98), (.ctxgrant, 0x99), (.ctxstart, 0x9A), (.ctxstop, 0x9B), (.ctxresume, 0x9C), (.ctxrevoke, 0x9D),
        (.ctxkill, 0x9E), (.ctxquery, 0x9F)] : List ((Slot → Instr) × Nat)),
      (awaitedOp t = none → selNum f.a ≤ 58 →
          (request s (r p.2) = .done w s1 → writeSel f.d w s1 = .ok () s2 → exec (p.1 f) s = .next (retire s2 .seq))
          ∧ ((request s (r p.2) = .refused ∨ request s (r p.2) = .denied) → endWaits s t = false →
              exec (p.1 f) s = .next ((takeTrap s s.cur { cause := .ctxOp }).setIssue (.trapped { cause := .ctxOp })))
          ∧ (request s (r p.2) = .later → exec (p.1 f) s = .next (beginWait s .controller (some f)))
          ∧ (request s (r p.2) = .pending key s1 → exec (p.1 f) s = .next (beginWait s1 (.ctxOp key) (some f))))
        ∧ (awaitedOp t = none → 58 < selNum f.a → endWaits s t = false → exec (p.1 f) s =
            .next ((takeTrap s s.cur { cause := .illegalOperand }).setIssue (.trapped { cause := .illegalOperand })))
        ∧ (∀ o : CtxOp, awaitedOp t = some key → s.op key = some o →
            (o.result = none → exec (p.1 f) s = .next (beginWait s (.ctxOp key) (some f)))
            ∧ (o.result = some none → endWaits s t = false → exec (p.1 f) s =
                .next ((takeTrap (dropOp s key) s.cur { cause := .ctxOp }).setIssue (.trapped { cause := .ctxOp })))
            ∧ (o.result = some (some w) → writeSel f.d w (dropOp s key) = .ok () s2 →
                exec (p.1 f) s = .next (retire s2 .seq)))

/-- R27, R28, R33, R34, R45, R48; that NO_CONTEXT comes before BAD_COMMAND is the model's choice (log 61). -/
def Obligations.HostCommands : Prop :=
  ∀ (s s1 : State) (fn slot ctx : Nat) (c : HostCmd) (rest : List HostCmd),
    (s.fn fn).accepted = c :: rest → c.slot = slot → s1 = s.setFn fn { s.fn fn with accepted := rest } →
    ∀ code (bad : Bool), code = (c.words.getD 0 0).toNat / 2 ^ 56 →
      bad = (!hostCodes.contains code || (fn != 0 && decide (0x10 ≤ code) && decide (code ≤ 0x14))
        || field (c.words.getD 0 0) 32 12 != 0 || c.words.getD 7 0 != 0) →
    ∀ done : State → Nat → Word → Host.Outcome State Fault Refusal,
      done = (fun u status w => .next (completeSlot u fn slot ((c.words.getD 0 0).setWidth 32) status w)) →
    (bad = true → fnAuthority s1 fn = none → exec (.hostBadCommand fn slot) s = done s1 4 0)
      ∧ (bad = true → fnAuthority s1 fn = some ctx → exec (.hostBadCommand fn slot) s = done s1 2 0)
      ∧ (bad = false → fnAuthority s1 fn = none → code = 0x20 → exec (.ping fn slot) s = done s1 4 0)
      ∧ (bad = false → fnAuthority s1 fn = some ctx →
          (∀ r : Nat → CtxReq, r = (fun op => { op := op, issuerCtx := ctx, issuer := .host fn slot ((c.words.getD 0 0).setWidth 32)
                                                target := field (c.words.getD 0 0) 44 12, ops := (c.words.drop 1).take 6 }) →
            ∀ p ∈ ([(.hostCtxnew, 0x01, 0x98), (.hostCtxgrant, 0x02, 0x99), (.hostCtxstart, 0x03, 0x9A), (.hostCtxstop, 0x04, 0x9B),
                (.hostCtxresume, 0x05, 0x9C), (.hostCtxrevoke, 0x06, 0x9D), (.hostCtxkill, 0x07, 0x9E),
                (.hostCtxquery, 0x08, 0x9F), (.partkill, 0x11, 0x9E)] : List ((Nat → Nat → Instr) × Nat × Nat)),
              code = p.2.1 →
              (∀ w u, request s1 (r p.2.2) = .done w u → exec (p.1 fn slot) s = done u 0 w)
              ∧ (request s1 (r p.2.2) = .refused → exec (p.1 fn slot) s = done s1 1 0)
              ∧ (request s1 (r p.2.2) = .denied → exec (p.1 fn slot) s = done s1 3 0)
              ∧ (∀ k u, request s1 (r p.2.2) = .pending k u → exec (p.1 fn slot) s = .next u)
              ∧ (request s1 (r p.2.2) = .later → ∃ u, exec (p.1 fn slot) s = .next u ∧ u.fn fn = s.fn fn ∧ u.ctl = s.ctl))
          ∧ (code = 0x10 → revoking s1 = true → ∃ u, exec (.partnew fn slot) s = .next u ∧ u.fn fn = s.fn fn ∧ u.ctl = s.ctl)
          ∧ (code = 0x10 → revoking s1 = false →
              (∀ id vf u, newPartition s1 ((c.words.drop 1).take 6) = some (id, vf, u) →
                exec (.partnew fn slot) s = done u 0 (place 0 12 id ||| place 16 8 vf))
              ∧ (newPartition s1 ((c.words.drop 1).take 6) = none → exec (.partnew fn slot) s = done s1 1 0))
          ∧ (code = 0x12 → ∀ k : BitVec 384, k = BitVec.ofNat 384 (bytesToNat (wordsToBytes ((c.words.drop 1).take 6))) →
              ∃ u, exec (.mgmtkey fn slot) s = done u 0 0 ∧ u.mgc.key = (if k = 0 then none else some k))
          ∧ (∀ a, a = (c.words.getD 1 0).toNat →
              (code = 0x13 → exec (.hostLinkup fn slot) s = if a < 16 then done (bringUp s1 a) 0 0 else done s1 1 0)
              ∧ (code = 0x14 → exec (.hostLinkdown fn slot) s = if a < 16 then done (dropLink s1 a) 0 0 else done s1 1 0))
          ∧ (code = 0x20 → exec (.ping fn slot) s = done s1 0 0))

/-- R169, R168, R170, R327, R335: `c'` differs from `c` only in what the last holder could have written. That a context which has waited
longer comes first is the model's reading of the order of waits (log 36). -/
def Obligations.ClaimClears : Prop :=
  ∀ (s s1 : State) (t : Strand) (f : Slot) (c : Core), Issues s t f → c = s.core s.cur.core → c.claim = none →
    olderWaiter s s.cur (upFrom (s.cur.core * 8) 8) .claim = false →
    s1 = s.setCore s.cur.core (claimed c s.cur.hc) →
    takeClaim s = .ok () s1
      ∧ (∀ c1, c1 = s1.core s.cur.core → c1.claim = some s.cur.hc
          ∧ (∀ n, c1.row n = 0) ∧ (∀ n, n < 4 → c1.ymMask n = 0xFFFF) ∧ (∀ n, n < 4 → c1.xmMask n = BitVec.allOnes 64)
          ∧ c1.linkIn = false ∧ c1.linkFwd = false ∧ c1.linkFeed = false ∧ c1.linkQueue = [])
      ∧ (∀ c', c = { c' with
            rows := c.rows, ym := c.ym, xm := c.xm, linkIn := c.linkIn, linkFwd := c.linkFwd, linkFeed := c.linkFeed
            linkQueue := c.linkQueue } → claimed c' s.cur.hc = claimed c s.cur.hc)
      ∧ (c.inFlight = [] → pendingSfu s1 s1.cur = false → exec (.vfence f) s = .next (retire s1 .seq))
      ∧ (mwaitPending s1 s1.cur t f.a = false → exec (.mwait f) s = .next (retire s1 .seq))

/-- R309, R308, R168, R170, R173, R216, R310, R323 to R325; that VGATH and VSCAT wait where their indices cannot be
known yet is the model's choice (log 72). -/
def Obligations.VectorIssue : Prop :=
  ∀ (s s0 : State) (t : Strand) (f : Slot), Issues s t f →
    ∀ (cmd : Nat → Word → Word → Word → VecCmd), cmd = (fun op a b c =>
      { key := s.ticket, hc := s.cur.hc, opcode := op, slot := f, a := a, b := b, c := c
        ea := if selWin f.d then BitVec.ofNat 64 (imm32 f) else xOf t f.a + sext32 f
        fcr := t.fcr, launch := t.launch, task := t.message.key, pc := t.group }) →
    ∀ (puts : Instr → State → VecCmd → Prop), puts = (fun i u v => u.cur = s.cur → u.ticket = s.ticket →
      (u.curCore.commands.length < 16 → exec i s = .next (retire
        (u.setCurCore { u.curCore with commands := u.curCore.commands ++ [v] }).nextTicket .seq))
      ∧ (16 ≤ u.curCore.commands.length → exec i s = .next (beginWait s .engineFull (some f)))) →
    (takeClaim s = .ok () s0 → (∀ n, f.d = .win n → imm32 f + 256 ≤ 196608 ∧ imm32 f % 8 = 0) →
      (∀ p ∈ ([(.vadd, 0xB0), (.vsub, 0xB1), (.vmul, 0xB2), (.vfma, 0xB3), (.vmin, 0xB4), (.vmax, 0xB5), (.vabs, 0xB6),
          (.vcmp, 0xB7), (.vsel, 0xB8), (.vand, 0xB9), (.vor, 0xBA), (.vxor, 0xBB), (.vshl, 0xBC), (.vshr, 0xBD),
          (.vred, 0xC1), (.vscan, 0xC2), (.vshuf, 0xC4)] : List ((Slot → Instr) × Nat)),
          puts (p.1 f) s0 (cmd p.2 (xOf t f.a) (xOf t f.b) (xOf t f.c)))
        ∧ (checkPart f s0 = .ok () s0 → puts (.vcvt f) s0 (cmd 0xBE (xOf t f.a) (xOf t f.b) (xOf t f.c)))
        ∧ (selNum f.a % (tyBits f.ty / 8) = 0 → puts (.vq f) s0 (cmd 0xBF (xOf t f.a) (xOf t f.b) (xOf t f.c)))
        ∧ (selNum f.d % (tyBits f.ty / 8) = 0 → puts (.vdq f) s0 (cmd 0xC0 (xOf t f.a) (xOf t f.b) (xOf t f.c)))
        ∧ ((tyBits f.ty = 8 → selNum f.d % 2 = 0) → puts (.vnz f) s0 (cmd 0xC3 (xOf t f.a) (xOf t f.b) (xOf t f.c)))
        ∧ ((f.m = 1 → imm32 f < 2048 / tyBits f.ty) → puts (.vbcast f) s0 (cmd 0xC5 (xOf t f.a) (xOf t f.b) (xOf t f.c)))
        ∧ (∀ u stride, stride = strideOf t f.b → selNum f.d % rowCount f.m = 0 →
            checkRows t (memSpace f s.cur.seat) (rowAddrs (effAddr t f) stride (rowCount f.m)) stride 256 32 kRead s0 = .ok () u →
            puts (.vld f) u (cmd 0xC6 (xOf t f.a) stride (xOf t f.c)))
        ∧ (∀ u stride, stride = strideOf t f.c → selNum f.b % rowCount f.m = 0 →
            checkRows t (memSpace f s.cur.seat) (rowAddrs (effAddr t f) stride (rowCount f.m)) stride 256 32 kWrite s0 = .ok () u →
            puts (.vst f) u (cmd 0xC7 (xOf t f.a) (xOf t f.b) stride))
        ∧ (∀ u, checkIndexed 0xC8 t f f.b s0 = .ok () u → puts (.vgath f) u
            (cmd 0xC8 (xOf t f.a) (xOf t f.b) (xOf t f.c)))
        ∧ (∀ u, checkIndexed 0xC9 t f f.c s0 = .ok () u → puts (.vscat f) u
            (cmd 0xC9 (xOf t f.a) (xOf t f.b) (xOf t f.c)))
        ∧ (s0.curCore.sfu.length < 32 → s0.curCore.commands.length < 16 → exec (.vsfu f) s = .next (retire ((s0.setCurCore
            { s0.curCore with
              commands := s0.curCore.commands ++ [cmd 0xCA (xOf t f.a) (xOf t f.b) (xOf t f.c)]
              sfu := s0.curCore.sfu ++ [{ hc := s.cur.hc, command := some s.ticket }] }).nextTicket) .seq))
        ∧ (32 ≤ s0.curCore.sfu.length ∨ 16 ≤ s0.curCore.commands.length →
            exec (.vsfu f) s = .next (beginWait s .engineFull (some f))))
      ∧ (s.curCore.holds s.cur.hc = false → s.curCore.claim.isSome = true →
          ∀ i ∈ ([.vadd, .vsub, .vmul, .vfma, .vmin, .vmax, .vabs, .vcmp, .vsel, .vand, .vor, .vxor, .vshl, .vshr, .vcvt, .vq,
            .vdq, .vred, .vscan, .vnz, .vshuf, .vbcast, .vld, .vst, .vgath, .vscat, .vsfu, .vfence] : List (Slot → Instr)),
            exec (i f) s = .next (beginWait s .claim (some f)))

/-- R329, R331, R332, R334 to R336, R112, R155; that MSTA's range runs from its lowest byte to its highest is the model's reading (log 73). -/
def Obligations.MatrixIssue : Prop :=
  ∀ (s s0 : State) (t : Strand) (f : Slot), Issues s t f → takeClaim s = .ok () s0 → pendingVecMem s s.cur t = false →
    ∀ (cmd : Nat → Word → VecCmd), cmd = (fun op x =>
      { key := s.ticket, hc := s.cur.hc, opcode := op, slot := f, a := xOf t f.a, b := xOf t f.b, c := x
        ea := if selWin f.d then BitVec.ofNat 64 (imm32 f) else xOf t f.a + sext32 f
        fcr := t.fcr, launch := t.launch, task := t.message.key, pc := t.group }) →
    ∀ (queued : State → VecCmd → State), queued = (fun u v =>
      (u.setCurCore { u.curCore with commands := u.curCore.commands ++ [v] }).nextTicket) →
    (s0.curCore.commands.length < 16 →
      (∀ p ∈ ([(.mzero, 0xD2), (.mpred, 0xD3), (.mlnk, 0xD5)] : List ((Slot → Instr) × Nat)),
          exec (p.1 f) s = .next (retire (queued s0 (cmd p.2 (xOf t f.c))) .seq))
        ∧ (∀ p ∈ ([(.mma, 0xD0), (.mmas, 0xD1)] : List ((Slot → Instr) × Nat)), ∀ spans u,
            matChecks p.2 f (xOf t f.a) (xOf t f.b) (xOf t f.c) s0 = .ok () s0 →
            spans = matSpans p.2 f (xOf t f.a) (xOf t f.b) (xOf t f.c) s.cur.seat →
            register t (spans.map fun q => (s.cur.bench, q)) (.command s.ticket) (queued s0 (cmd p.2 (xOf t f.c))) = .ok () u →
            exec (p.1 f) s = .next (retire u .seq))
        ∧ (∀ stride addrs u bs, stride = mstaStride t f → addrs = rowAddrs (effAddr t f) stride 16 →
            ∀ sp, sp = memSpace { f with c := .x 0 } s.cur.seat →
            checkRows t sp addrs stride (mstaRow f) 32 kEngineWrite s0 = .ok () u → storeHold t u = .ok () u →
            engineBlocks t [rowsBounds sp addrs (mstaRow f)] u = .ok bs u →
            u.cur = s.cur → u.ticket = s.ticket → u.curCore.commands.length < 16 →
            ∀ v, register t [(s.cur.bench, rowsBounds sp addrs (mstaRow f))] (.command s.ticket)
              (queued u { cmd 0xD4 stride with blocks := bs }) = .ok () v →
            exec (.msta f) s = .next (retire (holdBlocks v t.launch bs) .seq)))
      ∧ (exec (.mwait f) s = .next (if mwaitPending s0 s0.cur t f.a then beginWait s .older (some f) else retire s0 .seq))

/-- R183, R184, R329, R330, R337, R338, R340, R341, R112, R155. -/
def Obligations.CopyIssue : Prop :=
  ∀ (s s0 s1 u : State) (t : Strand) (f : Slot) (bs : List (Nat × Nat)) (c : CopyCmd), Issues s t f → s1.cur = s.cur →
    ∀ (puts : Instr → List Span → Prop), puts = (fun i near => engineBlocks t near s1 = .ok bs s1 → pendingVecMem s1 s.cur t = false →
      ((s1.bench s.cur.bench).copies.length < 32 →
        register t (near.map fun p => (s.cur.bench, p)) (.command s1.ticket) s1.nextTicket = .ok () u →
        ∀ c1, c1 = { c with key := s1.ticket, blocks := bs, issued := (u.bench s.cur.bench).clocks } →
        ∀ joins v, joins = (u.bench s.cur.bench).copies.find? c1.mergesWith →
          v = (if joins.isSome then countEvent u t.launch s.cur.bench 6 1 else u) →
        exec i s = .next (retire (holdBlocks (v.setBench s.cur.bench { v.bench s.cur.bench with
          copies := (v.bench s.cur.bench).copies ++ [{ c1 with merge := some ((joins.map (·.key)).getD s1.ticket) }] }) t.launch bs) .seq))
      ∧ (32 ≤ (s1.bench s.cur.bench).copies.length → exec i s = .next (beginWait s .engineFull (some f)))) →
    ∀ (base : CopyKind → LockSpace → LockSpace → CopyCmd), base = (fun k src dst => { copyBase t k f s with
      src := src, dst := dst, dstBase := xOf t f.a, srcBase := xOf t f.b }) →
    (∀ src, spaceCode (immField f 30 2) (immField f 27 3) = some src →
    (∀ dst, spaceCode (immField f 25 2) (immField f 22 3) = some dst →
    (c = { base .cpy src dst with rowBytes := (xOf t f.c).toNat, rowCount := 1, srcStride := 0, dstStride := 0 } →
      (xOf t f.c).toNat ≤ 2 ^ 32 → (c.x6 = true → c.rowBytes % 3 = 0) →
      copyChecks t c (fun v => .ok () v) s = .ok () s1 → puts (.cpy f) c.spans)
    ∧ (c = { base .cpyx src dst with
          rowBytes := field (xOf t f.c) 0 32, rowCount := field (xOf t f.c) 32 16 + 1
          srcStride := signedOf 32 (field (xPair t f.c) 0 32), dstStride := signedOf 32 (field (xPair t f.c) 32 32) } →
      1 ≤ c.rowBytes → c.rowBytes ≤ 2 ^ 24 → field (xOf t f.c) 48 16 = 0 → (c.x6 = true → c.rowBytes % 3 = 0) →
      copyChecks t c (fun v => .ok () v) s = .ok () s1 → puts (.cpyx f) c.spans))
    ∧ (c = { base .cpysh src (.shelf (immField f 22 3)) with rowBytes := (xOf t f.c).toNat } →
      (xOf t f.a).toNat % 32 = 0 → (xOf t f.c).toNat % 32 = 0 →
      copyChecks t c (fun v => .ok () v) s = .ok () s1 → puts (.cpysh f) c.spans))
    ∧ (takeClaim s = .ok () s0 → c = { copyBase t .cpymm f s0 with
          src := if f.space = .b then .bench else .global, dst := .spad s.cur.seat, dstBase := xOf t f.a, srcBase := xOf t f.b
          rowBytes := 32 * cmdWords 0xD0 f, full := false, ncpl := false, x6 := false, barrier := none, tag := matTag f
          follow := some { captureCmd t 0xD0 { f with b := f.c, c := .x 0 } s0 with a := xOf t f.a, b := xOf t f.c, c := 0 } } →
      kOk 0xD0 f = true → (xOf t f.c).toNat + matBBytes f ≤ 1048576 → (xOf t f.a).toNat % 32 = 0 → (xOf t f.c).toNat % 128 = 0 →
      copyChecks t c (fun v => .ok () v) s0 = .ok () s1 →
      puts (.cpymm f) (c.spans ++ spanOf (.shelf s.cur.seat) (xOf t f.c).toNat (matBBytes f) false))
    ∧ ((2 ^ 32 < (xOf t f.c).toNat ∨ (immField f 19 1 = 1 ∧ (xOf t f.c).toNat % 3 ≠ 0)) → endWaits s t = false →
        exec (.cpy f) s = .next ((takeTrap s s.cur { cause := .illegalOperand }).setIssue (.trapped { cause := .illegalOperand })))

/-- R185, R342, R329, R112, R199. -/
def Obligations.IndexedCopies : Prop :=
  ∀ (s u : State) (t : Strand) (f : Slot), Issues s t f → pendingVecMem s s.cur t = false →
    ∀ (e count b : Nat) (r : RankEntry), e = 2 ^ immField f 28 2 → count = field (xOf t f.c) 0 32 → b = s.cur.bench →
    r = (s.launch t.launch).rank (field (xOf t f.c) 32 12) →
    ∀ (tsp lsp : LockSpace), (tsp = .bench ∧ immField f 30 2 = 1 ∨ tsp = .spad r.seat ∧ immField f 30 2 = 2) →
    (lsp = .bench ∧ immField f 26 2 = 1 ∨ lsp = .spad s.cur.seat ∧ immField f 26 2 = 2) →
    ∀ p ∈ ([(.getx, false), (.placex, true)] : List ((Slot → Instr) × Bool)),
      (count ≤ 65536 → field (xOf t f.c) 44 20 = 0 →
        (r.st ≠ rankTransit → rankChecks t (field (xOf t f.c) 32 12) true s = .ok () s →
          engineBounds lsp (xOf t f.a).toNat (count * e) s = .ok () s → (xOf t f.b).toNat + 4 * count ≤ Config.spadBytes →
          (xOf t f.a).toNat % e = 0 → (xPair t f.c).toNat % e = 0 → (xOf t f.b).toNat % 4 = 0 →
          ((s.bench b).copies.length < 32 →
            ∀ near far, near = spanOf lsp (xOf t f.a).toNat (count * e) (!p.2) ++ spanOf (.spad s.cur.seat) (xOf t f.b).toNat (4 * count) false →
            far = (if count = 0 then [] else spanOf tsp (xPair t f.c).toNat (targetEnd tsp - (xPair t f.c).toNat) p.2) →
            register t ((near.map fun q => (b, q)) ++ far.map fun q => (r.bench, q)) (.command s.ticket) s.nextTicket = .ok () u →
            ∀ c, c = { copyBase t (if p.2 then .placex else .getx) f s with
                  src := if p.2 then lsp else tsp, dst := if p.2 then tsp else lsp
                  srcBase := if p.2 then xOf t f.a else xPair t f.c, dstBase := if p.2 then xPair t f.c else xOf t f.a, x6 := false
                  targetBench := r.bench, indexBase := (xOf t f.b).toNat, elemBytes := e, elements := count
                  issued := (u.bench b).clocks, merge := some s.ticket } →
            exec (p.1 f) s = .next (retire (u.setBench b { u.bench b with copies := (u.bench b).copies ++ [c] }) .seq))
          ∧ (32 ≤ (s.bench b).copies.length → exec (p.1 f) s = .next (beginWait s .engineFull (some f))))
        ∧ (r.st = rankTransit → exec (p.1 f) s = .next (beginWait s .release (some f)))
        ∧ (r.st = rankInvalid → endWaits s t = false → exec (p.1 f) s =
            .next ((takeTrap s s.cur { cause := .rankInvalid }).setIssue (.trapped { cause := .rankInvalid }))))
      ∧ ((65536 < count ∨ field (xOf t f.c) 44 20 ≠ 0) → endWaits s t = false → exec (p.1 f) s =
          .next ((takeTrap s s.cur { cause := .illegalOperand }).setIssue (.trapped { cause := .illegalOperand })))

/-- R186 to R189, R344 to R347, R155, R112; that SSNEXT holds the blocks of its spans, and that a fault of any cause, POISON too, makes the
session FAULTED with a record that is no ITEM, is the model's reading of R155 and R189 (log 52). -/
def Obligations.StreamSessions : Prop :=
  (∀ (s s1 u : State) (t : Strand) (f : Slot) (n b : Nat) (e : Session), Issues s t f → pendingVecMem s s.cur t = false →
      n = (xOf t f.a).toNat → n < 16 → b = s.cur.bench →
      (∀ bs, readSource t (sourceSpace { f with c := .x 0 } s.cur.seat) (xOf t f.b) 32 s = .ok bs s1 →
          openedSession bs t.launch = some e → (e.benchA = true → e.baseA + e.elemBytes * e.lenA ≤ Config.barrierBase) →
          (e.benchB = true → e.baseB + e.elemBytes * e.lenB ≤ Config.barrierBase) →
          e.baseA % e.elemBytes = 0 → e.baseB % e.elemBytes = 0 → (s1.session s1.cur.bench n).st ≠ .busy →
          exec (.ssopen f) s = .next (retire (s1.setSession s1.cur.bench n e) .seq))
        ∧ (e = s.session b n →
            (∀ p ∈ ([(.ssisect, if f.m == 1 then 2 else 0), (.ssunion, 1), (.sscount, 3)] : List ((Slot → Instr) × Nat)),
                field (xOf t f.c) 48 15 = 0 →
                (e.st = .idle ∨ e.st = .done →
                  ((xOf t f.c).getLsbD 63 = true → (xOf t f.b).toNat + e.elemBytes * field (xOf t f.c) 0 48 ≤ Config.barrierBase) →
                  (xOf t f.b).toNat % e.elemBytes = 0 →
                  exec (p.1 f) s = .next (retire (s.setSession b n { e with
                    st := .idle, mode := p.2, baseB := (xOf t f.b).toNat, benchB := (xOf t f.c).getLsbD 63
                    lenB := field (xOf t f.c) 0 48, pos := {}, committed := {} }) .seq))
                ∧ (e.st = .busy → exec (p.1 f) s = .next (beginWait s .session (some f)))
                ∧ (e.st = .closed → endWaits s t = false → exec (p.1 f) s =
                    .next ((takeTrap s s.cur { cause := .illegalOperand }).setIssue (.trapped { cause := .illegalOperand })))
                ∧ (e.st = .faulted → endWaits s t = false → exec (p.1 f) s =
                    .next ((takeTrap s s.cur (sessionTrap e)).setIssue (.trapped (sessionTrap e)))))
            ∧ (e.st ≠ .busy → exec (.ssclose f) s = .next (retire (s.setBench b
                { s.bench b with sessions := (s.bench b).sessions.drop n }) .seq))
            ∧ (e.st = .busy → exec (.ssnext f) s = .next (beginWait s .session (some f)))
            ∧ (e.st = .closed → endWaits s t = false → exec (.ssnext f) s =
                .next ((takeTrap s s.cur { cause := .illegalOperand }).setIssue (.trapped { cause := .illegalOperand })))
            ∧ (e.st = .done → exec (.ssnext f) s = .next (retire (s.setStrand
                (pushEntry t 3 { word := statusWord true e.committed.count })) .seq))
            ∧ (e.st = .faulted → exec (.ssnext f) s = .next (retire (s.setStrand
                (t.faultQ3 (e.faultRecord.getD 0) e.faultDetail)) .seq))
            ∧ (∀ bs, e.st = .idle → engineBlocks t e.spans s = .ok bs s → register t (e.spans.map fun p => (b, p)) (.session n) s = .ok () u →
                exec (.ssnext f) s = .next (retire (holdBlocks (u.setSession b n { e with
                  st := .busy, requester := some u.cur, launch := t.launch, task := t.message.key, pc := t.group
                  msgId := msgIdWord t.message, rank := t.rank, posted := false, blocks := bs }) t.launch bs) .seq))))
    ∧ (∀ (s s1 : State) (b n : Nat) (p : StreamPos) (words : List Word) (f : Focus) (e : Session), e = s1.session b n →
        sessionBatch s b n = .ready p words s1 → e.requester = some f →
        words.length ≤ 15
        ∧ exec (.streamBatch b n) s = .next (postEntry
            (words.foldl (fun v w => postEntry v f e.launch e.task 3 { word := w }) (s1.setSession b n { e with pos := p, posted := true }))
            f e.launch e.task 3 { word := statusWord (e.mergeDone p) p.count, session := some n })
        ∧ exec (.streamReadFault b n) s = .next s)
    ∧ (∀ (s s1 : State) (b n : Nat) (p : StreamPos) (ti : TrapInfo) (f : Focus) (e : Session), e = s1.session b n →
        sessionBatch s b n = .fault ti p s1 → e.requester = some f →
        exec (.streamBatch b n) s = .next s
        ∧ ∃ u, exec (.streamReadFault b n) s = .next u
            ∧ (u.session b n).st = .faulted ∧ (u.session b n).pos = e.committed ∧ (u.session b n).requester = none
            ∧ (∀ k ∈ (u.bench b).locks, k.op ≠ .session n)
            ∧ (∀ t, s1.strandAt f = some t → ∃ r d, u.strandAt f = some (t.faultQ3 r d)
                ∧ { rank := e.rank, record := r } ∈ (u.launch e.launch).rankHolds))
    ∧ (∀ x y : Nat,
        mergeChoice 0 (some x) (some y) = (decide (x ≤ y), decide (y ≤ x), if x = y then some x else none)
        ∧ mergeChoice 1 (some x) (some y) = (decide (x ≤ y), decide (y ≤ x), some (min x y))
        ∧ mergeChoice 2 (some x) (some y) = (decide (x ≤ y), decide (y ≤ x), if x < y then some x else none)
        ∧ mergeChoice 3 (some x) (some y) = mergeChoice 0 (some x) (some y))

/-- R232, R230, R306: guards, sequential flow and transfers, and event 1. -/
def Obligations.GuardsAndRetirement : Prop :=
  (∀ (i : Instr) (op : Nat) (f : Slot) (s : State) (t : Strand),
    slotParts i = some (op, f) → s.strand = some t → t.guard f = false → exec i s = .next (retire s .seq))
    ∧ (∀ (s : State) (t : Strand) (go : Flow), s.strand = some t →
    OnlyStrand s (retire s go) ∧ (retire s go).issue = .retired
      ∧ (∃ u, (retire s go).strand = some u
          ∧ u = { t with pc := u.pc, group := u.pc, wait := none, firstFetch := false, line := u.line, transfer := u.transfer }
          ∧ (go = .seq → t.pc.extractLsb' 0 3 = 4#3 → u.pc = (t.pc &&& ~~~(7 : Word)) + 64)
          ∧ (go = .seq → t.pc.extractLsb' 0 3 ≠ 4#3 → u.pc = t.pc + 1)
          ∧ (∀ target, go = .jump target → u.pc = target ∧ u.transfer = some t.group ∧ u.line = none))
      ∧ ((s.launches.find t.launch).isSome → ((retire s go).launch t.launch).counters.get (s.cur.bench * 64 + 1) 0
          = (s.launch t.launch).counters.get (s.cur.bench * 64 + 1) 0 + 1))

/-- R252, whole: each result is described bit by bit. -/
def Obligations.OneOperandBits : Prop :=
  ∀ (s s1 : State) (t : Strand) (f : Slot) (a : Word), Issues s t f → readSel f.a s = .ok a s1 →
    (∃ n : Nat, (a = 0 → n = 64) ∧ (a ≠ 0 → n < 64 ∧ a.getLsbD (63 - n) = true)
        ∧ (∀ k, k < n → a.getLsbD (63 - k) = false)
        ∧ ∀ s2, writeSel f.d (BitVec.ofNat 64 n) s1 = .ok () s2 → exec (.clz f) s = .next (retire s2 .seq))
      ∧ (∃ n : Nat, (a = 0 → n = 64) ∧ (a ≠ 0 → n < 64 ∧ a.getLsbD n = true) ∧ (∀ k, k < n → a.getLsbD k = false)
        ∧ ∀ s2, writeSel f.d (BitVec.ofNat 64 n) s1 = .ok () s2 → exec (.ctz f) s = .next (retire s2 .seq))
      ∧ (∀ s2, writeSel f.d (BitVec.ofNat 64 ((List.range 64).filter fun k => a.getLsbD k).length) s1 = .ok () s2 →
          exec (.popc f) s = .next (retire s2 .seq))
      ∧ (∃ r : Word, (∀ k, k < 8 → r.extractLsb' (8 * k) 8 = a.extractLsb' (56 - 8 * k) 8)
        ∧ ∀ s2, writeSel f.d r s1 = .ok () s2 → exec (.bswap f) s = .next (retire s2 .seq))

/-- R266, R73, R72, R88, R89, R203, R102, R267, R293: loads from local spaces, and which local accesses trap. -/
def Obligations.LocalLoads : Prop :=
  (∀ (s : State) (t : Strand) (f : Slot) (d : Fin 64) (n off : Nat) (v : List Byte → Word),
    Issues s t f → f.d = .x d → ¬ (f.order = .sc ∧ f.scope = .sys) → n = tyBits f.ty / 8 →
    off = (xOf t f.a + sext32 f).toNat → strandCommands s s.cur t = [] → (s.bench s.cur.bench).locks = [] →
    off % min n 8 = 0 →
    v = (fun bs => if isSigned f.ty then (BitVec.ofNat (8 * bs.length) (bytesToNat bs)).signExtend 64
        else BitVec.ofNat 64 (bytesToNat bs)) →
    ∀ done : State → List Byte → Prop, done = (fun s1 bs => exec (.ld f) s =
        .next (retire ((localOrder t f.order f.scope s1).setStrand ((s1.strand.getD t).setX d.val (v bs))) .seq)) →
    (∀ seat, memSpace f s.cur.seat = .spad seat → off + n ≤ 0x30000 →
        (wordsOf off n).any (s.core (s.cur.bench * 8 + seat)).spadPoison.contains = false →
        done (if seat = s.cur.seat then noteBanks off n s else s) (cellBytes (s.core (s.cur.bench * 8 + seat)).spad off n))
      ∧ (memSpace f s.cur.seat = .bench → off + n ≤ 0x3FF800 →
          (wordsOf off n).any (s.bench s.cur.bench).poison.contains = false →
          done s (cellBytes (s.bench s.cur.bench).mem off n))
      ∧ (memSpace f s.cur.seat = .msg → off + n ≤ 256 →
          done s ((upFrom off n).map fun i => if i < 32 * t.message.plen then t.message.payload.getD i 0 else 0))
      ∧ (∀ c, memSpace f s.cur.seat = .cap → t.capsule = some c →
          (off + n ≤ 8 + 8 * capCount c ∨ ((0x108 ≤ off ∨ capCount c = 32) ∧ off + n ≤ 0x108 + capTileBytes c)) →
          done s (capBytes c off n)))
    ∧ (∀ (s : State) (t : Strand) (f : Slot) (b : Fin 64) (n size : Nat) (ea : Word) (sp : LockSpace) (traps : Instr → Cause → Prop),
    Issues s t f → f.b = .x b → ¬ (f.order = .sc ∧ f.scope = .sys) → n = tyBits f.ty / 8 → 1 ≤ n →
    ea = xOf t f.a + sext32 f → strandCommands s s.cur t = [] → orderHold t f.order f.scope s = .ok () s →
    sp = memSpace f s.cur.seat →
    traps = (fun i c => endWaits s t = false → exec i s = .next ((takeTrap s s.cur { cause := c, addr := some ea }).setIssue
      (.trapped { cause := c, addr := some ea }))) →
    ((∃ k, sp = .spad k ∧ size = 196608) ∨ (sp = .bench ∧ size = 4192256) ∨ (sp = .msg ∧ size = 256)) →
    (size < ea.toNat + n → traps (.ld f) .prot ∧ traps (.st f) .prot)
      ∧ (ea.toNat + n ≤ size → ea.toNat % min n 8 ≠ 0 → traps (.ld f) .align ∧ (sp ≠ .msg → f.order = .rlx → traps (.st f) .align))
      ∧ (sp = .msg → traps (.st f) .prot))

/-- R229, R249, R306, R309: the first slot completely, then the second; a trap or a park in either suppresses both. That the first
has had no effect while the second waits, unless it is an engine's, and what then becomes of its command, is the model's reading
(logs 3 and 35). -/
def Obligations.PairIsOneGroup : Prop :=
  ∀ (s s1 : State) (t : Strand) (i j : Instr) (counted : State → State), exec i s = .next s1 →
    counted = (fun u => countEvent u t.launch u.cur.bench 2 1) →
    (s1.issue = .retired → ∀ s2 s3 left, s2 = secondSlot t s1 → exec j s2 = .next s3 → left = keepTraffic s s3 t.launch →
      (s3.issue = .retired ∨ s3.issue = .ended → issuePair exec i j t s = counted s3)
      ∧ (∀ x, s3.issue = .trapped x → issuePair exec i j t s = counted ((takeTrap left s.cur x).setIssue (.trapped x)))
      ∧ (∀ g b held, s3.issue = .parked g b held → issuePair exec i j t s = counted (parkHolding held g b left))
      ∧ (∀ w before, s3.issue = .waiting w → (∃ x, w = .trap x ∧ before = left)
            ∨ (∃ g b held, w = .park g b held ∧ before = held.foldl touchBlock left) →
        (∀ u, lateEnd exec (2 ^ 25) s3 = some u → issuePair exec i j t s = countPair t.launch u)
        ∧ (lateEnd exec (2 ^ 25) s3 = none → issuePair exec i j t s = counted (beginWait before w none)))
      ∧ (∀ w, suspendedBy s3.issue = some w →
        (engineFirst i = false → issuePair exec i j t s = waitWhole (beginWait s w none))
        ∧ (engineFirst i = true →
          (∀ u, finishFirst exec j (2 ^ 25) s2 = some u → issuePair exec i j t s = countPair t.launch (pairDone exec t.launch s u))
          ∧ (finishFirst exec j (2 ^ 25) s2 = none → issuePair exec i j t s = waitWhole (beginWait s w none)))))
    ∧ (∀ w, suspendedBy s1.issue = some w → issuePair exec i j t s = waitWhole s1)
    ∧ (s1.issue ≠ .retired → suspendedBy s1.issue = none → issuePair exec i j t s = counted s1)

/-- R228 (checks 2 to 5), R230 and R78; that PROT of a fetch has ADDR equal to the PC, and that an ill-formed target is judged before the
X right, is the model's choice (log 34). -/
def Obligations.LineAndTransferChecks : Prop :=
  (∀ (s : State) (t : Strand) (src : Word),
      t.transfer = some src → (t.pc.extractLsb' 56 8 ≠ 0 ∨ t.pc.extractLsb' 3 3 ≠ 0 ∨ 5 ≤ (t.pc.extractLsb' 0 3).toNat) →
      fetchLine t s = .trap { cause := .badTarget, addr := some t.pc, pc := some src } s)
    ∧ (∀ (s : State) (t : Strand) (p : PlbEntry) (l : FetchLine),
        t.pc.toNat < 2 ^ 56 → (∀ src, t.transfer = some src → targetFormed t.pc = true) →
        (s.core s.cur.core).plb.find? (fun p => p.ctx == (s.launch t.launch).ctx && decide (p.base ≤ t.pc.toNat)
          && decide (t.pc.toNat < p.base + p.size)) = some p →
        (s.core s.cur.core).fetch.find? (fun l => l.line == lineNumber t.pc) = some l →
        (p.execute = false → fetchLine t s = .trap { cause := .prot, addr := some t.pc, regionOwner := some p.owner } s)
          ∧ (p.execute = true → p.admitted = true → lineParityOk l.data.toNat = true → t.line = none →
              (lineTemplateOk l.data.toNat = false → fetchLine t s = .trap { cause := .badTemplate } s)
                ∧ (lineTemplateOk l.data.toNat = true →
                    (∀ src, t.transfer = some src → lineT l.data.toNat (slotNumber t.pc) = false →
                      fetchLine t s = .trap { cause := .badTarget, addr := some t.pc, pc := some src } s)
                    ∧ ((t.transfer = none ∨ lineT l.data.toNat (slotNumber t.pc) = true) →
                      fetchLine t s = .ok l.data.toNat s))))

/-- R232, R236, R255, R180, R126, R249, R81, R95, R311; that a pop of q16 to q31 leaves the bytes of bench memory and
traps on a poisoned entry (log 39), and that pops and pushes meet no range lock (log 94), are the model's choices. -/
def Obligations.OperandForms : Prop :=
  (∀ (s : State) (t : Strand), s.strand = some t →
    (∀ n : Fin 64, readSel (.x n) s = .ok (if n = 0 then 0 else t.xs.get n.val 0) s)
      ∧ (∀ n : Fin 8, readSel (.k n) s = .ok (if n = 0 ∨ t.ks.get n.val false = true then 1 else 0) s)
      ∧ (∀ n : Fin 32, 8 ≤ n.val → queueNamed (s.launch t.launch) n.val = true → queueFault t n.val = none →
          (sharedHold s t n.val 0 = true → readSel (.q n) s = .wait .older) ∧ (sharedHold s t n.val 0 = false →
          (∀ (w : Word) (rest : List Word), queueWords s t n.val = w :: rest →
            olderWaiter s s.cur (queueSharers s.cur n.val) (.queueRead n.val) = false →
            (queuePoison s t n.val = none → ∃ u, readSel (.q n) s = .ok w u ∧ queueWords u t n.val = rest
              ∧ (∀ k, 8 ≤ k → k ≠ n.val → queueWords u t k = queueWords s t k) ∧ u.hcs = s.hcs ∧ SameStores s u)
            ∧ (∀ off, queuePoison s t n.val = some off →
              readSel (.q n) s = .trap { cause := .poison, addr := some (BitVec.ofNat 64 off) } s))
          ∧ (queueWords s t n.val = [] → readSel (.q n) s = .wait (.queueRead n.val))))
      ∧ (∀ n : Fin 32, queueNamed (s.launch t.launch) n.val = false →
          readSel (.q n) s = .trap { cause := .illegalOperand } s))
    ∧ (∀ (s : State) (t : Strand) (v : Word), s.strand = some t →
    (∀ n : Fin 64, writeSel (.x n) v s = .ok () (s.setStrand (if n = 0 then t else { t with xs := t.xs.put n.val v })))
      ∧ (∀ n : Fin 8, writeSel (.k n) v s =
          .ok () (s.setStrand (if n = 0 then t else { t with ks := t.ks.put n.val (v != 0) })))
      ∧ (∀ n : Fin 32, 8 ≤ n.val → queueNamed (s.launch t.launch) n.val = true →
          sharedHold s t n.val (queueWords s t n.val).length = false →
          ((queueWords s t n.val).length < queueDepth (s.launch t.launch) n.val →
            olderWaiter s s.cur (queueSharers s.cur n.val) (.queueWrite n.val) = false → cellsWf s.curBench.mem = true →
            ∃ u, writeSel (.q n) v s = .ok () u ∧ queueWords u t n.val = queueWords s t n.val ++ [v] ∧ u.hcs = s.hcs
              ∧ u.mem = s.mem ∧ (∀ k, (u.core k).spad = (s.core k).spad)
              ∧ (∀ q o, queueDecl (s.launch t.launch) n.val = some q → (o < q.offset ∨ q.offset + 8 * q.depth ≤ o) →
                  cellRead (u.bench s.cur.bench).mem o = cellRead s.curBench.mem o))
          ∧ (queueDepth (s.launch t.launch) n.val ≤ (queueWords s t n.val).length →
            writeSel (.q n) v s = .wait (.queueWrite n.val))))

/-- R218, R219, R208, R209, R221. -/
def Obligations.FloatRounding : Prop :=
  ((∀ (fmt : Fmt) (c : FpCtl) (w : Nat) (neg : Bool) (m : Nat) (e : Int),
      fmt ∈ [fmtF64, fmtF32, fmtF16, fmtBf16, fmtE4m3, fmtE5m2, fmtF6e2] → w < 2 ^ fmt.bits →
      decodeFp fmt w = .fin neg m e → (c.ftz = false ∨ isSubnormal fmt w = false) →
      roundFp fmt c (.fin neg m e) = (w, {}))
    ∧ (∀ (rm : Rnd) (neg : Bool) (m k : Nat) (e : Int),
        let r := roundAt rm neg m e (e + k)
        (r.2 = true ↔ m % 2 ^ k ≠ 0)
          ∧ (rm = .rtz → r.1 * 2 ^ k ≤ m ∧ m < (r.1 + 1) * 2 ^ k)
          ∧ (rm = .rup → if neg then r.1 * 2 ^ k ≤ m ∧ m < (r.1 + 1) * 2 ^ k else m ≤ r.1 * 2 ^ k ∧ r.1 * 2 ^ k < m + 2 ^ k)
          ∧ (rm = .rdn → if neg then m ≤ r.1 * 2 ^ k ∧ r.1 * 2 ^ k < m + 2 ^ k else r.1 * 2 ^ k ≤ m ∧ m < (r.1 + 1) * 2 ^ k)
          ∧ (rm = .rne → 2 * (r.1 * 2 ^ k) ≤ 2 * m + 2 ^ k ∧ 2 * m ≤ 2 * (r.1 * 2 ^ k) + 2 ^ k
              ∧ (2 * (r.1 * 2 ^ k) = 2 * m + 2 ^ k ∨ 2 * m = 2 * (r.1 * 2 ^ k) + 2 ^ k → r.1 % 2 = 0))))
    ∧ (∀ (fmt : Fmt) (c : FpCtl) (a b x : Nat), fmt ∈ [fmtF64, fmtF32, fmtBf16] →
    ∀ A B X : Fv, A = readFp fmt c.daz a → B = readFp fmt c.daz b → X = readFp fmt c.daz x →
    ∀ bad : Nat × Flags, bad = (canonicalNan fmt, { nv := true }) →
    ((A.isNan = true ∨ B.isNan = true) → ∀ r ∈ [fpAdd fmt c a b, fpSub fmt c a b, fpMul fmt c a b, fpDiv fmt c a b],
        r = (canonicalNan fmt, { nv := A.signals || B.signals }))
      ∧ ((A.isNan = true ∨ B.isNan = true) →
          fpFma fmt c a b x = (canonicalNan fmt, { nv := A.signals || B.signals || X.signals }))
      ∧ (X.isNan = true → A.isNan = false → B.isNan = false →
          fpFma fmt c a b x = (canonicalNan fmt, { nv := (mulFv A B).2.nv || X.signals }))
      ∧ (A.isNan = true → fpSqrt fmt c a = (canonicalNan fmt, { nv := A.signals }))
      ∧ (∀ n, A = .inf n → B = .inf (!n) → fpAdd fmt c a b = bad)
      ∧ (∀ n, A = .inf n → B = .inf n → fpSub fmt c a b = bad)
      ∧ (∀ n m e k, (A = .fin n 0 e ∧ B = .inf m) ∨ (A = .inf m ∧ B = .fin k 0 e) →
          fpMul fmt c a b = bad ∧ fpFma fmt c a b x = bad)
      ∧ (∀ n k e e', A = .fin n 0 e → B = .fin k 0 e' → fpDiv fmt c a b = bad)
      ∧ (∀ n k, A = .inf n → B = .inf k → fpDiv fmt c a b = bad)
      ∧ (∀ m e, A = .fin true m e → m ≠ 0 → fpSqrt fmt c a = bad)
      ∧ (A = .inf true → fpSqrt fmt c a = bad)
      ∧ (∀ n m e k e', A = .fin n m e → m ≠ 0 → B = .fin k 0 e' →
          fpDiv fmt c a b = (signBit fmt (n != k) + (2 ^ fmt.eb - 1) * 2 ^ fmt.fb, { dz := true })))

/-- R98, R97, R82, R84: through rights, translation, the LLC, poison and the L1. -/
def Obligations.ReadOwnWrite : Prop :=
  ∀ (s s1 s2 : State) (w : Who) (va : Nat) (bs got : List Byte) (o o' : Order) (sc : Scope),
    1 ≤ bs.length → va % 32 + bs.length ≤ 32 →
    storeGlobal w va bs o s = .ok () s1 → loadGlobal w va bs.length o' sc s1 = .ok got s2 → got = bs

/-- R97, R84, R86, R267, R274: the frame over all of memory; `n` is the width stored. -/
def Obligations.GlobalStoreFrame : Prop :=
  ∀ (s u : State) (t : Strand) (f : Slot) (i : Instr) (n : Nat),
    s.strand = some t → memSpace f s.cur.seat = .global →
    ((i = .ld f ∧ n = 0) ∨ (i = .st f ∧ n = tyBits f.ty / 8) ∨ (i = .chunk f ∧ n = 32)
      ∨ (∃ p ∈ ([(.aadd, 0x70), (.aand, 0x71), (.aor, 0x72), (.axor, 0x73), (.amin, 0x74), (.amax, 0x75), (.axchg, 0x76),
            (.acas, 0x77), (.afadd, 0x78), (.afmin, 0x79), (.afmax, 0x7A)] : List ((Slot → Instr) × Nat)),
          i = p.1 f ∧ n = if f.hint then 0 else atomicBytes p.2 f.m.toNat f.ty)) →
    exec i s = .next u → u.issue = .retired →
    u.mem.bytes = s.mem.bytes
      ∧ (∀ va b, globalByte s va = some b →
          (∀ l, llcFind s va = some l → l.view = false ∨ l.valid = 0 ∨ l.valid = BitVec.allOnes 8) → (va < (effAddr t f).toNat ∨ (effAddr t f).toNat + n ≤ va) →
          globalByte u va = some b)
      ∧ (∀ k, (u.core k).spad = (s.core k).spad ∧ (u.core k).full = (s.core k).full)
      ∧ ((∀ n : Fin 32, f.d = .q n → n.val < 16) → ∀ k, (u.bench k).mem = (s.bench k).mem)
      ∧ (∀ k, k ≠ s.cur.key → u.hc k = s.hc k)

/-- R280 to R284, R279, R195, R201, R53: sends, and the ranks that must not receive them. -/
def Obligations.SendsAreBuffered : Prop :=
  (∀ (s : State) (t : Strand) (f : Slot) (a : Nat), Issues s t f → pendingVecMem s s.cur t = false →
    a = (xOf t f.a).toNat → t.sends.length < 16 →
    ∀ (hidx plen : Nat), hidx = f.imm.toNat % 256 → plen = f.imm.toNat / 256 % 16 →
    ∀ ok : Nat → Prop, ok = (fun rank => ((s.launch t.launch).rank rank).st ≠ 0
      ∧ (((s.launch t.launch).rank rank).st = 1 → permitted s (s.launch t.launch).ctx
          ((s.launch t.launch).rank rank).bx ((s.launch t.launch).rank rank).bY = true)) →
    ∀ buffered : State → Send → State, buffered = (fun u e =>
      retire (u.setStrand { u.strand.getD t with sends := (u.strand.getD t).sends ++ [e] }) .seq) →
    (∀ b : Fin 64, f.m = 1 → f.b = .x b → plen ≤ 2 → b.val + 4 * plen ≤ 64 → ok a →
        exec (.send f) s = .next (buffered s (.message
          { hidx := hidx, cls := 0, plen := plen, dest := a, payload := wordsToBytes ((upFrom b.val (4 * plen)).map t.x) })))
      ∧ (∀ bs s1, readSource t (sourceSpace f s.cur.seat) (xOf t f.b) (32 * plen) s = .ok bs s1 → plen ≤ 8 →
          s1.launches = s.launches → s1.ctl = s.ctl → pendingVecMem s1 s1.cur t = false →
          (f.m = 0 → ok a → exec (.send f) s = .next (buffered s1 (.message
              { hidx := hidx, cls := 0, plen := plen, dest := a, payload := bs })))
          ∧ (∀ count stride, count = field (xOf t f.c) 0 12 + 1 → stride = field (xOf t f.c) 12 12 →
              (stride = 0 → count = 1) → (∀ i, i < count → ok (a + i * stride)) →
              exec (.sendm f) s = .next (buffered s1 (.multicast
                { hidx := hidx, cls := 0, plen := plen, payload := bs } a stride count)))
          ∧ (∀ s2 spilled, f.m.toNat ≤ 1 → ok a → reserveSpawn t.launch s1 = .ok spilled s2 →
              exec (.spawn f) s = .next (buffered s2 (.spawn
                { hidx := hidx, cls := if f.m = 1 then 3 else 0, plen := plen, dest := a, payload := bs } spilled))))
      ∧ (f.m = 2 → a < (s.launch t.launch).taskCount → exec (.spawn f) s = .next (buffered s (.spawnTask a)))
      ∧ (f.m = 0 → ((s.launch t.launch).rank a).st ≠ 0 → exec (.signal f) s = .next (buffered s (.message
          { hidx := hidx, cls := 4, plen := 1, dest := a, payload := wordsToBytes [xOf t f.b, 0, 0, 0] })))
      ∧ (f.m = 1 → exec (.signal f) s = .next (buffered s (.signalHost (xOf t f.b))))
      ∧ (∀ pc t1, ∀ words : Word → List Byte, words = (fun pc => wordsToBytes
            [t.x 1, t.x 2, t.x 3, t.x 4, t.x 5, t.x 6, t.x 7, t.x 8, pc &&& 0xFFFFFFFFFFFFFF, 0, 0, 0]) → ok a → pc = (if f.m = 1 then xOf t f.b else codeDisp t.pc f) →
          t1 = { t with sends := t.sends ++ [.message { cls := 1, plen := 3, dest := a, payload := words pc }] } →
          strandCommands s s.cur t = [] → pendingMatrix s s.cur t = false → pendingRuns s s.cur t = false →
          haltTrap t = none → pendingSfu s s.cur = false → canRelease s.cur t1 (s.setStrand t1) = true →
          ∀ v, v = t1.sends.foldl (releaseSend s.cur t1) (s.setStrand t1) →
            ∃ u, exec (.migrate f) s = .next u ∧ u.issue = .ended ∧ u.strandAt s.cur = none ∧ u.flights = v.flights ∧ u.fns = v.fns
              ∧ (t.sends = [] → ((s.launch t.launch).rank a).st ≠ rankTransit →
                  u.flights = s.flights ++ [{ launch := t.launch, source := some s.cur.bench, message :=
                    { cls := 1, plen := 3, dest := a, payload := words pc, sender := t.rank, key := s.ticket
                      seq := ((s.launch t.launch).ranks.get t.rank {}).strandSeq, ctx := (s.launch t.launch).ctx } }])))
    ∧ (∀ (s : State) (t : Strand) (f : Slot) (b : Fin 64) (r : RankEntry), Issues s t f → realHc s.cur = true →
    endWaits s t = false → f.m = 1 → f.b = .x b → b.val + 4 * (f.imm.toNat / 256 % 16) ≤ 64 →
    f.imm.toNat / 256 % 16 ≤ 2 → r = (s.launch t.launch).rank (xOf t f.a).toNat →
    ∀ traps : Instr → Cause → Prop, traps = (fun i c => ∃ u, exec i s = .next u
      ∧ u.issue = .trapped { cause := c } ∧ u.strandAt s.cur = none ∧ u.flights = s.flights) →
    (((s.launch t.launch).rankCount ≤ (xOf t f.a).toNat ∨ r.st = 0) → traps (.send f) .rankInvalid)
      ∧ (r.st = 1 → permitted s (s.launch t.launch).ctx r.bx r.bY = false → traps (.send f) .sendDenied)
      ∧ (r.st ≠ 0 → 16 ≤ t.sends.length → traps (.send f) .sendDenied)
      ∧ (∀ g : Slot, g = { f with m := 0 } → (r.st = 0 → traps (.signal g) .rankInvalid)
          ∧ (r.st ≠ 0 → 16 ≤ t.sends.length → traps (.signal g) .sendDenied))
      ∧ (16 ≤ t.sends.length → traps (.signal f) .sendDenied))

/-- R304, R294, with the layouts of R192, R194, R49, R300, R170 and R176. -/
def Obligations.SystemRegisterValues : Prop :=
  ∀ (s : State) (t : Strand), s.cur.bench < 480 → s.cur.seat < 8 → s.cur.hc < 8 →
    sysRead s t 0 = some s.curCore.cycle
      ∧ sysRead s t 1 = some ((s.hc s.cur.key).cause.setWidth 64) ∧ sysRead s t 2 = some (s.hc s.cur.key).tval
      ∧ (∃ w, sysRead s t 0x12 = some w ∧ field w 0 12 = t.rank % 4096 ∧ field w 12 52 = 0)
      ∧ (∃ w, sysRead s t 0x13 = some w ∧ (t.gangSize ≤ 1 → w = 0)
          ∧ (2 ≤ t.gangSize → t.gangSize ≤ 64 → t.gangIndex < 64 → field w 16 6 = t.gangIndex ∧ field w 0 6 = t.gangSize - 1))
      ∧ (∃ w, sysRead s t 0x14 = some w ∧ field w 16 5 = s.cur.bench % 32 ∧ field w 8 4 = s.cur.bench / 32
          ∧ field w 4 3 = s.cur.hc ∧ field w 0 3 = s.cur.seat)
      ∧ (∀ m, m = t.message →
          (∃ w, sysRead s t 0x10 = some w ∧ field w 56 8 = m.hidx % 256 ∧ field w 52 4 = m.cls % 16 ∧ field w 48 4 = m.plen % 16
            ∧ field w 36 12 = m.dest % 4096 ∧ w.getLsbD 35 = false ∧ w.getLsbD 34 = m.defer ∧ w.getLsbD 33 = m.req
            ∧ w.getLsbD 32 = m.origin ∧ field w 0 32 = m.seq.toNat)
          ∧ (∃ w, sysRead s t 0x11 = some w ∧ field w 44 20 = 0 ∧ field w 32 12 = m.sender % 4096 ∧ field w 0 32 = m.seq.toNat))
      ∧ (∀ l, l = s.launch t.launch →
          (∃ w, sysRead s t 0x15 = some w ∧ w.getLsbD 63 = false ∧ field w 48 5 = (l.rect.w - 1) % 32 ∧ field w 40 4 = (l.rect.h - 1) % 16
            ∧ field w 16 5 = l.rect.x % 32 ∧ field w 8 4 = l.rect.y % 16)
          ∧ (∀ c, s.ctx l.ctx = some c → ∃ w, sysRead s t 0x16 = some w ∧ field w 52 12 = l.ctx % 4096 ∧ field w 37 3 = c.depth % 8
            ∧ field w 32 5 = c.part % 32 ∧ field w 40 12 = 0 ∧ field w 0 32 = 0)
          ∧ (∃ w, sysRead s t 0x17 = some w ∧ field w 52 12 = l.ctx % 4096 ∧ field w 32 20 = 0 ∧ field w 0 32 = l.number.toNat))
      ∧ (∀ c, c = s.curCore →
          (∃ w, sysRead s t 0x20 = some w ∧ field w 12 52 = 0 ∧ w.getLsbD 11 = c.claim.isSome ∧ field w 8 3 = c.claim.getD 0 % 8
            ∧ field w 3 5 = c.commands.length % 32 ∧ w.getLsbD 2 = !c.sfu.isEmpty
            ∧ (w.getLsbD 1 = true ↔ ∃ v ∈ c.inFlight, isMatrixOp v.opcode = true)
            ∧ (w.getLsbD 0 = true ↔ ∃ v ∈ c.inFlight, isMatrixOp v.opcode = false))
          ∧ (∃ w, sysRead s t 0x21 = some w ∧ field w 24 40 = 0 ∧ field w 19 5 = c.linkQueue.length % 32 ∧ field w 3 16 = 0
            ∧ w.getLsbD 2 = c.linkFeed ∧ w.getLsbD 1 = c.linkFwd ∧ w.getLsbD 0 = c.linkIn))
      ∧ (∃ w, sysRead s t 0x18 = some w ∧ field w 0 4 = t.message.expiry % 16)
      ∧ (∀ n : Fin 16, ∀ h, h = t.handles.get n.val { object := n.val } → ∃ w, sysRead s t (0x30 + n.val) = some w
          ∧ w.getLsbD 7 = h.arr ∧ w.getLsbD 6 = h.ph ∧ field w 0 6 = h.object % 64 ∧ field w 8 56 = 0)
      ∧ (∀ (f : Slot) (sel : Nat), Issues s t f → endWaits s t = false → sel = f.imm.toNat % 4096 →
          sel ∉ [0, 1, 2, 0x10, 0x11, 0x12, 0x13, 0x14, 0x15, 0x16, 0x17, 0x18, 0x20, 0x21] → ¬ (0x30 ≤ sel ∧ sel ≤ 0x3F) →
          exec (.sysrd f) s = .next ((takeTrap s s.cur { cause := .illegalOperand }).setIssue
            (.trapped { cause := .illegalOperand })))

/-- R50, R51, R67, R68, R303. -/
def Obligations.ContextRules : Prop :=
  ∀ (s : State) (r : CtxReq),
    (∀ o ∈ s.ctl.ops, o.drops ≠ [] → request s r = .later) ∧ ((∀ o ∈ s.ctl.ops, o.drops = []) →
    (r.op ≠ 0x98 → (∀ c, s.ctx r.target = some c → c.parent ≠ r.issuerCtx) → request s r = .denied)
      ∧ (∀ c, s.ctx r.target = some c → c.parent = r.issuerCtx →
          (r.op = 0x9A → c.st ≠ .idle → c.st ≠ .running → request s r = .refused)
          ∧ (r.op = 0x9B → r.arg 0 = 0 → c.st ≠ .idle → c.st ≠ .running → request s r = .refused)
          ∧ (r.op = 0x9C → c.st ≠ .stopped → request s r = .refused)
          ∧ (c.st = .killing → r.op ∈ [0x99, 0x9A, 0x9B, 0x9C, 0x9D, 0x9E, 0x9F] → request s r = .refused)
          ∧ (r.op = 0x9F → c.st ≠ .killing → ∀ sel, sel = (r.arg 0).toNat → ∃ w, request s r = .done w s
              ∧ (sel < 8 → w = [
                  place 52 12 r.target ||| place 40 12 c.parent ||| place 37 3 c.depth ||| place 32 5 c.part
                    ||| place 28 4 (ctxStateCode c.st) ||| place 20 8 c.claim.toNat ||| place 13 7 (ownedEntries s r.target),
                  (match c.benches with
                  | some b => rectWord b
                  | none => place 63 1 1),
                  place 32 11 c.issue ||| place 0 13 c.bw, place 32 11 c.issueCh ||| place 0 13 c.bwCh,
                  place 32 11 (largestDebt s false r.target) ||| place 0 13 (largestDebt s true r.target), c.image,
                  place 40 24 c.imageSize ||| place 16 24 c.qres ||| place 8 8 c.vf ||| place 0 8 c.spares.length,
                  c.allow].getD sel 0)
              ∧ (∀ i k, i < 64 → k < 3 → sel = 0x100 + 3 * i + k →
                  (s.ctl.ranges.find (c.part * 64 + i) = none → w = 0)
                  ∧ (∀ e, s.ctl.ranges.find (c.part * 64 + i) = some e →
                      w = if e.owner = r.target ∨ s.isAncestor r.target e.owner = true then [
                        place 63 1 1 ||| place 62 1 e.derived.toNat ||| place 56 6 e.src ||| place 16 40 e.base ||| place 4 12 e.owner,
                        place 16 40 e.limit ||| place 0 5 e.attr.toNat, BitVec.ofInt 64 (e.offset * 65536)].getD k 0 else 0))
              ∧ (8 ≤ sel → sel < 0x100 ∨ 0x1C0 ≤ sel → w = 0))
          ∧ (r.op = 0x9C → c.st = .stopped → (c.onChip = true → r.arg 0 = 0 ∧ r.arg 1 = 0) →
              (resumedLaunches s (resumedTree s r.target)).all (mayResume s (r.arg 0).toInt (r.arg 1).toInt) = true →
              ∃ key u c', request s r = .pending key u ∧ u.ctx r.target = some c' ∧ c'.st = .resuming)
          ∧ (r.op = 0x9B → r.arg 0 = 0 → c.st = .idle ∨ c.st = .running → ∃ key u, request s r = .pending key u
              ∧ (∀ k x, k ∈ s.subtree r.target → s.ctx k = some x → x.st = .idle ∨ x.st = .running →
                  ∃ x', u.ctx k = some x' ∧ x'.st = .stopping))))

/-- R308, R313 to R315, R170, R217, R172, R173, R325, R257; that a scalar request changes nothing when it is served is the model's
choice (log 27). -/
def Obligations.VectorExecution : Prop :=
  ((∀ (s : State) (t : Strand) (v : VecCmd) (g : Focus) (d : Fin 64) (c : Core) (r : List Nat × Flags),
      headCommand s s.cur false = some (v, g) → s.strandAt g = some t → v.slot.d = .v d →
      v.opcode ∈ [0xB0, 0xB1, 0xB2, 0xB3, 0xB4, 0xB5, 0xB6, 0xB7, 0xB8, 0xB9, 0xBA, 0xBB, 0xBC, 0xBD] →
      c = s.core g.core →
      r = laneMap v.opcode v.slot.m.toNat v.slot.ty (fpCtl v.fcr v.slot.rnd) (laneSource c v.slot.ty v.slot.a v.a)
        (laneSource c v.slot.ty v.slot.b v.b) (laneSource c v.slot.ty v.slot.c v.c) →
      ∃ u, exec .vectorCommandExecute s = .next u
        ∧ (u.core g.core).row d.val = rowOf (tyBits v.slot.ty) r.1
        ∧ (∀ n, n ≠ d.val → (u.core g.core).row n = c.row n)
        ∧ (∀ x ∈ (u.core g.core).inFlight, x.key ≠ v.key ∧ x ∈ c.inFlight)
        ∧ (∃ t', u.strandAt g = some t' ∧ t' = { t with fcr := t.fcr ||| r.2.bits })
        ∧ u.mem = s.mem ∧ u.cur = s.cur)
    ∧ (∀ s, headCommand s s.cur false = none → exec .vectorCommandExecute s = .next s)
    ∧ (∀ (m : Nat) (ctl : FpCtl) (a b c : BitVec 32),
        (laneOp 0xB0 0 .i32 ctl a.toNat b.toNat c.toNat).1 = (a + b).toNat
          ∧ (laneOp 0xB1 0 .i32 ctl a.toNat b.toNat c.toNat).1 = (a - b).toNat
          ∧ (laneOp 0xB2 0 .i32 ctl a.toNat b.toNat c.toNat).1 = (a * b).toNat
          ∧ (laneOp 0xB0 1 .i32 ctl a.toNat b.toNat c.toNat).1 = (BitVec.ofInt 32
              (if a.toInt + b.toInt < -2 ^ 31 then -2 ^ 31 else if 2 ^ 31 - 1 < a.toInt + b.toInt then 2 ^ 31 - 1
               else a.toInt + b.toInt)).toNat
          ∧ (laneOp 0xB4 m .i32 ctl a.toNat b.toNat c.toNat).1 = (if a.toInt ≤ b.toInt then a else b).toNat
          ∧ (laneOp 0xB9 m .i32 ctl a.toNat b.toNat c.toNat).1 = (a &&& b).toNat
          ∧ (laneOp 0xB8 m .i32 ctl a.toNat b.toNat c.toNat).1 = (if c = 0 then b else a).toNat
          ∧ (laneOp 0xB7 2 .i32 ctl a.toNat b.toNat c.toNat).1 = (if a.toInt < b.toInt then 2 ^ 32 - 1 else 0)))
    ∧ (∀ (s : State) (c : Core), c = s.core s.cur.core →
    (c.sfu = [] → exec .sfuRequestServed s = .next s)
      ∧ (∀ r rest, c.sfu = r :: rest →
          (r.command = none → exec .sfuRequestServed s = .next (s.setCore s.cur.core { c with sfu := rest }))
          ∧ (∀ key, r.command = some key →
              (headCommand s s.cur false = none → (∀ x ∈ c.inFlight, x.key ≠ key) → exec .sfuRequestServed s =
                .next (s.setCore s.cur.core { c with sfu := c.sfu.filter fun q => q.command != some key }))
              ∧ (∀ v g, headCommand s s.cur false = some (v, g) →
                  (v.key ≠ key → exec .sfuRequestServed s = .next s)
                  ∧ (∀ (d : Fin 64) t p, v.key = key → v.opcode = 0xCA → v.slot.d = .v d → s.strandAt g = some t →
                      p = mapFlags (sfuLane v.slot.m.toNat v.slot.ty (fpCtl v.fcr v.slot.rnd))
                        (lanes (tyBits v.slot.ty) (c.row (selNum v.slot.a))) →
                      ∃ u, exec .sfuRequestServed s = .next u
                        ∧ (u.core g.core).row d.val = rowOf (tyBits v.slot.ty) p.1
                        ∧ (∀ n, n ≠ d.val → (u.core g.core).row n = c.row n)
                        ∧ (u.core g.core).sfu = c.sfu.filter (fun q => q.command != some key)
                        ∧ (∀ x ∈ (u.core g.core).inFlight, x.key ≠ key)
                        ∧ u.strandAt g = some { t with fcr := t.fcr ||| p.2.bits })))))

/-- R316 to R322, R312, R214, R217; that the lanes of VNZ's destination beyond those of A are free is the model's reading (log 22). -/
def Obligations.VectorRows : Prop :=
  (∀ (s : State) (t : Strand) (v : VecCmd) (g : Focus) (c : Core) (w n a d : Nat) (ctl : FpCtl), headCommand s s.cur false = some (v, g) →
      s.strandAt g = some t → c = s.core g.core → w = tyBits v.slot.ty → w ∈ [8, 16, 32, 64] → n = 2048 / w →
      a = selNum v.slot.a → d = selNum v.slot.d → selWin v.slot.d = false → ctl = fpCtl v.fcr v.slot.rnd → q0Room t = true →
      ∀ (ends : Nat → (Core → Prop) → List Word → Flags → Prop), ends = (fun rows p pushed fl =>
        ∃ u t', exec .vectorCommandExecute s = .next u ∧ (∀ x ∈ (u.core g.core).inFlight, x.key ≠ v.key)
          ∧ u.strandAt g = some t' ∧ t'.fcr = t.fcr ||| fl.bits
          ∧ (t'.qs.get 0 []).map (·.word) = (t.qs.get 0 []).map (·.word) ++ pushed
          ∧ (∀ k, (k < d ∨ d + rows ≤ k) → (u.core g.core).row k = c.row k) ∧ p (u.core g.core)) →
      (v.opcode = 0xBE → ∀ src ws part per r, src = tyOfCode v.slot.m.toNat → ws = tyBits src → ws ∈ [8, 16, 32, 64] →
          part = immField v.slot 0 3 → part < max ws w / min ws w → per = 2048 / max ws w →
          r = convertRow ctl src v.slot.ty part (c.row a) (c.row d) →
          ends 1 (fun x => x.row d = r.1
            ∧ (∀ j, j < per → (lanes w (x.row d)).getD (if w < ws then part * per + j else j) 0 =
                (convertLane ctl src v.slot.ty ((lanes ws (c.row a)).getD (if ws < w then part * per + j else j) 0)).1 % 2 ^ w)
            ∧ (∀ j, w < ws → j < n → (j < part * per ∨ part * per + per ≤ j) → (lanes w (x.row d)).getD j 0 = (lanes w (c.row d)).getD j 0))
            [] r.2)
        ∧ (v.opcode = 0xBF → ∀ q, q = quantise (((upFrom a (w / 8)).flatMap fun k => lanes w (c.row k)).map
              (readFp ((fmtOf v.slot.ty).getD fmtF32) ctl.daz)) →
            ends 1 (fun x => x.row d = rowOf 4 q.1) [q.2.1] q.2.2)
        ∧ (v.opcode = 0xC0 → ∃ fl, ends (w / 8) (fun x => ∀ e, e < 256 → (lanes w (x.row (d + e / n))).getD (e % n) 0 =
              (qc4Value ((fmtOf v.slot.ty).getD fmtF32) ctl ((lanes 4 (c.row a)).getD e 0) (field v.b (8 * (e / 64)) 8)
                (field v.b 32 32)).1 % 2 ^ w) [] fl)
        ∧ (v.opcode = 0xC1 → ∀ r, r = reduceLanes v.slot.m.toNat v.slot.ty ctl (lanesAs v.slot.ty (c.row a)) →
            ends 0 (fun x => x.rows = c.rows) [if 6 ≤ v.slot.m.toNat then BitVec.ofNat 64 r.1 else entryOf v.slot.ty r.1] r.2)
        ∧ (v.opcode = 0xC2 → ∀ op r, op = v.slot.m.toNat % 4 →
            r = scanLanes op (decide (4 ≤ v.slot.m.toNat)) v.slot.ty ctl
              (if selNum v.slot.b = 0 then scanIdentity op v.slot.ty else v.b.toNat % 2 ^ w) (lanes w (c.row a)) →
            ends 1 (fun x => x.row d = rowOf w r.1) [entryOf v.slot.ty r.2.1] r.2.2)
        ∧ (v.opcode = 0xC3 → ∀ hits : List Nat, hits = ((List.range n).filter fun i =>
              laneNonzero v.slot.ty ctl.daz ((lanes w (c.row a)).getD i 0)).map (fun i => (field v.b 0 16 + i) % 65536) →
            ends (if w = 8 then 2 else 1) (fun x => ∀ j, j < n →
              (lanes 16 (x.row (d + j / 128))).getD (j % 128) 0 = hits.getD j 0) [BitVec.ofNat 64 hits.length] {})
        ∧ (v.opcode = 0xC4 → ends 1 (fun x => ∀ i k, i < n → k = (lanes w (c.row (selNum v.slot.b))).getD i 0 →
            (lanes w (x.row d)).getD i 0 = if v.slot.m = 1 ∧ n ≤ k then 0 else (lanesAs v.slot.ty (c.row a)).getD (k % n) 0) [] {})
        ∧ (v.opcode = 0xC5 → ends 1 (fun x => ∀ i, i < n → (lanes w (x.row d)).getD i 0 =
            if v.slot.m = 1 then (lanesAs v.slot.ty (c.row a)).getD (imm32 v.slot) 0 else v.a.toNat % 2 ^ w) [] {}))
    ∧ (∀ (ctl : FpCtl) (ls : List (BitVec 32)) (excl : Bool) (acc : BitVec 32), ∀ xs, xs = ls.map (·.toNat) →
        (ls.length = 64 → (reduceLanes 0 .n32 ctl xs).1 = xs.sum % 2 ^ 32
          ∧ (reduceLanes 1 .n32 ctl xs).1 ∈ xs ∧ ∀ x ∈ xs, (reduceLanes 1 .n32 ctl xs).1 ≤ x)
        ∧ (reduceLanes 6 .n32 ctl xs).1 = (if ∃ x ∈ xs, x ≠ 0 then 1 else 0)
        ∧ ∀ r, r = scanLanes 0 excl .n32 ctl acc.toNat xs → r.2.1 = (acc.toNat + xs.sum) % 2 ^ 32
          ∧ ∀ i, i < ls.length → r.1.getD i 0 = (acc.toNat + (xs.take (if excl then i else i + 1)).sum) % 2 ^ 32)
    ∧ (∀ (ctl : FpCtl) (x : BitVec 32), (convertLane ctl .i32 .i8 x.toNat).1 =
        (if x.toInt < -128 then 128 else if 127 < x.toInt then 127 else x.toNat % 256))
    ∧ (∀ (ty : Ty) (daz : Bool) (x : Nat), fmtOf ty = none → laneNonzero ty daz x = decide (x ≠ 0))
    ∧ (∀ vs : List Fv, vs.length = 256 →
        ((∀ x ∈ vs, ∃ neg e, x = .fin neg 0 e) → quantise vs = (List.replicate 256 7, 0, {}))
        ∧ ((∃ neg, Fv.inf neg ∈ vs) → (quantise vs).2.1 = place 32 32 0x7F800000 ∧ (quantise vs).2.2.nv = true))

/-- R323, R324, R310, R311, R309, R336, R217, R88, R72, R205, with the frame. -/
def Obligations.VectorMemory : Prop :=
  (∀ (s : State) (t : Strand) (v : VecCmd) (g : Focus) (c : Core) (sp : LockSpace) (b d w e n count : Nat),
      headCommand s s.cur false = some (v, g) → s.strandAt g = some t → c = s.core g.core → sp = memSpace v.slot g.seat →
      v.done = 0 → v.got = [] → b = selNum v.slot.b → d = selNum v.slot.d → w = tyBits v.slot.ty → e = w / 8 → n = 2048 / w →
      count = rowCount v.slot.m → s.memoriesWf = true →
      ∀ (ends : (State → Prop) → Prop), ends = (fun p => ∃ u, exec .vectorCommandExecute s = .next u
        ∧ (∀ x ∈ (u.core g.core).inFlight, x.key ≠ v.key) ∧ p u) →
      (∀ (byte : State → Nat → Byte) (limit : Nat),
          ((∃ k, sp = .spad k ∧ byte = (fun x a => cellRead (x.core (g.bench * 8 + k)).spad a) ∧ limit = 196608)
            ∨ (sp = .bench ∧ byte = (fun x a => cellRead (x.bench g.bench).mem a) ∧ limit = 4192256)) →
          (s.bench g.bench).locks = [] → (∀ k, (s.core k).spadPoison = []) → (s.bench g.bench).poison = [] →
          ∀ (rows : Word → Nat → Word), rows = (fun stride r => v.ea + BitVec.ofNat 64 r * stride) →
          ∀ (element : Nat → Nat → Word), element = (fun x i =>
            v.ea + BitVec.ofNat 64 ((lanes 32 (c.row (x + i / 64))).getD (i % 64) 0 * e)) →
          ∀ (loaded : State → Prop), loaded = (fun u => u.strandAt g = some t ∧ u.mem = s.mem ∧ (∀ k, (u.core k).spad = (s.core k).spad)
            ∧ ∀ k, (u.bench k).mem = (s.bench k).mem) →
          ∀ (stored : (Nat → Word) → Nat → Nat → (Nat → List Byte) → State → Prop), stored = (fun at_ items len bs u =>
            u.strandAt g = some t ∧ u.mem = s.mem ∧ (u.core g.core).rows = c.rows
            ∧ (∀ k, (∀ q, sp = .spad q → k ≠ g.bench * 8 + q) → (u.core k).spad = (s.core k).spad)
            ∧ (∀ k, (sp ≠ .bench ∨ k ≠ g.bench) → (u.bench k).mem = (s.bench k).mem)
            ∧ ∀ covers : Nat → Nat → Prop, covers = (fun i x => (at_ i).toNat ≤ x ∧ x < (at_ i).toNat + len) → ∀ x,
              ((∀ i, i < items → ¬ covers i x) → byte u x = byte s x)
              ∧ ∀ i, i < items → covers i x → (∀ j, i < j → j < items → ¬ covers j x) →
                byte u x = (bs i).getD (x - (at_ i).toNat) 0) →
          (v.opcode = 0xC6 → (∀ r, r < count → (rows v.b r).toNat + 256 ≤ limit) → ends fun u => loaded u
            ∧ (∀ r, r < count → (u.core g.core).row (d + r) =
                BitVec.ofNat 2048 (bytesToNat ((List.range 256).map fun i => byte s ((rows v.b r).toNat + i))))
            ∧ ∀ k, (k < d ∨ d + count ≤ k) → (u.core g.core).row k = c.row k)
          ∧ (v.opcode = 0xC7 → (∀ r, r < count → (rows v.c r).toNat + 256 ≤ limit) → ends fun u =>
              stored (rows v.c) count 256 (fun r => natToBytes (c.row (b + r)).toNat 256) u
              ∧ ∀ k q, (u.core k).full.contains q = true ↔ (s.core k).full.contains q = true ∨ (∃ m : Fin 8, v.slot.c = .win m
                ∧ k = g.bench * 8 + m.val ∧ ∃ r, r < count ∧ (rows v.c r).toNat / 8 ≤ q ∧ q ≤ ((rows v.c r).toNat + 255) / 8))
          ∧ (w ∈ [8, 16, 32, 64] → v.opcode = 0xC8 → (∀ i, i < n → (element b i).toNat + e ≤ limit) → ends fun u => loaded u
              ∧ (∀ i, i < n → (lanes w (u.core g.core |>.row d)).getD i 0 =
                  bytesToNat ((List.range e).map fun j => byte s ((element b i).toNat + j)))
              ∧ ∀ k, k ≠ d → (u.core g.core).row k = c.row k)
          ∧ (w ∈ [8, 16, 32, 64] → v.opcode = 0xC9 → ∀ x, x = selNum v.slot.c → (∀ i, i < n → (element x i).toNat + e ≤ limit) →
              ends fun u => stored (element x) n e (fun i => natToBytes ((lanesAs v.slot.ty (c.row b)).getD i 0) e) u
                ∧ ∀ k, (u.core k).full = (s.core k).full))
      ∧ (∀ (k : Fin 8) (off : Nat) (r : List Nat × Flags), v.slot.d = .win k → off = immField v.slot 0 32 → v.ea = BitVec.ofNat 64 off →
          off + 256 ≤ 196608 → (s.bench g.bench).locks = [] → v.opcode ∈ [0xB0, 0xB1, 0xB2, 0xB3, 0xB4, 0xB5, 0xB6, 0xB7, 0xB8, 0xB9,
            0xBA, 0xBB, 0xBC, 0xBD] → r = laneMap v.opcode v.slot.m.toNat v.slot.ty (fpCtl v.fcr v.slot.rnd)
              (laneSource c v.slot.ty v.slot.a v.a) (laneSource c v.slot.ty v.slot.b v.b) (laneSource c v.slot.ty v.slot.c v.c) →
          ends fun u => ∀ x, x = g.bench * 8 + k.val →
            cellBytes (u.core x).spad off 256 = natToBytes (rowOf w r.1).toNat 256 ∧ (u.core g.core).rows = c.rows
            ∧ (∀ a, (a < off ∨ off + 256 ≤ a) → cellRead (u.core x).spad a = cellRead (s.core x).spad a)
            ∧ (∀ q, (u.core x).full.contains q = true ↔ (s.core x).full.contains q = true ∨ (off / 8 ≤ q ∧ q ≤ (off + 255) / 8))
            ∧ ∃ t', u.strandAt g = some t' ∧ t'.fcr = t.fcr ||| r.2.bits)
      ∧ (∀ (s1 s2 : State) (addrs : List Word) (bss : List (List Byte)), v.opcode = 0xC6 → addrs = rowAddrs v.ea v.b count →
          clearRows t sp addrs 256 false (s.setCur g) = .ok () s1 →
          Res.collect (rowParts sp addrs 256) s1 (fun p x => vecRead t sp p.1 p.2 x) = .ok bss s2 → s2.cur = g →
          ends fun u => ∀ r, r < count → (u.core g.core).row (d + r) =
            BitVec.ofNat 2048 (bytesToNat ((bss.flatten.drop (256 * r)).take 256)))
      ∧ (∀ (s1 s2 : State) (addrs : List Word), v.opcode = 0xC7 → addrs = rowAddrs v.ea v.c count →
          clearRows t sp addrs 256 true (s.setCur g) = .ok () s1 →
          Res.each (splitParts (rowParts sp addrs 256) ((List.range count).flatMap fun r => natToBytes (c.row (b + r)).toNat 256)) s1
            (fun p x => vecWrite t sp p.1.1 p.2 (selWin v.slot.c) x) = .ok () s2 → s2.cur = g →
          ends fun u => u.mem.bytes = s2.mem.bytes ∧ u.mem.llc = s2.mem.llc ∧ (∀ k, (u.core k).spad = (s2.core k).spad)
            ∧ ∀ t2, s2.strandAt g = some t2 → ∃ t', u.strandAt g = some t' ∧ t'.capsule = t2.capsule)
      ∧ (∀ (s2 : State) (bss : List (List Byte)), v.opcode = 0xC8 → w ∈ [8, 16, 32, 64] →
          Res.collect (elementAddrs c v b) (s.setCur g) (fun a x =>
            (checkElement t sp a e false x).andThen fun _ y => vecRead t sp a.toNat e y) = .ok bss s2 → s2.cur = g →
          ends fun u => (u.core g.core).row d =
            rowOf w ((List.range n).map fun i => bytesToNat ((bss.flatten.drop (e * i)).take e)))
      ∧ (∀ (s2 : State) (addrs : List Word), v.opcode = 0xC9 → w ∈ [8, 16, 32, 64] → addrs = elementAddrs c v (selNum v.slot.c) →
          scatterWaits t sp addrs e (s.setCur g) = false →
          Res.each (addrs.zip (lanesAs v.slot.ty (c.row b))) (s.setCur g) (fun p x => (checkElement t sp p.1 e true x).andThen fun _ y =>
            vecWrite t sp p.1.toNat (natToBytes p.2 e) false y) = .ok () s2 → s2.cur = g →
          ends fun u => u.mem.bytes = s2.mem.bytes ∧ u.mem.llc = s2.mem.llc ∧ ∀ k, (u.core k).spad = (s2.core k).spad))
    ∧ (∀ (s : State) (t : Strand) (v : VecCmd) (g : Focus) (c : Core) (sp : LockSpace) (byte : State → Nat → Byte) (limit w len : Nat),
        headCommand s s.cur true = some (v, g) → s.strandAt g = some t → c = s.core g.core → v.opcode = 0xD4 → v.done = 0 →
        s.memoriesWf = true → (∃ k, v.slot.c = .x k) → sp = memSpace { v.slot with c := .x 0 } g.seat →
        ((sp = .spad g.seat ∧ byte = (fun x a => cellRead (x.core g.core).spad a) ∧ limit = 196608)
          ∨ (sp = .bench ∧ byte = (fun x a => cellRead (x.bench g.bench).mem a) ∧ limit = 4192256)) →
        tyBits v.slot.ty ∈ [8, 16, 32, 64] → w = (if v.slot.m = 12 then 64 else 32) → len = 2048 / w * (tyBits v.slot.ty / 8) →
        ∀ at_ : Nat → Nat, at_ = (fun r => (v.ea + BitVec.ofNat 64 r * v.c).toNat) → (∀ r, r < 16 → at_ r + len ≤ limit) →
        ∀ bs : Nat → List Byte, bs = (fun r => (lanes w (c.row (16 * selNum v.slot.b + r))).flatMap fun x =>
          natToBytes (mstaLane v v.slot.ty x).1 (tyBits v.slot.ty / 8)) →
        ∃ u, exec .matrixCommandComplete s = .next u ∧ (∀ x ∈ (u.core g.core).inFlight, x.key ≠ v.key)
          ∧ (∀ x ∈ (u.bench g.bench).locks, x.op ≠ .command v.key) ∧ (u.core g.core).rows = c.rows ∧ u.mem.bytes = s.mem.bytes
          ∧ (∀ k, (sp ≠ .spad g.seat ∨ k ≠ g.core) → (u.core k).spad = (s.core k).spad)
          ∧ (∀ k, (u.core k).full = (s.core k).full) ∧ (∀ k, (sp ≠ .bench ∨ k ≠ g.bench) → (u.bench k).mem = (s.bench k).mem)
          ∧ (∃ t' fl, u.strandAt g = some t' ∧ t' = { t with fcr := t.fcr ||| Flags.bits fl })
          ∧ ∀ x, ((∀ r, r < 16 → x < at_ r ∨ at_ r + len ≤ x) → byte u x = byte s x)
            ∧ ∀ r, r < 16 → at_ r ≤ x → x < at_ r + len → (∀ q, r < q → q < 16 → x < at_ q ∨ at_ q + len ≤ x) →
              byte u x = (bs r).getD (x - at_ r) 0)
    ∧ (∀ (v : VecCmd) (x : BitVec 32), v.slot.m = 3 → (mstaLane v .i8 x.toNat).1 =
        (if x.toInt < -128 then 128 else if 127 < x.toInt then 127 else x.toNat % 256))

/-- R333 to R335, R178, R181, R112; that the locks go where the word has nowhere to go is the model's reading of R112 (log 109). -/
def Obligations.MatrixExecution : Prop :=
  (∀ s, headCommand s s.cur true = none → exec .matrixCommandComplete s = .next s)
    ∧ (∀ (s : State) (t : Strand) (v : VecCmd) (g : Focus) (c : Core),
        headCommand s s.cur true = some (v, g) → s.strandAt g = some t → c = s.core g.core →
        (∀ n : Fin 4, v.opcode = 0xD2 → v.slot.d = .acc n → ∃ u, exec .matrixCommandComplete s = .next u
            ∧ (∀ x ∈ (u.core g.core).inFlight, x.key ≠ v.key)
            ∧ (∀ row, row < 16 → ∀ col, col < 2048 / matWidth v.slot.ty →
                (lanes (matWidth v.slot.ty) ((u.core g.core).row (16 * n.val + row))).getD col 0 =
                  if (c.ymMask (immField v.slot 30 2)).getLsbD row && (c.xmMask (immField v.slot 28 2)).getLsbD col then 0
                  else (lanes (matWidth v.slot.ty) (c.row (16 * n.val + row))).getD col 0)
            ∧ (∀ k, k < 64 → k / 16 ≠ n.val → (u.core g.core).row k = c.row k))
        ∧ (∀ n : Fin 4, v.opcode = 0xD3 → v.slot.d = .ym n → ∃ u, exec .matrixCommandComplete s = .next u
            ∧ (u.core g.core).ymMask n.val = (if v.slot.m = 1 then BitVec.ofNat 16 (2 ^ min v.a.toNat 16 - 1) else v.a.setWidth 16))
        ∧ (∀ n : Fin 4, v.opcode = 0xD3 → v.slot.d = .xm n → ∃ u, exec .matrixCommandComplete s = .next u
            ∧ (u.core g.core).xmMask n.val = (if v.slot.m = 1 then BitVec.ofNat 64 (2 ^ min v.a.toNat 64 - 1) else v.a))
        ∧ (v.opcode = 0xD5 → ∃ u, exec .matrixCommandComplete s = .next u
            ∧ (u.core g.core).linkIn = v.slot.imm.getLsbD 0 ∧ (u.core g.core).linkFwd = v.slot.imm.getLsbD 1
            ∧ (u.core g.core).linkFeed = v.slot.imm.getLsbD 2)
        ∧ ((v.opcode = 0xD0 ∨ v.opcode = 0xD1) → cmdWords v.opcode v.slot ≤ v.words.length → v.aborted = false →
            ∀ md bs bad prod, md = cellBytes c.spad v.c.toNat (metaBytes v.opcode v.slot) →
            bs = cellBytes c.shelf v.b.toNat (matBBytes v.slot) → bad = metaBad (matSparsity v.opcode v.slot.m.toNat) md (matK v.slot / 4) →
            prod = matProduct v c md bs → c.spadPoison = [] → c.shelfPoison = [] → v.poisoned = false →
            ∃ u t', exec .matrixCommandComplete s = .next u ∧ (∀ x ∈ (u.core g.core).inFlight, x.key ≠ v.key)
              ∧ (u.core g.core).rows = (if bad then c.rows else prod.1.rows)
              ∧ u.strandAt g = some t' ∧ t'.fcr = (if bad then t.fcr else t.fcr ||| prod.2.bits)
              ∧ (t.launch = v.launch → t.message.key = v.task → t.qPending.get 1 [] = [] → (t.qs.get 1 []).length < queueDepth {} 1 →
                  (t'.qs.get 1 []).map (·.word) = (t.qs.get 1 []).map (·.word)
                    ++ (if bad then [place 56 8 2 ||| place 48 8 (immField v.slot 16 8)] else
                      if v.slot.imm.getLsbD 25 then [place 48 8 (immField v.slot 16 8)] else []))
              ∧ (t.launch ≠ v.launch ∨ t.message.key ≠ v.task ∨ (bad = false ∧ v.slot.imm.getLsbD 25 = false)
                  ∨ (t.qPending.get 1 [] = [] ∧ (t.qs.get 1 []).length < queueDepth {} 1) →
                ∀ e ∈ (u.bench g.bench).locks, e.op ≠ .command v.key)))
    ∧ (∀ (v : VecCmd) (c : Core) (md bs : List Byte) (w tile : Nat) (ctl : FpCtl), w = matWidth v.slot.ty → tile = selNum v.slot.d →
        ctl = { fpCtl v.fcr .rne with rm := .rne } → ∀ x, x = (matProduct v c md bs).1 →
        (∀ k, k / 16 ≠ tile → x.row k = c.row k)
        ∧ ∀ row col old, row < 16 → col < matCols v.slot.ty → old = (lanes w (c.row (16 * tile + row))).getD col 0 →
          (lanes w (x.row (16 * tile + row))).getD col 0 =
            if (c.ymMask (immField v.slot 30 2)).getLsbD row && (c.xmMask (immField v.slot 28 2)).getLsbD col then
              (accumulate v.slot.ty ctl (if v.slot.m.toNat % 2 = 1 then 0 else old)
                ((aRow v.opcode v.slot v.words md row).zip (bCol v.slot bs col))).1 % 2 ^ w
            else old)
    ∧ (∀ (v : VecCmd) (md bs ab : List Byte) (e row col k : Nat), v.slot.ty ∈ [.i8, .n8, .e4m3, .e5m2, .f16, .bf16, .f32, .f64] →
        e = tyBits v.slot.ty / 8 → row < 16 → k < matK v.slot →
        (bCol v.slot bs col).getD k 0 = bytesToNat ((bs.drop ((k * matCols v.slot.ty + col) * e)).take e)
        ∧ ∀ elem : Nat → Nat, elem = (fun k => bytesToNat ((ab.drop ((16 * k + row) * e)).take e)) →
          ab = v.words.flatMap (fun x => natToBytes x.toNat 32) →
          (v.opcode = 0xD0 → (aRow v.opcode v.slot v.words md row).getD k none = some (elem k))
          ∧ (v.opcode = 0xD1 → matK v.slot % 4 = 0 →
            (v.slot.m.toNat < 2 → ∀ x, x = bytesToNat ((md.drop (8 * (k / 4))).take 8) / 2 ^ (4 * row) % 16 →
              (aRow v.opcode v.slot v.words md row).getD k none = if k % 4 = x % 4 then some (elem (2 * (k / 4)))
                else if k % 4 = x / 4 then some (elem (2 * (k / 4) + 1)) else none)
            ∧ (2 ≤ v.slot.m.toNat → (aRow v.opcode v.slot v.words md row).getD k none =
                if k % 4 = bytesToNat ((md.drop (4 * (k / 4))).take 4) / 2 ^ (2 * row) % 4 then some (elem (k / 4)) else none)))
    ∧ (∀ (ctl : FpCtl) (acc : BitVec 32) (ps : List (BitVec 8 × BitVec 8)), ∀ pairs, pairs = ps.map (fun p => (some p.1.toNat, p.2.toNat)) →
        (accumulate .i8 ctl acc.toNat pairs).1 = (BitVec.ofInt 32 (acc.toInt + (ps.map fun p => p.1.toInt * p.2.toInt).sum)).toNat
        ∧ (accumulate .n8 ctl acc.toNat pairs).1 = (acc.toNat + (ps.map fun p => p.1.toNat * p.2.toNat).sum) % 2 ^ 32)
    ∧ accumulate .f32 {} 0 [(some 0x3FC00000, 0x40000000)] = (0x40400000, {})

/-- R183, R185, R329, R330, R339, R342, R142, R181, R112; at which of its units a cancelled copy stands when it ends is the model's
choice (logs 30 and 49). -/
def Obligations.CopyCompletion : Prop :=
  (∀ (s s1 : State) (b i : Nat) (c c1 : CopyCmd) (ti : TrapInfo), (s.bench b).copies[i]? = some c → c.status = none →
      ∀ (ev : Instr), ev = (if c.indexed then .getxPlacexComplete b i else .copyComplete b i) →
      (c.cancelled = true → exec ev s = .next (cancelCopy b c s)
          ∧ exec (.engineLateFault b i) s = .next s)
        ∧ (c.cancelled = false →
            (runUnits b c.fuel c s = .done c1 s1 → c1.follow = none → exec ev s = .next (endCopy s1 b c1 stDone)
              ∧ exec (.engineLateFault b i) s = .next s)
            ∧ (∀ v, runUnits b c.fuel c s = .done c1 s1 → c1.follow = some v →
                ((s1.core c1.issuer.core).commands.length < 16 → exec ev s = .next (settleCopies b (dropCopy (s1.setCore c1.issuer.core
                  { s1.core c1.issuer.core with
                    commands := (s1.core c1.issuer.core).commands ++ [{ v with key := c1.key, blocks := c1.blocks }] }) b c1)))
                ∧ (16 ≤ (s1.core c1.issuer.core).commands.length → exec ev s = .next s))
            ∧ (runUnits b c.fuel c s = .fault ti c1 s1 →
                exec ev s = .next s
                ∧ exec (.engineLateFault b i) s = .next (endCopy
                    (engineRecord s1 ti true (BitVec.ofNat 64 c1.done) c.ctx c.msgId c.pc c.rank c.issuer).1 b c1
                    (if ti.cause = .poison then stPoison else stFault)))))
    ∧ (∀ (s : State) (t : Strand) (b n seat : Nat) (c : CopyCmd), s.memoriesWf = true → (s.bench b).copies = [c] →
        c.kind = .cpy → c.src = .spad seat → c.dst = .bench → c.rowBytes = n → c.rowCount = 1 → c.done = 0 → c.x6 = false →
        c.barrier = none → c.follow = none → c.status = none → c.cancelled = false → c.ncpl = false →
        0 < n → c.dstBase.toNat % 256 + n ≤ 256 → (s.core (b * 8 + seat)).spadPoison = [] → c.targetBench = b →
        s.strandAt c.issuer = some t → t.launch = c.launch → t.message.key = c.task → t.qPending.get 2 [] = [] →
        (t.qs.get 2 []).length < queueDepth {} 2 →
        ∃ u, exec (.copyComplete b 0) s = .next u
          ∧ cellBytes (u.bench b).mem c.dstBase.toNat n = cellBytes (s.core (b * 8 + seat)).spad c.srcBase.toNat n
          ∧ (∀ a, (a < c.dstBase.toNat ∨ c.dstBase.toNat + n ≤ a) → cellRead (u.bench b).mem a = cellRead (s.bench b).mem a)
          ∧ (u.bench b).copies = [] ∧ (∀ e ∈ (u.bench b).locks, e.op ≠ .command c.key)
          ∧ ∃ t', u.strandAt c.issuer = some t'
              ∧ ∃ e, t'.qs.get 2 [] = t.qs.get 2 [] ++ [e] ∧ e.word = completionOf stDone c.tag n ∧ e.lo = 1 ∧ e.hi = 0)
    ∧ (∀ (s s1 : State) (b n m : Nat) (c c1 x : CopyCmd), s.memoriesWf = true → (s.bench b).copies = [c, x] → c.key ≠ x.key →
        c.mergedWith x = true → c.kind = .cpy → c.src = .global → c.dst = .spad n → x.dst = .spad m → n < 8 → m < 8 → n ≠ m →
        c.barrier = none → x.barrier = none → c.done < c.rowOut → unitStep b c s = .ok c1 s1 →
        c.done < c1.done ∧ (s1.bench b).copies = [c, { x with done := c1.done }]
        ∧ ∀ a, c.dstBase.toNat + c.done ≤ a → a < c.dstBase.toNat + c1.done →
            cellRead (s1.core (b * 8 + m)).spad a = cellRead (s1.core (b * 8 + n)).spad a)

/-- R190, R191, R348 to R350, R238, R112; that WRUN registers the bytes from its output offset to the end of the scratchpad is the
model's choice, an inference from R112 (log 53). -/
def Obligations.WalkerInstructions : Prop :=
  (∀ (s u v : State) (t : Strand) (f : Slot), Issues s t f →
      (∀ bs, (xOf t f.b).toNat + (xOf t f.c).toNat ≤ 1024 →
          readSource t (sourceSpace { f with c := .x 0 } s.cur.seat) (xOf t f.a) (4 * (xOf t f.c).toNat) s = .ok bs u →
          u.curBench.jobs.length < 8 →
          exec (.wload f) s = .next (retire (u.setCurBench { u.curBench with jobs := u.curBench.jobs ++
            [.load u.cur (xOf t f.b).toNat (words32 bs (xOf t f.c).toNat) t.launch t.message.key] }) .seq))
        ∧ (∀ spans, selNum f.b ≤ 57 → immField f 10 2 ≠ 3 → (xOf t f.a).toNat < Config.spadBytes → (xOf t f.a).toNat % 32 = 0 →
            pendingVecMem s s.cur t = false → s.curBench.jobs.length < 8 →
            spans = spanOf (.spad (immField f 26 3)) (xOf t f.a).toNat (Config.spadBytes - (xOf t f.a).toNat) true →
            v = s.nextTicket.setCurBench { s.curBench with jobs := s.curBench.jobs ++ [.run
              { key := s.ticket, issuer := s.cur, launch := t.launch, task := t.message.key, ctx := (s.launch t.launch).ctx
                strandPc := t.group, msgId := msgIdWord t.message, rank := t.rank, seat := immField f 26 3
                sparsity := immField f 10 2, elem := 2 ^ immField f 8 2, tag := immField f 0 8
                regs := (List.range 7).map fun i => (i + 1, t.x (selNum f.b + i))
                pc := immField f 16 10, start := (xOf t f.a).toNat, out := (xOf t f.a).toNat }] } →
            register t (spans.map fun p => (s.cur.bench, p)) (.command s.ticket) v = .ok () u →
            exec (.wrun f) s = .next (retire u .seq))
        ∧ (exec (.wwait f) s = .next (if pendingRuns s s.cur t then beginWait s .older (some f) else retire s .seq)))
    ∧ (∀ (s : State) (b : Nat) (x : Bench), b = s.cur.bench → x = s.bench b → x.run = none →
        (∀ i at_ ws l k rest, x.jobs = .load i at_ ws l k :: rest → ∃ u, exec .walkerLoadStore s = .next u
            ∧ (u.bench b).jobs = rest ∧ (u.bench b).run = none
            ∧ (∀ j, (u.bench b).store.get j 0 =
                if at_ ≤ j ∧ j < at_ + ws.length then ws.getD (j - at_) 0 else x.store.get j 0)
            ∧ exec .walkerRunStart s = .next s)
        ∧ (∀ r rest, x.jobs = .run r :: rest →
            exec .walkerRunStart s = .next (s.setBench b { x with run := some r, jobs := rest })
            ∧ exec .walkerLoadStore s = .next s))
    ∧ (∀ (s : State) (b : Nat) (r q : WalkerRun), b = s.cur.bench → (s.bench b).run = some r → r.steps < 2 ^ 24 → r.pc < 1023 →
        q = { r with steps := r.steps + 1, pc := r.pc + 1 } →
        ∀ (ran : WalkerRun → State), ran = (fun w => s.setBench b { s.bench b with run := some w }) →
        (∀ (d a c : Fin 16) (i : BitVec 16) (j : BitVec 24) (w : BitVec 32),
          exec .wnop s = .next (ran q)
          ∧ exec (.wldi d j) s = .next (ran (q.setReg d (j.signExtend 64)))
          ∧ exec (.wadd d a c i) s = .next (ran (q.setReg d (q.reg a + q.reg c + i.signExtend 64)))
          ∧ (c.val < 4 → ∀ v u, walkerLoad q (q.reg a + i.signExtend 64).toNat (2 ^ c.val) s = .ok v u →
              exec (.wld d a c i) s = .next (u.setBench b { u.bench b with run := some (q.setReg d v) }))
          ∧ (4 ≤ c.val → exec (.wld d a c i) s = .next (endRun b q stWalker s))
          ∧ (i.toNat < 10 → exec (.wcmp d a c i) s = .next (ran (q.setReg d (if intCond i.toNat (q.reg a) (q.reg c) then 1 else 0))))
          ∧ (10 ≤ i.toNat → exec (.wcmp d a c i) s = .next (endRun b q stWalker s))
          ∧ (c.val < 4 → ∀ x u, walkerLoad q (q.reg a + i.signExtend 64).toNat (2 ^ c.val) s = .trap x u →
              exec (.wld d a c i) s = .next (endRun b q (if x.cause = .poison then stPoison else stFault)
                (engineRecord u x true 0 q.ctx q.msgId q.strandPc q.rank q.issuer).1))
          ∧ exec (.wbr a i) s = .next (if a = 0 ∨ q.reg a ≠ 0 then
              if i.toNat < 1024 then ran { q with pc := i.toNat } else endRun b { q with pc := i.toNat } stWalker s else ran q)
          ∧ ((16 ≤ (q.reg a).toNat ∨ q.columns ≤ (q.reg c + i.signExtend 64).toNat) → exec (.wrow a c i) s = .next (endRun b q stWalker s))
          ∧ (q.columns ≤ q.col → exec (.wemit a i) s = .next (endRun b q stWalker s))
          ∧ ((q.sparsity = 0 ∨ q.columns / 4 ≤ (q.reg c).toNat) → exec (.wmeta a c) s = .next (endRun b q stWalker s))
          ∧ ((i = 0 ∨ q.columns < i.toNat ∨ (q.sparsity ≠ 0 ∧ i.toNat % 4 ≠ 0)) → exec (.wflush i) s = .next (endRun b q stWalker s))
          ∧ ((q.reg a).toNat < 16 → (q.reg c + i.signExtend 64).toNat < q.columns →
              exec (.wrow a c i) s = .next (ran { q with row := (q.reg a).toNat, col := (q.reg c + i.signExtend 64).toNat }))
          ∧ (q.col < q.columns → exec (.wemit a i) s = .next (ran { q with
              emit := q.emit.put (q.row * 4096 + q.col) (q.reg a)
              col := (BitVec.ofNat 64 q.col + (1 + i.signExtend 64)).toNat }))
          ∧ (q.sparsity ≠ 0 → (q.reg c).toNat < q.columns / 4 → exec (.wmeta a c) s = .next (ran { q with
              groups := q.groups.put (q.row * 4096 + (q.reg c).toNat)
                (BitVec.ofNat 4 (if q.sparsity = 1 then field (q.reg a) 0 4 else field (q.reg a) 0 2)) }))
          ∧ exec (.wskip a i) s = .next (ran { q with col := (BitVec.ofNat 64 q.col + (q.reg a + i.signExtend 64)).toNat })
          ∧ (0 < i.toNat → i.toNat ≤ q.columns → (q.sparsity = 0 ∨ i.toNat % 4 = 0) →
              ∀ bad : Prop, bad = (q.sparsity = 1 ∧ ∃ g m x, g < i.toNat / 4 ∧ m < 16 ∧ x = (q.groups.get (m * 4096 + g) 0).toNat ∧ x % 4 = x / 4) →
              (bad → exec (.wflush i) s = .next (endRun b q stMeta s))
              ∧ (¬ bad → ∀ bs, bs = tileBytes q i.toNat ++ tileMeta q i.toNat →
                (Config.spadBytes < q.out + bs.length → exec (.wflush i) s = .next (endRun b q stWalker s))
                ∧ (q.out + bs.length ≤ Config.spadBytes → ∀ k u z, k = b * 8 + q.seat →
                  u = spadWrite k q.out bs true (engineTouch q.who q.key k q.out bs.length s) →
                  z = { q with out := q.out + bs.length, emit := [], groups := [], row := 0, col := 0, tiles := q.tiles + 1 } →
                  exec (.wflush i) s = .next (u.setBench b { u.bench b with run := some z }))))
          ∧ exec .wend s = .next (endRun b q stDone s)
          ∧ exec (.unassignedWalkerWord w) s = .next (endRun b q stWalker s)
          ∧ exec .walkerStepLimit s = .next s))
    ∧ (∀ (s : State) (b : Nat) (r : WalkerRun), b = s.cur.bench → (s.bench b).run = some r → 2 ^ 24 ≤ r.steps →
        exec .walkerStepLimit s = .next (endRun b r stWalker s) ∧ exec .wnop s = .next s)
    ∧ (∀ (s : State) (b : Nat) (r : WalkerRun), b = s.cur.bench → (s.bench b).run = some r → r.steps < 2 ^ 24 → 1023 ≤ r.pc →
        exec .wnop s = .next (endRun b { r with steps := r.steps + 1, pc := r.pc + 1 } stWalker s))
    ∧ (∀ (s : State) (b : Nat) (r : WalkerRun) (t : Strand) (status : Nat), s.strandAt r.issuer = some t → t.launch = r.launch →
        t.message.key = r.task → t.qPending.get 4 [] = [] → (t.qs.get 4 []).length < queueDepth {} 4 →
        ((endRun b r status s).bench b).run = none
          ∧ (∀ e ∈ ((endRun b r status s).bench b).locks, e.op ≠ .command r.key)
          ∧ ∃ t', (endRun b r status s).strandAt r.issuer = some t'
              ∧ ∃ e, t'.qs.get 4 [] = t.qs.get 4 [] ++ [e] ∧ e.word = completionOf status r.tag r.tiles ∧ e.lo = 1 ∧ e.hi = 0)

/-- R147, R148, R297, R298, R112; that the word of NO_STEP has instance 0 is the model's choice (log 55). -/
def Obligations.CollectiveSteps : Prop :=
  (∀ (s s1 : State) (t : Strand) (f : Slot) (a : Nat) (ws : List Word), Issues s t f → a = (xOf t f.a).toNat →
      ((s.launch t.launch).stepCount ≤ a → pendingVecMem s s.cur t = false →
          exec (.clpost f) s = .next (retire (s.setStrand (pushEntry t 5 { word := place 56 8 2 ||| place 32 16 a })) .seq))
        ∧ (a < (s.launch t.launch).stepCount → postChecks t a s = .ok ws s1 → pendingVecMem s1 s1.cur t = false →
            exec (.clpost f) s = .next (retire (takePost t.launch a
              (s1.setCollective t.launch a { (s1.launch t.launch).collective a with count := blockCount ws, links := maskedLinks ws })
              (s1.cur, (t.message.sender, t.message.seq), t.message.key)) .seq)))
    ∧ (∀ (s : State) (launch step : Nat) (f : Focus) (id : Nat × BitVec 32) (task : Nat) (c : Collective),
        c = (s.launch launch).collective step →
        (c.running = true → takePost launch step s (f, id, task) =
            s.setCollective launch step { c with waiting := c.waiting ++ [(f, id, task)] })
          ∧ (c.running = false → (id ∈ c.counted ∨ id ∈ c.previous) → takePost launch step s (f, id, task) =
              postEntry s f launch task 5 { word := place 56 8 1 ||| place 32 16 step ||| place 0 32 c.instance_ })
          ∧ (c.running = false → id ∉ c.counted → id ∉ c.previous → takePost launch step s (f, id, task) =
              postEntry ((tellPeers s launch step c.links).setCollective launch step
                { c with counted := c.counted ++ [id], running := decide (c.count ≤ c.counted.length + 1) })
                f launch task 5 { word := place 32 16 step ||| place 0 32 c.instance_ }))
    ∧ (∀ (s s1 s2 s3 : State) (launch step : Nat) (c : Collective) (bs source : List Byte) (ws : List Word) (l : Launch) (op : Nat),
        l = s.launch launch → c = l.collective step → op = l.stepOp step →
        (c.running = false ∨ c.started = true ∨ l.stopped = true → exec (.collectiveStepStart launch step) s = .next s)
          ∧ (c.running = true → c.started = false → l.stopped = false →
              stepRead s l.ctx (l.stepBlock step) 64 = .ok bs s1 → ws = (List.range 8).map (byteWord bs) →
              (stepLockFree s1 l step (stepSpans op ws) = false →
                exec (.collectiveStepStart launch step) s = .next (stepWaits s launch step (stepSpans op ws)))
              ∧ (stepLockFree s1 l step (stepSpans op ws) = true → s2 = stepLock s1 launch step (stepSpans op ws) →
                  stepRead s2 l.ctx (blockSource ws) (stepSourceBytes op ws) = .ok source s3 →
                  exec (.collectiveStepStart launch step) s = .next (sendContribution op source (maskedLinks ws) (tellPeers (s3.setCollective launch step
                    { (s3.launch launch).collective step with
                      started := true, waitsLock := none
                      failed := if (maskedLinks ws).any (fun n => !(s3.link n).up) then 1 else ((s3.launch launch).collective step).failed
                      operands := ws, source := source }) launch step (maskedLinks ws))))))
    ∧ (∀ (s s1 : State) (launch step status : Nat) (ps : List Contribution) (c : Collective) (l : Launch),
        l = s.launch launch → c = l.collective step →
        ∀ (ended : State → Nat → State), ended = (fun v n => reopenStep (releaseListed
          (l.rect.benches.foldl (fun v b => releaseLocks v b fun k => decide (k.op = .step launch step))
            (tellPeers (writeStatus v launch step n) launch step (maskedLinks c.operands)))
          launch step) launch step) →
        (c.started = false → exec (.collectiveStepFinish launch step status ps) s = .next s)
          ∧ (c.started = true → l.stopped = false → (c.failed ≠ 0 ∨ status ≠ 0) →
              exec (.collectiveStepFinish launch step status ps) s =
                .next (ended s (if c.failed ≠ 0 then c.failed else min status 2)))
          ∧ (c.started = true → l.stopped = false → c.failed = 0 → status = 0 →
              contributionsReady (l.stepOp step) c.operands ps = true →
              ∀ r, r = stepResult (l.stepOp step) s.fresh c ps →
              stepWrite (spendFresh s (64 * r.length)) l.ctx (blockDest c.operands) r kEngineWrite = .ok () s1 →
              exec (.collectiveStepFinish launch step status ps) s = .next (ended s1 0)))
    ∧ (∀ (s : State) (launch step : Nat) (c : Collective), c = (s.launch launch).collective step → c.waiting = [] →
        (((reopenStep s launch step).launch launch).collective step) =
          { instance_ := (c.instance_ + 1) % 2 ^ 32, previous := c.counted, count := c.count, links := c.links })

/-- R139, R168, R169, R180, R268, R295, R306; that a pair is marked served and issues again is the model's (log 3). -/
def Obligations.ServedWaits : Prop :=
  (∀ (s : State) (t : Strand) (w : Wait), s.strand = some t → t.wait = some w →
      ∀ (served : State), served = s.setStrand { t with wait := some { w with served := true } } →
      (∀ off, w.why = .ldw off → ∀ ready, ready = (s.curCore.full.contains (off / 8)
            && !olderWaiter s s.cur (upFrom (s.cur.core * 8) 8) (.ldw off)) →
          (ready = false → exec .ldwServed s = .next s)
          ∧ (ready = true → w.slot = none → exec .ldwServed s = .next served)
          ∧ (ready = true → ∀ f, w.slot = some f → ∃ u, exec (.ldw f) s = .next u ∧ exec .ldwServed s = .next (countIssue t.launch u)))
        ∧ (∀ n, w.why = .queueRead n ∨ w.why = .queueWrite n → ∀ ready,
            ready = ((if w.why = .queueRead n then !(queueWords s t n).isEmpty || (queueFault t n).isSome
                else decide ((queueWords s t n).length < queueDepth (s.launch t.launch) n))
              && !olderWaiter s s.cur (queueSharers s.cur n) w.why) →
            exec .queueWaitServed s = .next (if ready then served else s))
        ∧ (∀ object f, w.why = .barwait object → w.slot = some f → ∀ h, h = t.handle (selNum f.a) →
            (barwaitOver h (s.barrier s.cur.bench h.object) = false → barrierPoisoned s s.cur.bench h.object = false →
              exec .barwaitRelease s = .next s)
            ∧ (barwaitOver h (s.barrier s.cur.bench h.object) = true ∨ barrierPoisoned s s.cur.bench h.object = true →
                ∃ u, exec (.barwait f) s = .next u ∧ exec .barwaitRelease s = .next (countIssue t.launch u))))
    ∧ (∀ (s : State) (k h : Nat) (t : Strand) (w : Wait), k = s.cur.core →
        (∀ x, (s.core k).claim = some x → exec .claimHandover s = .next s)
        ∧ ((s.core k).claim = none → claimHeir s = none → exec .claimHandover s = .next s)
        ∧ ((s.core k).claim = none → claimHeir s = some h → s.strandAt { s.cur with hc := h } = some t → t.wait = some w →
            ∃ u, exec .claimHandover s = .next u ∧ u.core k = claimed (s.core k) h
              ∧ u.strandAt { s.cur with hc := h } = some { t with wait := some { w with served := true } }
              ∧ (∀ n, n ≠ k * 8 + h → u.hc n = s.hc n) ∧ u.benches = s.benches ∧ u.mem = s.mem))

/-- R60, R66, R87, R123, R125, R135 to R138, R196, R199; that each request of 32 bytes is charged at its own line is the model's
(log 17), and so is that a message waits for the end of its aborted task, and its rank with it (log 70). -/
def Obligations.Scheduling : Prop :=
  (∀ (s s1 : State) (k r : Nat) (m : Message), launchOn s s.cur.bench = some k → s.strandAt s.cur = none → mayStart s k = true →
      unreserved s s.cur.bench s.cur.seat = true → rankAt (s.launch k) s.cur.bench s.cur.seat = some r →
      nextMessage (s.launch k) r = some m →
      (m.cls = 3 → exec .taskDispatch s = .next (reserveGang s s.cur.bench k))
        ∧ (m.cls ≠ 3 → m.ordinary = false → m.cls = 1 ∨ m.hidx < (s.launch k).handlerCount →
            exec .taskDispatch s = .next (activate s k m [s.cur]))
        ∧ (m.cls ≠ 3 → m.ordinary = true → takeBudget s.cur.bench k 1 s = none →
            exec .taskDispatch s = .next s
            ∧ (gangReady s s.cur.bench = false → (s.bench s.cur.bench).idleClocks < 4096 → exec .throttledActivation s = .next s)
            ∧ (gangReady s s.cur.bench = false → 4096 ≤ (s.bench s.cur.bench).idleClocks →
                m.cls = 1 ∨ m.hidx < (s.launch k).handlerCount →
                exec .throttledActivation s = .next (activate
                  (s.setBench s.cur.bench { s.bench s.cur.bench with idleClocks := 0 }) k m [s.cur])))
        ∧ (m.cls ≠ 3 → m.ordinary = true → takeBudget s.cur.bench k 1 s = some s1 →
            m.cls = 1 ∨ m.hidx < (s1.launch k).handlerCount → exec .taskDispatch s = .next (activate s1 k m [s.cur])))
    ∧ (∀ (s s1 : State) (b k : Nat) (m : Message) (places : List Focus), b = s.cur.bench →
        (reservedGang s b = none → exec .gangActivation s = .next (s.setBench b { s.bench b with gang := none }))
        ∧ (reservedGang s b = some (k, m) → rankHeld (s.launch k) m.dest = true → exec .gangActivation s = .next s)
        ∧ (reservedGang s b = some (k, m) → mayStart s k = true → rankHeld (s.launch k) m.dest = false →
            (gangPlaces s b (s.launch k) m = none → exec .gangActivation s = .next s)
            ∧ (gangPlaces s b (s.launch k) m = some places → takeBudget b k (s.launch k).gangSize s = some s1 →
                m.cls = 1 ∨ m.hidx < (s1.launch k).handlerCount →
                exec .gangActivation s = .next (activate (s1.setBench b { s1.bench b with gang := none }) k m places))))
    ∧ (∀ (s : State) (k : Nat) (m : Message) (f : Focus), m.cls ≠ 1 → m.capsule = none →
        ∃ t, (activate s k m [f]).strandAt f = some t ∧ t.launch = k ∧ t.rank = m.dest ∧ t.gangSize = 1
          ∧ t.pc = (s.launch k).handlers.getD m.hidx 0
          ∧ (∀ i, i < 8 → t.x (i + 1) = if 8 * i < 32 * m.plen then byteWord m.payload i else 0)
          ∧ (∀ n, 9 ≤ n → t.x n = 0) ∧ t.ks = [] ∧ t.qs = [])
    ∧ (∀ (s : State) (c : Nat), c < 4096 →
        (s.curBench.periodClocks < 65536 → exec .issuePeriod s = .next s)
        ∧ (65536 ≤ s.curBench.periodClocks → ∃ u, exec .issuePeriod s = .next u ∧ (u.spending false s.cur.bench c).spent = 0
          ∧ (u.spending false s.cur.bench c).activations = 0 ∧ u.curBench.periodClocks = 0)
        ∧ (∃ u, exec .bandwidthPeriod s = .next u ∧ (u.spending true s.cur.bench c).spent = 0))
    ∧ (∀ (s : State) (w : Who) (va port : Nat) (x : Spending) (l : Launch), port = sliceOf s va → x = s.spending true port w.ctx →
        l = s.launch w.launch →
        (x.spent + x.lent < ownTokens s true port w.ctx →
            (l.bwCap = 0 → chargePort w va s = s.setSpending true port w.ctx { x with spent := x.spent + 1 })
            ∧ (l.bwCap ≠ 0 → l.portSpent.get port 0 < l.bwCap → chargePort w va s =
                (s.setSpending true port w.ctx { x with spent := x.spent + 1 }).setLaunch w.launch
                  { l with portSpent := l.portSpent.change port 0 (· + 1) }))
          ∧ (ownTokens s true port w.ctx ≤ x.spent + x.lent ∨ (l.bwCap ≠ 0 ∧ l.bwCap ≤ l.portSpent.get port 0) →
              borrowToken s true port w.ctx = none → chargePort w va s = s)
          ∧ (chargePort w va s).mem = s.mem ∧ (chargePort w va s).cores = s.cores ∧ (chargePort w va s).hcs = s.hcs)
    ∧ (∀ (s s1 : State) (b : Nat) (h : HeldMessage) (rest : List HeldMessage) (l : Launch), (s.bench b).held = h :: rest →
        l = s.launch h.launch → l.stopped = false →
        s1 = s.setBench b { s.bench b with held := (s.bench b).held.filter fun x =>
          !(x.launch == h.launch && x.message.key == h.message.key) } →
        ((l.rank h.message.dest).st = rankInvalid → exec (.messageArrival b 0) s =
            .next (slotFreed (quarantine s1 h.launch h.message 2 none) h.launch h.message.dest))
          ∧ ((l.rank h.message.dest).st = rankTransit → exec (.messageArrival b 0) s =
              .next (holdFlight s b h.launch h.message.dest))
          ∧ ((l.rank h.message.dest).st = rankValid →
              (placeMessage s1 h.launch h.message = none → exec (.messageArrival b 0) s =
                .next (holdFlight s b h.launch h.message.dest))
              ∧ (∀ u, placeMessage s1 h.launch h.message = some u →
                  exec (.messageArrival b 0) s = .next (slotFreed u h.launch h.message.dest))))
    ∧ (∀ (l : Launch) (r : Nat) (ready : List Message), ready = (l.mailboxes.get r []).filter (fun m => undispatched m && !m.defer) →
        (∀ m, ready.find? (fun x => !x.ordinary) = some m → nextMessage l r = if taskOver l m then some m else none)
        ∧ ((∀ m ∈ ready, m.ordinary = true) → (rankHeld l r = true → nextMessage l r = none)
          ∧ (rankHeld l r = false → ∀ m rest, ready = m :: rest → nextMessage l r = if taskOver l m then some m else none)))

/-- R124, R130, R133, R141, R144, R299, R51; that WATCHDOG is held off while any strand of the task performs a context operation is
deduced from R51 (log 108). -/
def Obligations.TaskAndLaunchEnds : Prop :=
  (∀ (s : State) (k n : Nat) (x : Task), (s.launch k).tasks.find n = some x →
      ((x.live ≠ 0 ∨ taskStrands s k n ≠ [] ∨ taskEngineWork s x.bench k n = true) → exec (.taskEnd k n) s = .next s)
        ∧ (x.live = 0 → taskStrands s k n = [] → taskEngineWork s x.bench k n = false →
            ∀ (dropped : State → State), dropped = (fun v => v.setLaunch k { v.launch k with tasks := (v.launch k).tasks.drop n }) →
            (x.fate ≠ .halted → x.fate ≠ .failed →
              exec (.taskEnd k n) s = .next (slotFreed (snapEnded (dropped s) k x.snapshot) k x.rank))
            ∧ (∀ m, (x.fate = .halted ∧ x.descriptor = none) ∨ x.fate = .failed → (s.launch k).boxMessage x.rank n = some m →
              exec (.taskEnd k n) s = .next (slotFreed (snapEnded (dropped
                (freeBody (dropMessage s k x.rank n) x.bench m)) k x.snapshot) k x.rank))))
    ∧ (∀ (s s1 s2 : State) (k : Nat) (u : Unread) (d : Descriptor) (bs : List Byte), (s.launch k).stopped = false →
        (s.launch k).unread = [u] → u.record = none → (s.launch k).descriptors[u.task]? = some d → 2 ≤ d.kind →
        s1 = s.setLaunch k { s.launch k with unread := [] } → deviceRead s1 (s.launch k).ctx d.control 8 = .ok bs s2 →
        exec (.controlNodeEvaluation k) s = .next (evaluateNode s2 k u.task d (byteWord bs 0)))
    ∧ (∀ (s : State) (k n : Nat) (d : Descriptor) (w : Word), d.kind ≠ 3 →
        evaluateNode s k n d w = decrementAll
          (s.setLaunch k { s.launch k with deps := (s.launch k).deps.put n d.deps }) k
          (d.arms.getD (if d.kind = 4 then min w.toNat (d.armCount - 1) else if w = 0 then 1 else 0) []))
    ∧ (∀ (s : State) (t : Strand) (f : Focus), s.strand = some t →
        ((t.clocks < (s.launch t.launch).budget ∨ (taskStrands s t.launch t.message.key).any (inCtxOp s) = true) →
            exec .watchdog s = .next s)
          ∧ ((s.launch t.launch).budget ≤ t.clocks → (taskStrands s t.launch t.message.key).any (inCtxOp s) = false →
              lowestStrand s t.launch t.message.key = some f → exec .watchdog s = .next (countEvent
                (abortTask s { first := f, info := { cause := .watchdog }, expire := true }) t.launch f.bench 9 1))
          ∧ (gangStuck s s.cur = false → exec .gangDeadlock s = .next s)
          ∧ (∀ live, taskStrands s t.launch t.message.key = f :: live → gangStuck s s.cur = true →
              (∀ g ∈ f :: live, ∃ x, s.strandAt g = some x ∧ 256 ≤ x.gangWait) →
              exec .gangDeadlock s = .next (abortTask s
                { first := f, info := { cause := .gangDeadlock }, others := .gangDeadlock, expire := true })))
    ∧ (∀ (s : State) (k : Nat) (l : Launch), s.launches.find k = some l →
        ((l.stopped = true ∨ launchDone s k = false) → exec (.launchComplete k) s = .next s)
          ∧ (l.stopped = false → launchDone s k = true → ∃ u, exec (.launchComplete k) s = .next u
              ∧ u = tellIssuer (idleIfDone (releaseLaunch s k) l.ctx) l (launchFailed l)
              ∧ (l.issuer = .nobody → u.launches.find k = none)))

/-- R58, R67, R71, R112, R154, R159 to R162; that a selection leaves the state as it is until the range-lock tables take the ranges of
the fill and its victim is the model's choice (log 46). -/
def Obligations.DrawerAndController : Prop :=
  (∀ (s : State) (k region : Nat) (l : Launch) (g : Region) (b : Nat × Block), l = s.launch k → l.regions[region]? = some g →
      ∀ may, may = !(l.stopped || startsNothing s l.ctx || fillRecordHeld s l) →
      ∀ pick, pick = selectQueue (if g.thr = 0 then 8 else g.thr) ((regionBlocks l region).filter fun b =>
        !b.2.queue.isEmpty && b.2.heldOut.isNone) →
      ∀ (free : List (Nat × Span) → Bool), free = (fun wants => tablesFree s wants && !registersLater s none none wants) →
      ∀ fill, fill = (if b.2.leaving then [] else blockWants l (region, b.1) true) →
      ((may = false ∨ pick = none) → exec (.fetchSelection k region) s = .next s)
        ∧ (may = true → pick = some b → framesUsed l region < g.frames →
            exec (.fetchSelection k region) s = .next (if free fill then openFill s k region b.1 none else s))
        ∧ (may = true → pick = some b → g.frames ≤ framesUsed l region →
            (selectVictim (regionBlocks l region) = none → exec (.fetchSelection k region) s = .next (dropNewestHolds s k region))
            ∧ (∀ v w, selectVictim (regionBlocks l region) = some v → w = blockWants l (region, v.1) false →
                exec (.fetchSelection k region) s = .next (if free (fill ++ w) then openFill
                  ((addLocks s w (.evict k region v.1) k noTask).changeBlock k (region, v.1) fun x =>
                    { x with st := .evicting, leaving := true }) k region b.1 (some v.1) else s))))
    ∧ (∀ (threshold : Nat) (cands : List (Nat × Block)) (b : Nat × Block), selectQueue threshold cands = some b →
        b ∈ cands
        ∧ ((∃ x ∈ cands, threshold ≤ x.2.age) → threshold ≤ b.2.age ∧ ∀ x ∈ cands, threshold ≤ x.2.age → x.2.age ≤ b.2.age)
        ∧ ((∀ x ∈ cands, x.2.age < threshold) → ∀ x ∈ cands, x.2.queue.length ≤ b.2.queue.length))
    ∧ (∀ (bs : List (Nat × Block)) (v : Nat × Block), selectVictim bs = some v →
        v ∈ bs ∧ v.2.st = .resident ∧ v.2.snap = 0 ∧ v.2.hold = 0
        ∧ ∀ x ∈ bs, x.2.st = .resident → x.2.snap = 0 → x.2.hold = 0 → v.2.since ≤ x.2.since)
    ∧ (∀ (s : State) (k region block : Nat) (b : Block), b = (s.launch k).block (region, block) →
        ((b.st ≠ .filling ∨ b.waitsFor ≠ none ∨ b.leaving = true) →
            exec (.fillComplete k region block) s = .next s ∧ exec (.fillFault k region block) s = .next s)
          ∧ (b.st = .filling → b.waitsFor = none → b.leaving = false →
              (∀ ls u, fillLines s (s.launch k).ctx (blockLines (s.launch k) (region, block)) = .ok ls u → ∀ s1,
                  s1 = unlockAll (fillFrame s ls) k (.fill k region block) →
                  exec (.fillFault k region block) s = .next s
                  ∧ exec (.fillComplete k region block) s = .next (releaseSnapshot (s1.changeBlock k (region, block) fun x =>
                      { x with st := .resident, snapshot := [], since := s1.ticket, age := 0 }).nextTicket k region block b.snapshot))
              ∧ (∀ ti u r, fillLines s (s.launch k).ctx (blockLines (s.launch k) (region, block)) = .trap ti u →
                  r = postDeviceRecord s { ti with addr := some (BitVec.ofNat 64 (blockRange (s.launch k) (region, block)).1) }
                    (s.launch k).ctx { item := true } →
                  exec (.fillComplete k region block) s = .next s
                  ∧ exec (.fillFault k region block) s = .next ((unlockAll r.1 k (.fill k region block)).changeBlock k (region, block) fun x =>
                      { x with st := .waiting, queue := x.snapshot ++ x.queue, snapshot := [], snap := 0, heldOut := some r.2 })))
          ∧ (b.leaving = false ∨ frameWaits s k (region, block) = true → exec (.evictionDone k region block) s = .next s)
          ∧ (b.leaving = true → frameWaits s k (region, block) = false → ∃ u v x, exec (.evictionDone k region block) s = .next u
              ∧ x = unlockAll (evictFrame s k (region, block)) k (.evict k region block)
              ∧ v = (if ((x.launch k).block (region, block)).st = .filling
                  then addLocks x (blockWants (x.launch k) (region, block) true) (.fill k region block) k noTask else x).changeBlock
                k (region, block) (fun y => { y with
                  leaving := false, st := if y.st ≠ .evicting then y.st else if y.queue.isEmpty then .absent else .waiting })
              ∧ u = v.setLaunch k { v.launch k with blocks := (v.launch k).blocks.mapAll fun n x =>
                  if n / 2 ^ 28 == region && x.waitsFor == some block then { x with waitsFor := none } else x }))
    ∧ (∀ (s : State) (ctx : Nat) (o : CtxOp) (c : Ctx),
        (killOp s ctx = none → exec (.killComplete ctx) s = .next s)
          ∧ (killOp s ctx = some o → exec (.killComplete ctx) s =
              .next (if !revoking s && s.ctl.ops.all (fun x => x.target != ctx || unwrittenItems s x.key == 0) then finishKill s o else s))
          ∧ (s.ctx ctx = some c → (c.st ≠ .stopping ∨ subtreeQuiet s ctx = false ∨ revoking s = true) → exec (.stopComplete ctx) s = .next s))
    ∧ (∀ (s : State) (line : Nat), (unscrubbed s.mem line = false → exec (.scrubLine line) s = .next s)
        ∧ (s.memoriesWf = true → unscrubbed s.mem line = true → ∃ u, exec (.scrubLine line) s = .next u
            ∧ (∀ a, cellRead u.mem.bytes a = if line * 256 ≤ a ∧ a < line * 256 + 256 then 0 else cellRead s.mem.bytes a)
            ∧ u.mem.llc = s.mem.llc ∧ u.launches = s.launches ∧ u.cores = s.cores ∧ u.benches = s.benches))

/-- R28, R29, R31, R32, R34, R35, R40, R41, R66; that a host-link reset clears EN alone, and that a function-level reset keeps what is
held on chip and takes the records delivered as consumed, are the model's choices (log 62). -/
def Obligations.HostRegisters : Prop :=
  (∀ (s : State) (fn : Nat) (f : HostFn), f = s.fn fn → fn ≤ 192 → s.pkg.hostUp = true →
      (∀ slot word v, slot < 64 → word < 8 → exec (.commandSlotWrite fn slot word v) s = .next (s.setFn fn
          (if f.busy.getLsbD slot then { f with status := f.status ||| 4 } else { f with slots := f.slots.put (slot * 8 + word) v })))
        ∧ (∀ slot, slot < 64 → s.pkg.published = true →
            exec (.registerWrite fn 0x100 8 (BitVec.ofNat 64 slot)) s = .next (s.setFn fn
              (if f.busy.getLsbD slot then { f with status := f.status ||| 4 }
               else { f with
                 busy := f.busy ||| BitVec.ofNat 64 (2 ^ slot)
                 accepted := f.accepted ++ [{ slot := slot, words := (List.range 8).map fun i => f.slots.get (slot * 8 + i) 0 }] })))
        ∧ (∀ v, exec (.registerWrite fn 0x8 8 v) s = .next (s.setFn fn { f with status := f.status &&& ~~~ v.setWidth 3 }))
        ∧ (∀ off size v, ¬ (size = 8 ∧ off % 8 = 0) → ¬ (size = 4 ∧ off % 4 = 0) → exec (.registerWrite fn off size v) s = .next s)
        ∧ (∀ k v, ∃ g : HostFn, exec (.ringControlWrite fn k v) s = .next (s.setFn fn g) ∧ g = f.setRing k (g.ring k)
            ∧ ((f.ring k).en = false → v.getLsbD 63 = true → enableLegal s fn f k (field v 0 5) = true →
                (g.ring k).en = true ∧ (g.ring k).log2n = field v 0 5 ∧ (g.ring k).seq = 1)
            ∧ ((f.ring k).en = false → v.getLsbD 63 = true → enableLegal s fn f k (field v 0 5) = false →
                (g.ring k).en = false ∧ (g.ring k).err = true)
            ∧ (v.getLsbD 63 = false → (g.ring k).en = false))
        ∧ (∀ (v : Word) (n : Nat) (r : Ring), r = f.cpl → n = (v.setWidth 32 - r.cons).toNat →
            (n ≤ (r.prod - r.cons).toNat → exec (.cplConsWrite fn v) s = .next (rearm (s.setFn fn
              { f with cpl := { r with cons := v.setWidth 32 }, cplKinds := f.cplKinds.drop n }) fn .cpl))
            ∧ ((r.prod - r.cons).toNat < n → exec (.cplConsWrite fn v) s = .next (s.setFn fn { f with cpl := { r with err := true } })))
        ∧ (∀ (v : Word) (n : Nat) (r : Ring), r = f.qr → n = (v.setWidth 32 - r.cons).toNat →
            (n ≤ (r.prod - r.cons).toNat → exec (.qrConsWrite fn v) s = .next (rearm (s.setFn fn
              { f with qr := { r with cons := v.setWidth 32 }, bodies := f.bodies.drop n }) fn .quar))
            ∧ ((r.prod - r.cons).toNat < n → exec (.qrConsWrite fn v) s = .next (s.setFn fn { f with qr := { r with err := true } })))
        ∧ (∀ (v : Word) (n : Nat) (r : Ring), r = f.fr → n = (v.setWidth 32 - r.cons).toNat →
            (n ≤ (r.prod - r.cons).toNat → exec (.frConsWrite fn v) s = .next ((f.frKeys.take n).foldl consumeRecord
              (rearm (s.setFn fn { f with fr := { r with cons := v.setWidth 32 }, frKeys := f.frKeys.drop n }) fn .fault)))
            ∧ ((r.prod - r.cons).toNat < n → exec (.frConsWrite fn v) s = .next (s.setFn fn { f with fr := { r with err := true } })))
        ∧ (fn ≠ 0 → ∃ u, exec (.vfFunctionLevelReset fn) s = .next u
            ∧ u = f.frKeys.foldl consumeRecord (discardCompletions (s.setFn fn (clearedFn f)) fn)
            ∧ (clearedFn f).slots = [] ∧ (clearedFn f).cpl = {} ∧ (clearedFn f).fr = {} ∧ (clearedFn f).qr = {}
            ∧ (clearedFn f).heldFr = f.heldFr ∧ (clearedFn f).heldQr = f.heldQr))
    ∧ (∀ s, exec (.vfFunctionLevelReset 0) s = .next s)
    ∧ (∀ (s : State) (fn : Nat) (f : HostFn), f = s.fn fn →
        (∀ c rest, f.heldCpl = c :: rest → exec (.heldCompletionWrite fn) s =
            .next (if f.cpl.room then writeCompletion (s.setFn fn { f with heldCpl := rest }) fn c else s))
          ∧ (∀ r rest, f.heldFr = r :: rest → exec (.faultRecordDelivery fn) s =
              .next (if f.fr.room then writeRecord (s.setFn fn { f with heldFr := rest }) fn r else s))
          ∧ (∀ q rest, f.heldQr = q :: rest →
              (f.qr.room = false → exec (.quarantineItemWrite fn) s = .next s)
              ∧ (∀ u, tryWriteQuar (s.setFn fn { f with heldQr := rest }) fn q = some u →
                  exec (.quarantineItemWrite fn) s = .next (settleRevokes u))))
    ∧ (∀ s : State, ∃ u, exec .hostLinkReset s = .next u ∧ u.hostMem = s.hostMem ∧ u.launches = s.launches
        ∧ ∀ (fn : Nat) (k : RingKind), (u.fn fn).ring k = { (s.fn fn).ring k with en := false })

/-- R42 to R46; that MAINON when the main domain is on does nothing (log 63), that commands in recovery answer BAD, that a changing
command is in execution until a later turn, and in which order the checks come (log 67), that the counters accepted are kept for each key
(log 85), and the layout of a report (log 112), are the model's choices. -/
def Obligations.ManagementCommands : Prop :=
  ∀ (s : State) (f : MgmtFrame) (n : Nat) (t : BootTest), s.mgc.standby = true → n = f.body.length →
    ∀ (served : Nat → Prop), served = (fun code => s.mgc.boot = .recovery → code ∈ [1, 9, 13, 14, 15]) →
    ∀ (asks acts : List ((MgmtFrame → Instr) × Nat × (Nat → Prop))),
      asks = [(.ident, 1, (· = 0)), (.live, 2, (· = 0)), (.sensors, 3, (· = 0)), (.triplog, 4, (· = 0)), (.pwrget, 5, (· = 0)),
        (.attest, 12, (· = 32)), (.evlog, 15, (· = 4))] →
      acts = [(.pwrset, 6, (· = 2)), ((.mainon · t), 7, (· = 0)), (.mainoff, 8, (· = 0)), ((.reset · t), 9, (· = 0)),
        (.mgmtLinkup, 10, (· = 1)), (.mgmtLinkdown, 11, (· = 1)), (.fwstage, 13, fun k => 5 ≤ k ∧ k ≤ 4100), (.fwactivate, 14, (· = 4))] →
    (n = 0 →
        (served 1 → exec (.ident f) s = .next (respond s 1 f 0 (fixed 16 Config.partNumber ++ fixed 16 Config.serialNumber
            ++ wordsToBytes [(Config.imageVersions (bootImage s.mgc)).1, (Config.imageVersions (bootImage s.mgc)).2] ++ [Config.fusedSecurity])))
        ∧ (served 2 → exec (.live f) s = .next (respond s 2 f 0 (wordsToBytes ((List.range 512).map fun i => pageWordNow s (8 * i)))))
        ∧ (served 3 → ∃ bs, bs.length = 28 ∧ exec (.sensors f) s = .next (respond (spendFresh s 12) 3 f 0 bs))
        ∧ (served 4 → exec (.triplog f) s = .next (respond s 4 f 0 (fixed 256 (s.mgc.trips.flatMap tripBytes))))
        ∧ (served 5 → exec (.pwrget f) s = .next (respond s 5 f 0 (natToBytes s.mgc.powerCap 2))))
    ∧ (n = 32 → served 12 →
        (s.mgc.hssUsed < 2 ^ 30 → ∀ u r, u = s.setMgc { s.mgc with reports := s.mgc.reports + 1, hssUsed := s.mgc.hssUsed + 1 } →
          r = Config.signedReport (reportContents u f.body) → exec (.attest f) s = .next (respond u 12 f 0 (natToBytes r.length 4 ++ r)))
        ∧ (2 ^ 30 ≤ s.mgc.hssUsed → exec (.attest f) s = .next (respond s 12 f 4 [])))
    ∧ (n = 4 → served 15 → ∀ entries, entries = ((s.mgc.log.zip (List.range s.mgc.log.length)).drop (bytesToNat f.body)).take 4000 →
        exec (.evlog f) s = .next (respond s 15 f 0 (natToBytes entries.length 2 ++ entries.flatMap logBytes)))
    ∧ (f.ethernet = false → s.mgc.executing = none →
      (n = 0 →
        (served 7 → exec (.mainon f t) s = .next (answerAtEnd (if s.mgc.mainOn then s else bootMain s t) 7 f 0 []))
        ∧ (served 8 → exec (.mainoff f) s = .next (answerAtEnd (switchOff s) 8 f 0 []))
        ∧ exec (.reset f t) s = .next (answerAtEnd (resetDevice s t) 9 f 0 []))
      ∧ (n = 2 → served 6 → ∀ w, w = bytesToNat f.body →
          (600 ≤ w → w ≤ 2200 → (w - 600) % 25 = 0 →
            exec (.pwrset f) s = .next (answerAtEnd (s.setMgc { s.mgc with powerCap := w }) 6 f 0 []))
          ∧ (w < 600 ∨ 2200 < w ∨ (w - 600) % 25 ≠ 0 → exec (.pwrset f) s = .next (answerAtEnd s 6 f 1 [])))
      ∧ (n = 1 → served 10 → ∀ k, k = bytesToNat f.body →
          (k < 16 → exec (.mgmtLinkup f) s = .next (answerAtEnd (if s.mgc.mainOn then bringUp s k else s) 10 f 0 [])
            ∧ exec (.mgmtLinkdown f) s = .next (answerAtEnd (if s.mgc.mainOn then dropLink s k else s) 11 f 0 []))
          ∧ (16 ≤ k → exec (.mgmtLinkup f) s = .next (answerAtEnd s 10 f 1 [])
            ∧ exec (.mgmtLinkdown f) s = .next (answerAtEnd s 11 f 1 [])))
      ∧ (5 ≤ n → n ≤ 4100 → ∀ off, off = bytesToNat (f.body.take 4) →
          (off % 4096 = 0 → exec (.fwstage f) s = .next (answerAtEnd
            (s.setMgc { s.mgc with staging := cellWrites s.mgc.staging off (f.body.drop 4) }) 13 f 0 []))
          ∧ (off % 4096 ≠ 0 → exec (.fwstage f) s = .next (answerAtEnd s 13 f 1 [])))
      ∧ (n = 4 → ∀ image, image = cellBytes s.mgc.staging 0 (bytesToNat f.body) → exec (.fwactivate f) s = .next
          (if imageVerifies image then answerAtEnd (s.setMgc { s.mgc with marked := some image }) 14 f 0 [] else answerAtEnd s 14 f 3 [])))
    ∧ (∀ p ∈ asks, (¬ served p.2.1 ∨ ¬ p.2.2 n) → exec (p.1 f) s = .next (respond s p.2.1 f 1 []))
    ∧ (∀ p ∈ acts, (¬ served p.2.1 → exec (p.1 f) s = .next (respond s p.2.1 f 1 []))
        ∧ (served p.2.1 →
          (f.ethernet = false → s.mgc.executing = none → ¬ p.2.2 n → exec (p.1 f) s = .next (respond s p.2.1 f 1 []))
          ∧ (f.ethernet = true → authentic s p.2.1 f = false → exec (p.1 f) s = .next (respond s p.2.1 f 3 []))
          ∧ ((f.ethernet = true → authentic s p.2.1 f = true) → s.mgc.executing ≠ none → exec (p.1 f) s = .next (respond s p.2.1 f 2 []))
          ∧ (∀ k, f.ethernet = true → authentic s p.2.1 f = true → s.mgc.key = some k → s.mgc.executing = none →
              exec (p.1 f) s = exec (p.1 { f with ethernet := false, body := f.body.drop 8 }) (s.setMgc { s.mgc with
                counters := (k, BitVec.ofNat 64 (bytesToNat (f.body.take 8))) :: s.mgc.counters.filter fun e => e.1 != k }))))
    ∧ (∀ code : BitVec 8, (code = 0 ∨ 15 < code.toNat) → exec (.mgmtBadCommand code f) s = .next (respond s code.toNat f 1 []))
    ∧ (∀ code, authentic s code f = true ↔ ∃ k tag, s.mgc.key = some k ∧ f.tag = some tag ∧ 8 ≤ n
        ∧ tag = hmac384 k (natToBytes (n % 2 ^ 16 + 2 ^ 16 * f.seq.toNat + 2 ^ 24 * code) 4 ++ f.body)
        ∧ ∀ c, (s.mgc.counters.find? fun e => e.1 == k) = some (k, c) → c.toNat < bytesToNat (f.body.take 8))
    ∧ (∀ r rest, s.agenda = .managementEnd :: rest → s.mgc.executing = some r →
        step s = .next ((s.setAgenda rest).setMgc { s.mgc with executing := none, responses := r :: s.mgc.responses }))

/-- R9, R10, R16, R25, R26, R42, R43, R51, R85, R94, R95, R145; what outlives the removal of input power is the model's choice (log 67,
and logs 78 and 79). That a bench fence takes effect only once no strand of the bench performs a context operation is deduced from R51
(log 108), and that it waits for a release in the form .nr which waits at the slice is the model's reading of R85 and R103 (log 100). -/
def Obligations.PowerAndErrors : Prop :=
  (∀ (s : State) (t : BootTest), s.mgc.standby = false → ∃ u, exec (.standbyPowerOn t) s = .next u ∧ u.mgc.standby = true
      ∧ u.mgc.inputPower = true ∧ (u.mgc.mainOn = true ↔ u.mgc.boot = .operational)
      ∧ u.mgc.boot = (if imageVerifies (bootImage s.mgc)
          && ((List.range 3).map fun i => Config.microcode i (bootImage s.mgc)).all imageVerifies then .operational else .recovery)
      ∧ (u.mgc.mainOn = true → u.pkg.published = true ∧ u.pkg.columns = buildMesh t.badBenches ∧ u.launches = [] ∧ u.mem.bytes = []))
    ∧ (∀ (s : State) (t : BootTest), s.mgc.standby = true → exec (.standbyPowerOn t) s = .next s)
    ∧ (∀ (bad : List (Nat × Nat)) (c : Column), c ∈ buildMesh bad → c.rows.length = 15 ∧ ∀ y ∈ c.rows, y < 16 ∧ (c.phys, y) ∉ bad)
    ∧ (∀ (s : State) (die : Nat) (reading mv : BitVec 16), s.mgc.mainOn = true →
        (920 ≤ reading.toInt → die < 10 → ∃ u, exec (.thermalTrip die reading) s = .next u ∧ u.mgc.mainOn = false ∧ u.launches = []
            ∧ ∃ r, u.mgc.trips.getLast? = some r ∧ r.cause = 1 ∧ r.die = BitVec.ofNat 8 die ∧ r.reading = reading)
          ∧ (reading.toInt < 920 → exec (.thermalTrip die reading) s = .next s)
          ∧ (mv.toNat < 40000 → ∃ u, exec (.undervoltageTrip mv) s = .next u ∧ u.mgc.mainOn = false
              ∧ ∃ r, u.mgc.trips.getLast? = some r ∧ r.cause = 2 ∧ r.die = 0xFF ∧ r.reading = mv)
          ∧ exec .thermalThrottle s = .next (s.setMgc { s.mgc with throttled := true })
          ∧ exec .issueGapsEnd s = .next (s.setMgc { s.mgc with throttled := false }))
    ∧ (∀ s : State, ∃ u, exec .inputPowerRemoved s = .next u ∧ u.mgc = {
      image := s.mgc.image, reports := s.mgc.reports, hssUsed := s.mgc.hssUsed, counters := s.mgc.counters } ∧ u.hcs = [] ∧ u.mem = {})
    ∧ (∀ (s : State) (b : Nat), b = s.cur.bench →
        ((s.mgc.mainOn = false ∨ benchLive s.pkg b = false ∨ operating s b = true ∨ sliceWaits s b = true) → exec .benchFence s = .next s)
          ∧ (s.mgc.mainOn = true → benchLive s.pkg b = true → operating s b = false → sliceWaits s b = false → launchOn s b = none → ∃ u, exec .benchFence s = .next u
              ∧ (∀ n, n ∈ u.pkg.fenced ↔ n = b ∨ n ∈ s.pkg.fenced) ∧ u.pkg.retired = s.pkg.retired ++ [b]))
    ∧ (∀ (s : State) (port : Fin 2), s.mgc.mainOn = true →
        (0 < (if port = 0 then s.pkg.cxl0 else s.pkg.cxl1)) → (if port = 0 then s.pkg.cxl0Down else s.pkg.cxl1Down) = false →
        ∃ u, exec (.cxlDeviceLoss port) s = .next u ∧ (if port = 0 then u.pkg.cxl0Down else u.pkg.cxl1Down) = true
          ∧ exec (.cxlDeviceLoss port) u = .next u)
    ∧ (∀ (s : State) (b seat off pa n : Nat),
        (off < Config.spadBytes → ∃ u, exec (.uncorrectableError (.scratchpad b seat off)) s = .next u
            ∧ (n ∈ (u.core (b * 8 + seat)).spadPoison ↔ n = off / 8 ∨ n ∈ (s.core (b * 8 + seat)).spadPoison))
          ∧ (off < Config.benchMemBytes → ∃ u, exec (.uncorrectableError (.benchMemory b off)) s = .next u
              ∧ (n ∈ (u.bench b).poison ↔ n = off / 8 ∨ n ∈ (s.bench b).poison))
          ∧ (unscrubbed s.mem (pa / 256) = false → ∃ u, exec (.uncorrectableError (.memory pa)) s = .next u
              ∧ (n ∈ u.mem.poison ↔ n = pa / 32 ∨ n ∈ s.mem.poison))
          ∧ exec (.uncorrectableError (.interface b)) s = .next (s.setBench b { s.bench b with badTable := true })
          ∧ exec .softErrorCorrected s = .next (s.setCurBench { s.curBench with softErrors := s.curBench.softErrors + 1 }))

/-- R18 to R22; that the answer to a delivered flit is an idle flit at once is the model's choice (log 57), and so is what a lane's
training finds (log 19). -/
def Obligations.LinkProtocol : Prop :=
  (∀ (type channel : Nat) (seq ack : BitVec 12) (returns : Nat) (payload : BitVec 448) (x : BitVec 512),
      x = mkFlit type channel seq returns ack payload → type < 4 → channel < 4 → returns < 16 →
      flitType x = type ∧ flitChannel x = channel ∧ flitSeq x = seq ∧ flitAck x = ack ∧ flitReturn x = returns
        ∧ flitPayload x = payload
        ∧ ((returns = 15 ∨ returns < 4) → (if type = 0 then channel = 0 else channelAllows channel type = true) → flitGood x = true))
    ∧ (∀ (s : State) (n : Nat) (l : TrobinLink) (x : BitVec 512) (seq : BitVec 12), l = s.link n → l.up = true → l.retraining = false →
        (s.mgc.mainOn = true → (flitGood x = false ∨ flitSeq x ≠ l.rxSeq) →
            exec (.flitReceived n x) s = .next (s.setLink n { l with
              requests := l.rxSeq :: l.requests, asked := l.asked + 1, retraining := decide (8 ≤ l.asked + 1) }))
          ∧ (s.mgc.mainOn = true → flitGood x = true → flitSeq x = l.rxSeq → flitType x ≠ 0 → l.outbox = [] →
              ∃ u, exec (.flitReceived n x) s = .next u ∧ (∀ k, k ≠ n → u.link k = s.link k)
                ∧ (u.link n).delivered = (flitChannel x, flitPayload x) :: l.delivered ∧ (u.link n).rxSeq = l.rxSeq + 1
                ∧ (u.link n).sent = mkFlit 0 0 l.txSeq (flitChannel x) l.rxSeq 0 :: l.sent)
          ∧ (∀ before after e, l.replay = before ++ (seq, e) :: after → (∀ p ∈ before, p.1 ≠ seq) →
              (l.retrySeq = seq ∧ 7 ≤ l.retries → exec (.retryRequest n seq) s =
                .next (s.setLink n { l with retrySeq := seq, retries := l.retries + 1, retraining := true }))
              ∧ (l.retrySeq ≠ seq ∨ l.retries < 7 → ∃ u, exec (.retryRequest n seq) s = .next u ∧ (u.link n).retraining = false
                ∧ (u.link n).sent = (e :: after.map (·.2)).reverse ++ l.sent ∧ (u.link n).replay = l.replay))
          ∧ exec (.linkDown n) s = .next s)
    ∧ (∀ (s : State) (n : Nat) (l : TrobinLink) (passing : List Nat), l = s.link n → l.up = true → l.retraining = true → l.outbox = [] →
        ∀ width, width = trainedWidth (passing.filter fun k => decide (k < s.pkg.linkLanes.getD n 0)) →
        (∀ w, width = some w → ∃ u, exec (.linkRetrain n passing) s = .next u ∧ (u.link n).lanes = w
            ∧ (u.link n).retraining = false ∧ (u.link n).sent = (l.replay.map (·.2)).reverse ++ l.sent
            ∧ (u.link n).credits = l.credits ∧ (u.link n).txSeq = l.txSeq ∧ (u.link n).rxSeq = l.rxSeq)
          ∧ (width = none → exec (.linkRetrain n passing) s = .next s)
          ∧ (∃ u, exec (.linkDown n) s = .next u ∧ (u.link n).up = false ∧ (u.link n).lanes = 0 ∧ (u.link n).replay = []
              ∧ (∀ k, k ≠ n → u.link k = s.link k) ∧ u.pkg.change = s.pkg.change + 1))

/-- R231, R234, R236, R237, R246, R247: no bit of an encoding is dropped. -/
def Obligations.EncodeThenDecode : Prop :=
  ∀ (i : Instr) (n w : Nat), i.wf = true → encode i = some (n, w) → decodeTableWord n w = some i

/-- R231, R233, R238, R246, R247: the other direction, so that no two words are read as one instruction. -/
def Obligations.DecodeThenEncode : Prop :=
  ∀ (n w : Nat) (i : Instr), (n = 32 ∨ n = 96) → w < 2 ^ n → decodeTableWord n w = some i → i ≠ .illegal →
    encode i = some (n, w) ∧ i.wf = true

/-- R231 to R237, R246, R247, on words composed field by field. -/
def Obligations.DecodedWords : Prop :=
  decodeTableWord 96 0x010010203000000000000000 = some (.add (slot3 (.x 1) (.x 2) (.x 3)))
    ∧ decodeTableWord 96 0x24061020000600000000000A = some (.cmpi { slot3 (.k 1) (.x 2) (.x 0) with m := 6, imm := 10 })
    ∧ decodeTableWord 96 0x580040500000400000000010 = some (.ld { slot3 (.x 4) (.x 5) (.x 0) with ty := .i64, imm := 16 })
    ∧ decodeTableWord 96 0x410000000000000000000009 = some (.br { slot3 (.x 0) (.x 0) (.x 0) with imm := 9 })
    ∧ decodeTableWord 96 0xB00828384000B00000000000 = some (.vadd { slot3 (.v 2) (.v 3) (.v 4) with ty := .f32 })
    ∧ decodeTableWord 96 0 = some .illegal
    ∧ decodeTableWord 32 0x2123FFFF = some (.wadd 1 2 3 0xFFFF)

/-- The canonical form of the byte memories of R84, R88, R89 and R103: the model's invariant (log 9), which LocalStores and
DrawerAndController take as a premise. -/
def Obligations.MemoriesStayCanonical : Prop :=
  ∀ s s' : State, s.memoriesWf = true → step s = .next s' → s'.memoriesWf = true

/-- R26, R43, R45, R46: a rule about the whole machine. -/
def Obligations.PowerStaysSafe : Prop :=
  ∀ s s' : State, PowerSafe s → step s = .next s' → PowerSafe s'

/-- R43, with the model's choices of logs 2 and 6. -/
def Obligations.ResetState : Prop :=
  State.reset.memoriesWf = true ∧ PowerSafe State.reset ∧ State.reset.mgc.mainOn = false ∧ State.reset.mgc.standby = false
    ∧ State.reset.mgc.boot = .off ∧ State.reset.mgc.powerCap = 2200 ∧ State.reset.mem.bytes = [] ∧ State.reset.launches = []
    ∧ State.reset.ctl.ctxs = [] ∧ (∀ f, State.reset.strandAt f = none) ∧ (∀ fn, State.reset.fn fn = {})
    ∧ step State.reset = .next State.reset
end

