-- ==== Sys2Proof/Laws/State.lean ====
section
/-! SUPPORT. One lemma for each field and each update of State. -/

namespace Sys2Proof.Machine

variable (s : State)

@[simp] theorem State.setCore_agenda (k : Nat) (c : Core) : (s.setCore k c).agenda = s.agenda := rfl
@[simp] theorem State.setCore_cur (k : Nat) (c : Core) : (s.setCore k c).cur = s.cur := rfl
@[simp] theorem State.setCore_issue (k : Nat) (c : Core) : (s.setCore k c).issue = s.issue := rfl
@[simp] theorem State.setCore_fresh (k : Nat) (c : Core) : (s.setCore k c).fresh = s.fresh := rfl
@[simp] theorem State.setCore_ticket (k : Nat) (c : Core) : (s.setCore k c).ticket = s.ticket := rfl
@[simp] theorem State.setCore_mgc (k : Nat) (c : Core) : (s.setCore k c).mgc = s.mgc := rfl
@[simp] theorem State.setCore_pkg (k : Nat) (c : Core) : (s.setCore k c).pkg = s.pkg := rfl
@[simp] theorem State.setCore_fns (k : Nat) (c : Core) : (s.setCore k c).fns = s.fns := rfl
@[simp] theorem State.setCore_hostMem (k : Nat) (c : Core) : (s.setCore k c).hostMem = s.hostMem := rfl
@[simp] theorem State.setCore_msix (k : Nat) (c : Core) : (s.setCore k c).msix = s.msix := rfl
@[simp] theorem State.setCore_ctl (k : Nat) (c : Core) : (s.setCore k c).ctl = s.ctl := rfl
@[simp] theorem State.setCore_mem (k : Nat) (c : Core) : (s.setCore k c).mem = s.mem := rfl
@[simp] theorem State.setCore_launches (k : Nat) (c : Core) : (s.setCore k c).launches = s.launches := rfl
@[simp] theorem State.setCore_flights (k : Nat) (c : Core) : (s.setCore k c).flights = s.flights := rfl
@[simp] theorem State.setCore_benches (k : Nat) (c : Core) : (s.setCore k c).benches = s.benches := rfl
@[simp] theorem State.setCore_cores (k : Nat) (c : Core) : (s.setCore k c).cores = s.cores.put k c := rfl
@[simp] theorem State.setCore_hcs (k : Nat) (c : Core) : (s.setCore k c).hcs = s.hcs := rfl
@[simp] theorem State.setCore_links (k : Nat) (c : Core) : (s.setCore k c).links = s.links := rfl

@[simp] theorem State.setBench_agenda (b : Nat) (x : Bench) : (s.setBench b x).agenda = s.agenda := rfl
@[simp] theorem State.setBench_cur (b : Nat) (x : Bench) : (s.setBench b x).cur = s.cur := rfl
@[simp] theorem State.setBench_issue (b : Nat) (x : Bench) : (s.setBench b x).issue = s.issue := rfl
@[simp] theorem State.setBench_fresh (b : Nat) (x : Bench) : (s.setBench b x).fresh = s.fresh := rfl
@[simp] theorem State.setBench_ticket (b : Nat) (x : Bench) : (s.setBench b x).ticket = s.ticket := rfl
@[simp] theorem State.setBench_mgc (b : Nat) (x : Bench) : (s.setBench b x).mgc = s.mgc := rfl
@[simp] theorem State.setBench_pkg (b : Nat) (x : Bench) : (s.setBench b x).pkg = s.pkg := rfl
@[simp] theorem State.setBench_fns (b : Nat) (x : Bench) : (s.setBench b x).fns = s.fns := rfl
@[simp] theorem State.setBench_hostMem (b : Nat) (x : Bench) : (s.setBench b x).hostMem = s.hostMem := rfl
@[simp] theorem State.setBench_msix (b : Nat) (x : Bench) : (s.setBench b x).msix = s.msix := rfl
@[simp] theorem State.setBench_ctl (b : Nat) (x : Bench) : (s.setBench b x).ctl = s.ctl := rfl
@[simp] theorem State.setBench_mem (b : Nat) (x : Bench) : (s.setBench b x).mem = s.mem := rfl
@[simp] theorem State.setBench_launches (b : Nat) (x : Bench) : (s.setBench b x).launches = s.launches := rfl
@[simp] theorem State.setBench_flights (b : Nat) (x : Bench) : (s.setBench b x).flights = s.flights := rfl
@[simp] theorem State.setBench_benches (b : Nat) (x : Bench) : (s.setBench b x).benches = s.benches.put b x := rfl
@[simp] theorem State.setBench_cores (b : Nat) (x : Bench) : (s.setBench b x).cores = s.cores := rfl
@[simp] theorem State.setBench_hcs (b : Nat) (x : Bench) : (s.setBench b x).hcs = s.hcs := rfl
@[simp] theorem State.setBench_links (b : Nat) (x : Bench) : (s.setBench b x).links = s.links := rfl

@[simp] theorem State.setHc_agenda (k : Nat) (h : Hc) : (s.setHc k h).agenda = s.agenda := rfl
@[simp] theorem State.setHc_cur (k : Nat) (h : Hc) : (s.setHc k h).cur = s.cur := rfl
@[simp] theorem State.setHc_issue (k : Nat) (h : Hc) : (s.setHc k h).issue = s.issue := rfl
@[simp] theorem State.setHc_fresh (k : Nat) (h : Hc) : (s.setHc k h).fresh = s.fresh := rfl
@[simp] theorem State.setHc_ticket (k : Nat) (h : Hc) : (s.setHc k h).ticket = s.ticket := rfl
@[simp] theorem State.setHc_mgc (k : Nat) (h : Hc) : (s.setHc k h).mgc = s.mgc := rfl
@[simp] theorem State.setHc_pkg (k : Nat) (h : Hc) : (s.setHc k h).pkg = s.pkg := rfl
@[simp] theorem State.setHc_fns (k : Nat) (h : Hc) : (s.setHc k h).fns = s.fns := rfl
@[simp] theorem State.setHc_hostMem (k : Nat) (h : Hc) : (s.setHc k h).hostMem = s.hostMem := rfl
@[simp] theorem State.setHc_msix (k : Nat) (h : Hc) : (s.setHc k h).msix = s.msix := rfl
@[simp] theorem State.setHc_ctl (k : Nat) (h : Hc) : (s.setHc k h).ctl = s.ctl := rfl
@[simp] theorem State.setHc_mem (k : Nat) (h : Hc) : (s.setHc k h).mem = s.mem := rfl
@[simp] theorem State.setHc_launches (k : Nat) (h : Hc) : (s.setHc k h).launches = s.launches := rfl
@[simp] theorem State.setHc_flights (k : Nat) (h : Hc) : (s.setHc k h).flights = s.flights := rfl
@[simp] theorem State.setHc_benches (k : Nat) (h : Hc) : (s.setHc k h).benches = s.benches := rfl
@[simp] theorem State.setHc_cores (k : Nat) (h : Hc) : (s.setHc k h).cores = s.cores := rfl
@[simp] theorem State.setHc_hcs (k : Nat) (h : Hc) : (s.setHc k h).hcs = s.hcs.put k h := rfl
@[simp] theorem State.setHc_links (k : Nat) (h : Hc) : (s.setHc k h).links = s.links := rfl

@[simp] theorem State.setLaunch_agenda (k : Nat) (l : Launch) : (s.setLaunch k l).agenda = s.agenda := rfl
@[simp] theorem State.setLaunch_cur (k : Nat) (l : Launch) : (s.setLaunch k l).cur = s.cur := rfl
@[simp] theorem State.setLaunch_issue (k : Nat) (l : Launch) : (s.setLaunch k l).issue = s.issue := rfl
@[simp] theorem State.setLaunch_fresh (k : Nat) (l : Launch) : (s.setLaunch k l).fresh = s.fresh := rfl
@[simp] theorem State.setLaunch_ticket (k : Nat) (l : Launch) : (s.setLaunch k l).ticket = s.ticket := rfl
@[simp] theorem State.setLaunch_mgc (k : Nat) (l : Launch) : (s.setLaunch k l).mgc = s.mgc := rfl
@[simp] theorem State.setLaunch_pkg (k : Nat) (l : Launch) : (s.setLaunch k l).pkg = s.pkg := rfl
@[simp] theorem State.setLaunch_fns (k : Nat) (l : Launch) : (s.setLaunch k l).fns = s.fns := rfl
@[simp] theorem State.setLaunch_hostMem (k : Nat) (l : Launch) : (s.setLaunch k l).hostMem = s.hostMem := rfl
@[simp] theorem State.setLaunch_msix (k : Nat) (l : Launch) : (s.setLaunch k l).msix = s.msix := rfl
@[simp] theorem State.setLaunch_ctl (k : Nat) (l : Launch) : (s.setLaunch k l).ctl = s.ctl := rfl
@[simp] theorem State.setLaunch_mem (k : Nat) (l : Launch) : (s.setLaunch k l).mem = s.mem := rfl
@[simp] theorem State.setLaunch_launches (k : Nat) (l : Launch) : (s.setLaunch k l).launches = if (s.launches.find k).isSome then s.launches.put k l else s.launches := rfl
@[simp] theorem State.setLaunch_flights (k : Nat) (l : Launch) : (s.setLaunch k l).flights = s.flights := rfl
@[simp] theorem State.setLaunch_benches (k : Nat) (l : Launch) : (s.setLaunch k l).benches = s.benches := rfl
@[simp] theorem State.setLaunch_cores (k : Nat) (l : Launch) : (s.setLaunch k l).cores = s.cores := rfl
@[simp] theorem State.setLaunch_hcs (k : Nat) (l : Launch) : (s.setLaunch k l).hcs = s.hcs := rfl
@[simp] theorem State.setLaunch_links (k : Nat) (l : Launch) : (s.setLaunch k l).links = s.links := rfl

@[simp] theorem State.setFn_agenda (k : Nat) (f : HostFn) : (s.setFn k f).agenda = s.agenda := rfl
@[simp] theorem State.setFn_cur (k : Nat) (f : HostFn) : (s.setFn k f).cur = s.cur := rfl
@[simp] theorem State.setFn_issue (k : Nat) (f : HostFn) : (s.setFn k f).issue = s.issue := rfl
@[simp] theorem State.setFn_fresh (k : Nat) (f : HostFn) : (s.setFn k f).fresh = s.fresh := rfl
@[simp] theorem State.setFn_ticket (k : Nat) (f : HostFn) : (s.setFn k f).ticket = s.ticket := rfl
@[simp] theorem State.setFn_mgc (k : Nat) (f : HostFn) : (s.setFn k f).mgc = s.mgc := rfl
@[simp] theorem State.setFn_pkg (k : Nat) (f : HostFn) : (s.setFn k f).pkg = s.pkg := rfl
@[simp] theorem State.setFn_fns (k : Nat) (f : HostFn) : (s.setFn k f).fns = s.fns.put k f := rfl
@[simp] theorem State.setFn_hostMem (k : Nat) (f : HostFn) : (s.setFn k f).hostMem = s.hostMem := rfl
@[simp] theorem State.setFn_msix (k : Nat) (f : HostFn) : (s.setFn k f).msix = s.msix := rfl
@[simp] theorem State.setFn_ctl (k : Nat) (f : HostFn) : (s.setFn k f).ctl = s.ctl := rfl
@[simp] theorem State.setFn_mem (k : Nat) (f : HostFn) : (s.setFn k f).mem = s.mem := rfl
@[simp] theorem State.setFn_launches (k : Nat) (f : HostFn) : (s.setFn k f).launches = s.launches := rfl
@[simp] theorem State.setFn_flights (k : Nat) (f : HostFn) : (s.setFn k f).flights = s.flights := rfl
@[simp] theorem State.setFn_benches (k : Nat) (f : HostFn) : (s.setFn k f).benches = s.benches := rfl
@[simp] theorem State.setFn_cores (k : Nat) (f : HostFn) : (s.setFn k f).cores = s.cores := rfl
@[simp] theorem State.setFn_hcs (k : Nat) (f : HostFn) : (s.setFn k f).hcs = s.hcs := rfl
@[simp] theorem State.setFn_links (k : Nat) (f : HostFn) : (s.setFn k f).links = s.links := rfl

@[simp] theorem State.setLink_agenda (k : Nat) (l : TrobinLink) : (s.setLink k l).agenda = s.agenda := rfl
@[simp] theorem State.setLink_cur (k : Nat) (l : TrobinLink) : (s.setLink k l).cur = s.cur := rfl
@[simp] theorem State.setLink_issue (k : Nat) (l : TrobinLink) : (s.setLink k l).issue = s.issue := rfl
@[simp] theorem State.setLink_fresh (k : Nat) (l : TrobinLink) : (s.setLink k l).fresh = s.fresh := rfl
@[simp] theorem State.setLink_ticket (k : Nat) (l : TrobinLink) : (s.setLink k l).ticket = s.ticket := rfl
@[simp] theorem State.setLink_mgc (k : Nat) (l : TrobinLink) : (s.setLink k l).mgc = s.mgc := rfl
@[simp] theorem State.setLink_pkg (k : Nat) (l : TrobinLink) : (s.setLink k l).pkg = s.pkg := rfl
@[simp] theorem State.setLink_fns (k : Nat) (l : TrobinLink) : (s.setLink k l).fns = s.fns := rfl
@[simp] theorem State.setLink_hostMem (k : Nat) (l : TrobinLink) : (s.setLink k l).hostMem = s.hostMem := rfl
@[simp] theorem State.setLink_msix (k : Nat) (l : TrobinLink) : (s.setLink k l).msix = s.msix := rfl
@[simp] theorem State.setLink_ctl (k : Nat) (l : TrobinLink) : (s.setLink k l).ctl = s.ctl := rfl
@[simp] theorem State.setLink_mem (k : Nat) (l : TrobinLink) : (s.setLink k l).mem = s.mem := rfl
@[simp] theorem State.setLink_launches (k : Nat) (l : TrobinLink) : (s.setLink k l).launches = s.launches := rfl
@[simp] theorem State.setLink_flights (k : Nat) (l : TrobinLink) : (s.setLink k l).flights = s.flights := rfl
@[simp] theorem State.setLink_benches (k : Nat) (l : TrobinLink) : (s.setLink k l).benches = s.benches := rfl
@[simp] theorem State.setLink_cores (k : Nat) (l : TrobinLink) : (s.setLink k l).cores = s.cores := rfl
@[simp] theorem State.setLink_hcs (k : Nat) (l : TrobinLink) : (s.setLink k l).hcs = s.hcs := rfl
@[simp] theorem State.setLink_links (k : Nat) (l : TrobinLink) : (s.setLink k l).links = s.links.put k l := rfl

@[simp] theorem State.setIssue_agenda (r : IssueResult) : (s.setIssue r).agenda = s.agenda := rfl
@[simp] theorem State.setIssue_cur (r : IssueResult) : (s.setIssue r).cur = s.cur := rfl
@[simp] theorem State.setIssue_issue (r : IssueResult) : (s.setIssue r).issue = r := rfl
@[simp] theorem State.setIssue_fresh (r : IssueResult) : (s.setIssue r).fresh = s.fresh := rfl
@[simp] theorem State.setIssue_ticket (r : IssueResult) : (s.setIssue r).ticket = s.ticket := rfl
@[simp] theorem State.setIssue_mgc (r : IssueResult) : (s.setIssue r).mgc = s.mgc := rfl
@[simp] theorem State.setIssue_pkg (r : IssueResult) : (s.setIssue r).pkg = s.pkg := rfl
@[simp] theorem State.setIssue_fns (r : IssueResult) : (s.setIssue r).fns = s.fns := rfl
@[simp] theorem State.setIssue_hostMem (r : IssueResult) : (s.setIssue r).hostMem = s.hostMem := rfl
@[simp] theorem State.setIssue_msix (r : IssueResult) : (s.setIssue r).msix = s.msix := rfl
@[simp] theorem State.setIssue_ctl (r : IssueResult) : (s.setIssue r).ctl = s.ctl := rfl
@[simp] theorem State.setIssue_mem (r : IssueResult) : (s.setIssue r).mem = s.mem := rfl
@[simp] theorem State.setIssue_launches (r : IssueResult) : (s.setIssue r).launches = s.launches := rfl
@[simp] theorem State.setIssue_flights (r : IssueResult) : (s.setIssue r).flights = s.flights := rfl
@[simp] theorem State.setIssue_benches (r : IssueResult) : (s.setIssue r).benches = s.benches := rfl
@[simp] theorem State.setIssue_cores (r : IssueResult) : (s.setIssue r).cores = s.cores := rfl
@[simp] theorem State.setIssue_hcs (r : IssueResult) : (s.setIssue r).hcs = s.hcs := rfl
@[simp] theorem State.setIssue_links (r : IssueResult) : (s.setIssue r).links = s.links := rfl

@[simp] theorem State.setMem_agenda (m : Memory) : (s.setMem m).agenda = s.agenda := rfl
@[simp] theorem State.setMem_cur (m : Memory) : (s.setMem m).cur = s.cur := rfl
@[simp] theorem State.setMem_issue (m : Memory) : (s.setMem m).issue = s.issue := rfl
@[simp] theorem State.setMem_fresh (m : Memory) : (s.setMem m).fresh = s.fresh := rfl
@[simp] theorem State.setMem_ticket (m : Memory) : (s.setMem m).ticket = s.ticket := rfl
@[simp] theorem State.setMem_mgc (m : Memory) : (s.setMem m).mgc = s.mgc := rfl
@[simp] theorem State.setMem_pkg (m : Memory) : (s.setMem m).pkg = s.pkg := rfl
@[simp] theorem State.setMem_fns (m : Memory) : (s.setMem m).fns = s.fns := rfl
@[simp] theorem State.setMem_hostMem (m : Memory) : (s.setMem m).hostMem = s.hostMem := rfl
@[simp] theorem State.setMem_msix (m : Memory) : (s.setMem m).msix = s.msix := rfl
@[simp] theorem State.setMem_ctl (m : Memory) : (s.setMem m).ctl = s.ctl := rfl
@[simp] theorem State.setMem_mem (m : Memory) : (s.setMem m).mem = m := rfl
@[simp] theorem State.setMem_launches (m : Memory) : (s.setMem m).launches = s.launches := rfl
@[simp] theorem State.setMem_flights (m : Memory) : (s.setMem m).flights = s.flights := rfl
@[simp] theorem State.setMem_benches (m : Memory) : (s.setMem m).benches = s.benches := rfl
@[simp] theorem State.setMem_cores (m : Memory) : (s.setMem m).cores = s.cores := rfl
@[simp] theorem State.setMem_hcs (m : Memory) : (s.setMem m).hcs = s.hcs := rfl
@[simp] theorem State.setMem_links (m : Memory) : (s.setMem m).links = s.links := rfl

@[simp] theorem State.setCtl_agenda (c : Controller) : (s.setCtl c).agenda = s.agenda := rfl
@[simp] theorem State.setCtl_cur (c : Controller) : (s.setCtl c).cur = s.cur := rfl
@[simp] theorem State.setCtl_issue (c : Controller) : (s.setCtl c).issue = s.issue := rfl
@[simp] theorem State.setCtl_fresh (c : Controller) : (s.setCtl c).fresh = s.fresh := rfl
@[simp] theorem State.setCtl_ticket (c : Controller) : (s.setCtl c).ticket = s.ticket := rfl
@[simp] theorem State.setCtl_mgc (c : Controller) : (s.setCtl c).mgc = s.mgc := rfl
@[simp] theorem State.setCtl_pkg (c : Controller) : (s.setCtl c).pkg = s.pkg := rfl
@[simp] theorem State.setCtl_fns (c : Controller) : (s.setCtl c).fns = s.fns := rfl
@[simp] theorem State.setCtl_hostMem (c : Controller) : (s.setCtl c).hostMem = s.hostMem := rfl
@[simp] theorem State.setCtl_msix (c : Controller) : (s.setCtl c).msix = s.msix := rfl
@[simp] theorem State.setCtl_ctl (c : Controller) : (s.setCtl c).ctl = c := rfl
@[simp] theorem State.setCtl_mem (c : Controller) : (s.setCtl c).mem = s.mem := rfl
@[simp] theorem State.setCtl_launches (c : Controller) : (s.setCtl c).launches = s.launches := rfl
@[simp] theorem State.setCtl_flights (c : Controller) : (s.setCtl c).flights = s.flights := rfl
@[simp] theorem State.setCtl_benches (c : Controller) : (s.setCtl c).benches = s.benches := rfl
@[simp] theorem State.setCtl_cores (c : Controller) : (s.setCtl c).cores = s.cores := rfl
@[simp] theorem State.setCtl_hcs (c : Controller) : (s.setCtl c).hcs = s.hcs := rfl
@[simp] theorem State.setCtl_links (c : Controller) : (s.setCtl c).links = s.links := rfl

@[simp] theorem State.setMgc_agenda (m : Mgc) : (s.setMgc m).agenda = s.agenda := rfl
@[simp] theorem State.setMgc_cur (m : Mgc) : (s.setMgc m).cur = s.cur := rfl
@[simp] theorem State.setMgc_issue (m : Mgc) : (s.setMgc m).issue = s.issue := rfl
@[simp] theorem State.setMgc_fresh (m : Mgc) : (s.setMgc m).fresh = s.fresh := rfl
@[simp] theorem State.setMgc_ticket (m : Mgc) : (s.setMgc m).ticket = s.ticket := rfl
@[simp] theorem State.setMgc_mgc (m : Mgc) : (s.setMgc m).mgc = m := rfl
@[simp] theorem State.setMgc_pkg (m : Mgc) : (s.setMgc m).pkg = s.pkg := rfl
@[simp] theorem State.setMgc_fns (m : Mgc) : (s.setMgc m).fns = s.fns := rfl
@[simp] theorem State.setMgc_hostMem (m : Mgc) : (s.setMgc m).hostMem = s.hostMem := rfl
@[simp] theorem State.setMgc_msix (m : Mgc) : (s.setMgc m).msix = s.msix := rfl
@[simp] theorem State.setMgc_ctl (m : Mgc) : (s.setMgc m).ctl = s.ctl := rfl
@[simp] theorem State.setMgc_mem (m : Mgc) : (s.setMgc m).mem = s.mem := rfl
@[simp] theorem State.setMgc_launches (m : Mgc) : (s.setMgc m).launches = s.launches := rfl
@[simp] theorem State.setMgc_flights (m : Mgc) : (s.setMgc m).flights = s.flights := rfl
@[simp] theorem State.setMgc_benches (m : Mgc) : (s.setMgc m).benches = s.benches := rfl
@[simp] theorem State.setMgc_cores (m : Mgc) : (s.setMgc m).cores = s.cores := rfl
@[simp] theorem State.setMgc_hcs (m : Mgc) : (s.setMgc m).hcs = s.hcs := rfl
@[simp] theorem State.setMgc_links (m : Mgc) : (s.setMgc m).links = s.links := rfl

@[simp] theorem State.setPkg_agenda (p : Package) : (s.setPkg p).agenda = s.agenda := rfl
@[simp] theorem State.setPkg_cur (p : Package) : (s.setPkg p).cur = s.cur := rfl
@[simp] theorem State.setPkg_issue (p : Package) : (s.setPkg p).issue = s.issue := rfl
@[simp] theorem State.setPkg_fresh (p : Package) : (s.setPkg p).fresh = s.fresh := rfl
@[simp] theorem State.setPkg_ticket (p : Package) : (s.setPkg p).ticket = s.ticket := rfl
@[simp] theorem State.setPkg_mgc (p : Package) : (s.setPkg p).mgc = s.mgc := rfl
@[simp] theorem State.setPkg_pkg (p : Package) : (s.setPkg p).pkg = p := rfl
@[simp] theorem State.setPkg_fns (p : Package) : (s.setPkg p).fns = s.fns := rfl
@[simp] theorem State.setPkg_hostMem (p : Package) : (s.setPkg p).hostMem = s.hostMem := rfl
@[simp] theorem State.setPkg_msix (p : Package) : (s.setPkg p).msix = s.msix := rfl
@[simp] theorem State.setPkg_ctl (p : Package) : (s.setPkg p).ctl = s.ctl := rfl
@[simp] theorem State.setPkg_mem (p : Package) : (s.setPkg p).mem = s.mem := rfl
@[simp] theorem State.setPkg_launches (p : Package) : (s.setPkg p).launches = s.launches := rfl
@[simp] theorem State.setPkg_flights (p : Package) : (s.setPkg p).flights = s.flights := rfl
@[simp] theorem State.setPkg_benches (p : Package) : (s.setPkg p).benches = s.benches := rfl
@[simp] theorem State.setPkg_cores (p : Package) : (s.setPkg p).cores = s.cores := rfl
@[simp] theorem State.setPkg_hcs (p : Package) : (s.setPkg p).hcs = s.hcs := rfl
@[simp] theorem State.setPkg_links (p : Package) : (s.setPkg p).links = s.links := rfl

@[simp] theorem State.setAgenda_agenda (a : List Turn) : (s.setAgenda a).agenda = a := rfl
@[simp] theorem State.setAgenda_cur (a : List Turn) : (s.setAgenda a).cur = s.cur := rfl
@[simp] theorem State.setAgenda_issue (a : List Turn) : (s.setAgenda a).issue = s.issue := rfl
@[simp] theorem State.setAgenda_fresh (a : List Turn) : (s.setAgenda a).fresh = s.fresh := rfl
@[simp] theorem State.setAgenda_ticket (a : List Turn) : (s.setAgenda a).ticket = s.ticket := rfl
@[simp] theorem State.setAgenda_mgc (a : List Turn) : (s.setAgenda a).mgc = s.mgc := rfl
@[simp] theorem State.setAgenda_pkg (a : List Turn) : (s.setAgenda a).pkg = s.pkg := rfl
@[simp] theorem State.setAgenda_fns (a : List Turn) : (s.setAgenda a).fns = s.fns := rfl
@[simp] theorem State.setAgenda_hostMem (a : List Turn) : (s.setAgenda a).hostMem = s.hostMem := rfl
@[simp] theorem State.setAgenda_msix (a : List Turn) : (s.setAgenda a).msix = s.msix := rfl
@[simp] theorem State.setAgenda_ctl (a : List Turn) : (s.setAgenda a).ctl = s.ctl := rfl
@[simp] theorem State.setAgenda_mem (a : List Turn) : (s.setAgenda a).mem = s.mem := rfl
@[simp] theorem State.setAgenda_launches (a : List Turn) : (s.setAgenda a).launches = s.launches := rfl
@[simp] theorem State.setAgenda_flights (a : List Turn) : (s.setAgenda a).flights = s.flights := rfl
@[simp] theorem State.setAgenda_benches (a : List Turn) : (s.setAgenda a).benches = s.benches := rfl
@[simp] theorem State.setAgenda_cores (a : List Turn) : (s.setAgenda a).cores = s.cores := rfl
@[simp] theorem State.setAgenda_hcs (a : List Turn) : (s.setAgenda a).hcs = s.hcs := rfl
@[simp] theorem State.setAgenda_links (a : List Turn) : (s.setAgenda a).links = s.links := rfl

@[simp] theorem State.setCur_agenda (f : Focus) : (s.setCur f).agenda = s.agenda := rfl
@[simp] theorem State.setCur_cur (f : Focus) : (s.setCur f).cur = f := rfl
@[simp] theorem State.setCur_issue (f : Focus) : (s.setCur f).issue = s.issue := rfl
@[simp] theorem State.setCur_fresh (f : Focus) : (s.setCur f).fresh = s.fresh := rfl
@[simp] theorem State.setCur_ticket (f : Focus) : (s.setCur f).ticket = s.ticket := rfl
@[simp] theorem State.setCur_mgc (f : Focus) : (s.setCur f).mgc = s.mgc := rfl
@[simp] theorem State.setCur_pkg (f : Focus) : (s.setCur f).pkg = s.pkg := rfl
@[simp] theorem State.setCur_fns (f : Focus) : (s.setCur f).fns = s.fns := rfl
@[simp] theorem State.setCur_hostMem (f : Focus) : (s.setCur f).hostMem = s.hostMem := rfl
@[simp] theorem State.setCur_msix (f : Focus) : (s.setCur f).msix = s.msix := rfl
@[simp] theorem State.setCur_ctl (f : Focus) : (s.setCur f).ctl = s.ctl := rfl
@[simp] theorem State.setCur_mem (f : Focus) : (s.setCur f).mem = s.mem := rfl
@[simp] theorem State.setCur_launches (f : Focus) : (s.setCur f).launches = s.launches := rfl
@[simp] theorem State.setCur_flights (f : Focus) : (s.setCur f).flights = s.flights := rfl
@[simp] theorem State.setCur_benches (f : Focus) : (s.setCur f).benches = s.benches := rfl
@[simp] theorem State.setCur_cores (f : Focus) : (s.setCur f).cores = s.cores := rfl
@[simp] theorem State.setCur_hcs (f : Focus) : (s.setCur f).hcs = s.hcs := rfl
@[simp] theorem State.setCur_links (f : Focus) : (s.setCur f).links = s.links := rfl

@[simp] theorem State.setStrandAt_agenda (f : Focus) (t : Option Strand) : (s.setStrandAt f t).agenda = s.agenda := rfl
@[simp] theorem State.setStrandAt_cur (f : Focus) (t : Option Strand) : (s.setStrandAt f t).cur = s.cur := rfl
@[simp] theorem State.setStrandAt_issue (f : Focus) (t : Option Strand) : (s.setStrandAt f t).issue = s.issue := rfl
@[simp] theorem State.setStrandAt_fresh (f : Focus) (t : Option Strand) : (s.setStrandAt f t).fresh = s.fresh := rfl
@[simp] theorem State.setStrandAt_ticket (f : Focus) (t : Option Strand) : (s.setStrandAt f t).ticket = s.ticket := rfl
@[simp] theorem State.setStrandAt_mgc (f : Focus) (t : Option Strand) : (s.setStrandAt f t).mgc = s.mgc := rfl
@[simp] theorem State.setStrandAt_pkg (f : Focus) (t : Option Strand) : (s.setStrandAt f t).pkg = s.pkg := rfl
@[simp] theorem State.setStrandAt_fns (f : Focus) (t : Option Strand) : (s.setStrandAt f t).fns = s.fns := rfl
@[simp] theorem State.setStrandAt_hostMem (f : Focus) (t : Option Strand) : (s.setStrandAt f t).hostMem = s.hostMem := rfl
@[simp] theorem State.setStrandAt_msix (f : Focus) (t : Option Strand) : (s.setStrandAt f t).msix = s.msix := rfl
@[simp] theorem State.setStrandAt_ctl (f : Focus) (t : Option Strand) : (s.setStrandAt f t).ctl = s.ctl := rfl
@[simp] theorem State.setStrandAt_mem (f : Focus) (t : Option Strand) : (s.setStrandAt f t).mem = s.mem := rfl
@[simp] theorem State.setStrandAt_launches (f : Focus) (t : Option Strand) : (s.setStrandAt f t).launches = s.launches := rfl
@[simp] theorem State.setStrandAt_flights (f : Focus) (t : Option Strand) : (s.setStrandAt f t).flights = s.flights := rfl
@[simp] theorem State.setStrandAt_benches (f : Focus) (t : Option Strand) : (s.setStrandAt f t).benches = s.benches := rfl
@[simp] theorem State.setStrandAt_cores (f : Focus) (t : Option Strand) : (s.setStrandAt f t).cores = s.cores := rfl
@[simp] theorem State.setStrandAt_hcs (f : Focus) (t : Option Strand) : (s.setStrandAt f t).hcs = s.hcs.put f.key { s.hc f.key with strand := t } := rfl
@[simp] theorem State.setStrandAt_links (f : Focus) (t : Option Strand) : (s.setStrandAt f t).links = s.links := rfl

@[simp] theorem State.setStrand_agenda (t : Strand) : (s.setStrand t).agenda = s.agenda := rfl
@[simp] theorem State.setStrand_cur (t : Strand) : (s.setStrand t).cur = s.cur := rfl
@[simp] theorem State.setStrand_issue (t : Strand) : (s.setStrand t).issue = s.issue := rfl
@[simp] theorem State.setStrand_fresh (t : Strand) : (s.setStrand t).fresh = s.fresh := rfl
@[simp] theorem State.setStrand_ticket (t : Strand) : (s.setStrand t).ticket = s.ticket := rfl
@[simp] theorem State.setStrand_mgc (t : Strand) : (s.setStrand t).mgc = s.mgc := rfl
@[simp] theorem State.setStrand_pkg (t : Strand) : (s.setStrand t).pkg = s.pkg := rfl
@[simp] theorem State.setStrand_fns (t : Strand) : (s.setStrand t).fns = s.fns := rfl
@[simp] theorem State.setStrand_hostMem (t : Strand) : (s.setStrand t).hostMem = s.hostMem := rfl
@[simp] theorem State.setStrand_msix (t : Strand) : (s.setStrand t).msix = s.msix := rfl
@[simp] theorem State.setStrand_ctl (t : Strand) : (s.setStrand t).ctl = s.ctl := rfl
@[simp] theorem State.setStrand_mem (t : Strand) : (s.setStrand t).mem = s.mem := rfl
@[simp] theorem State.setStrand_launches (t : Strand) : (s.setStrand t).launches = s.launches := rfl
@[simp] theorem State.setStrand_flights (t : Strand) : (s.setStrand t).flights = s.flights := rfl
@[simp] theorem State.setStrand_benches (t : Strand) : (s.setStrand t).benches = s.benches := rfl
@[simp] theorem State.setStrand_cores (t : Strand) : (s.setStrand t).cores = s.cores := rfl
@[simp] theorem State.setStrand_hcs (t : Strand) : (s.setStrand t).hcs = s.hcs.put s.cur.key { s.hc s.cur.key with strand := some t } := rfl
@[simp] theorem State.setStrand_links (t : Strand) : (s.setStrand t).links = s.links := rfl

@[simp] theorem State.setCtx_agenda (c : Nat) (x : Ctx) : (s.setCtx c x).agenda = s.agenda := rfl
@[simp] theorem State.setCtx_cur (c : Nat) (x : Ctx) : (s.setCtx c x).cur = s.cur := rfl
@[simp] theorem State.setCtx_issue (c : Nat) (x : Ctx) : (s.setCtx c x).issue = s.issue := rfl
@[simp] theorem State.setCtx_fresh (c : Nat) (x : Ctx) : (s.setCtx c x).fresh = s.fresh := rfl
@[simp] theorem State.setCtx_ticket (c : Nat) (x : Ctx) : (s.setCtx c x).ticket = s.ticket := rfl
@[simp] theorem State.setCtx_mgc (c : Nat) (x : Ctx) : (s.setCtx c x).mgc = s.mgc := rfl
@[simp] theorem State.setCtx_pkg (c : Nat) (x : Ctx) : (s.setCtx c x).pkg = s.pkg := rfl
@[simp] theorem State.setCtx_fns (c : Nat) (x : Ctx) : (s.setCtx c x).fns = s.fns := rfl
@[simp] theorem State.setCtx_hostMem (c : Nat) (x : Ctx) : (s.setCtx c x).hostMem = s.hostMem := rfl
@[simp] theorem State.setCtx_msix (c : Nat) (x : Ctx) : (s.setCtx c x).msix = s.msix := rfl
@[simp] theorem State.setCtx_ctl (c : Nat) (x : Ctx) : (s.setCtx c x).ctl = { s.ctl with ctxs := s.ctl.ctxs.put c x } := rfl
@[simp] theorem State.setCtx_mem (c : Nat) (x : Ctx) : (s.setCtx c x).mem = s.mem := rfl
@[simp] theorem State.setCtx_launches (c : Nat) (x : Ctx) : (s.setCtx c x).launches = s.launches := rfl
@[simp] theorem State.setCtx_flights (c : Nat) (x : Ctx) : (s.setCtx c x).flights = s.flights := rfl
@[simp] theorem State.setCtx_benches (c : Nat) (x : Ctx) : (s.setCtx c x).benches = s.benches := rfl
@[simp] theorem State.setCtx_cores (c : Nat) (x : Ctx) : (s.setCtx c x).cores = s.cores := rfl
@[simp] theorem State.setCtx_hcs (c : Nat) (x : Ctx) : (s.setCtx c x).hcs = s.hcs := rfl
@[simp] theorem State.setCtx_links (c : Nat) (x : Ctx) : (s.setCtx c x).links = s.links := rfl

@[simp] theorem State.setCurCore_agenda (c : Core) : (s.setCurCore c).agenda = s.agenda := rfl
@[simp] theorem State.setCurCore_cur (c : Core) : (s.setCurCore c).cur = s.cur := rfl
@[simp] theorem State.setCurCore_issue (c : Core) : (s.setCurCore c).issue = s.issue := rfl
@[simp] theorem State.setCurCore_fresh (c : Core) : (s.setCurCore c).fresh = s.fresh := rfl
@[simp] theorem State.setCurCore_ticket (c : Core) : (s.setCurCore c).ticket = s.ticket := rfl
@[simp] theorem State.setCurCore_mgc (c : Core) : (s.setCurCore c).mgc = s.mgc := rfl
@[simp] theorem State.setCurCore_pkg (c : Core) : (s.setCurCore c).pkg = s.pkg := rfl
@[simp] theorem State.setCurCore_fns (c : Core) : (s.setCurCore c).fns = s.fns := rfl
@[simp] theorem State.setCurCore_hostMem (c : Core) : (s.setCurCore c).hostMem = s.hostMem := rfl
@[simp] theorem State.setCurCore_msix (c : Core) : (s.setCurCore c).msix = s.msix := rfl
@[simp] theorem State.setCurCore_ctl (c : Core) : (s.setCurCore c).ctl = s.ctl := rfl
@[simp] theorem State.setCurCore_mem (c : Core) : (s.setCurCore c).mem = s.mem := rfl
@[simp] theorem State.setCurCore_launches (c : Core) : (s.setCurCore c).launches = s.launches := rfl
@[simp] theorem State.setCurCore_flights (c : Core) : (s.setCurCore c).flights = s.flights := rfl
@[simp] theorem State.setCurCore_benches (c : Core) : (s.setCurCore c).benches = s.benches := rfl
@[simp] theorem State.setCurCore_cores (c : Core) : (s.setCurCore c).cores = s.cores.put s.cur.core c := rfl
@[simp] theorem State.setCurCore_hcs (c : Core) : (s.setCurCore c).hcs = s.hcs := rfl
@[simp] theorem State.setCurCore_links (c : Core) : (s.setCurCore c).links = s.links := rfl

@[simp] theorem State.setCurBench_agenda (b : Bench) : (s.setCurBench b).agenda = s.agenda := rfl
@[simp] theorem State.setCurBench_cur (b : Bench) : (s.setCurBench b).cur = s.cur := rfl
@[simp] theorem State.setCurBench_issue (b : Bench) : (s.setCurBench b).issue = s.issue := rfl
@[simp] theorem State.setCurBench_fresh (b : Bench) : (s.setCurBench b).fresh = s.fresh := rfl
@[simp] theorem State.setCurBench_ticket (b : Bench) : (s.setCurBench b).ticket = s.ticket := rfl
@[simp] theorem State.setCurBench_mgc (b : Bench) : (s.setCurBench b).mgc = s.mgc := rfl
@[simp] theorem State.setCurBench_pkg (b : Bench) : (s.setCurBench b).pkg = s.pkg := rfl
@[simp] theorem State.setCurBench_fns (b : Bench) : (s.setCurBench b).fns = s.fns := rfl
@[simp] theorem State.setCurBench_hostMem (b : Bench) : (s.setCurBench b).hostMem = s.hostMem := rfl
@[simp] theorem State.setCurBench_msix (b : Bench) : (s.setCurBench b).msix = s.msix := rfl
@[simp] theorem State.setCurBench_ctl (b : Bench) : (s.setCurBench b).ctl = s.ctl := rfl
@[simp] theorem State.setCurBench_mem (b : Bench) : (s.setCurBench b).mem = s.mem := rfl
@[simp] theorem State.setCurBench_launches (b : Bench) : (s.setCurBench b).launches = s.launches := rfl
@[simp] theorem State.setCurBench_flights (b : Bench) : (s.setCurBench b).flights = s.flights := rfl
@[simp] theorem State.setCurBench_benches (b : Bench) : (s.setCurBench b).benches = s.benches.put s.cur.bench b := rfl
@[simp] theorem State.setCurBench_cores (b : Bench) : (s.setCurBench b).cores = s.cores := rfl
@[simp] theorem State.setCurBench_hcs (b : Bench) : (s.setCurBench b).hcs = s.hcs := rfl
@[simp] theorem State.setCurBench_links (b : Bench) : (s.setCurBench b).links = s.links := rfl

@[simp] theorem State.nextTicket_agenda : (s.nextTicket).agenda = s.agenda := rfl
@[simp] theorem State.nextTicket_cur : (s.nextTicket).cur = s.cur := rfl
@[simp] theorem State.nextTicket_issue : (s.nextTicket).issue = s.issue := rfl
@[simp] theorem State.nextTicket_fresh : (s.nextTicket).fresh = s.fresh := rfl
@[simp] theorem State.nextTicket_ticket : (s.nextTicket).ticket = s.ticket + 1 := rfl
@[simp] theorem State.nextTicket_mgc : (s.nextTicket).mgc = s.mgc := rfl
@[simp] theorem State.nextTicket_pkg : (s.nextTicket).pkg = s.pkg := rfl
@[simp] theorem State.nextTicket_fns : (s.nextTicket).fns = s.fns := rfl
@[simp] theorem State.nextTicket_hostMem : (s.nextTicket).hostMem = s.hostMem := rfl
@[simp] theorem State.nextTicket_msix : (s.nextTicket).msix = s.msix := rfl
@[simp] theorem State.nextTicket_ctl : (s.nextTicket).ctl = s.ctl := rfl
@[simp] theorem State.nextTicket_mem : (s.nextTicket).mem = s.mem := rfl
@[simp] theorem State.nextTicket_launches : (s.nextTicket).launches = s.launches := rfl
@[simp] theorem State.nextTicket_flights : (s.nextTicket).flights = s.flights := rfl
@[simp] theorem State.nextTicket_benches : (s.nextTicket).benches = s.benches := rfl
@[simp] theorem State.nextTicket_cores : (s.nextTicket).cores = s.cores := rfl
@[simp] theorem State.nextTicket_hcs : (s.nextTicket).hcs = s.hcs := rfl
@[simp] theorem State.nextTicket_links : (s.nextTicket).links = s.links := rfl

@[simp] theorem State.nextFresh_agenda : (s.nextFresh).agenda = s.agenda := rfl
@[simp] theorem State.nextFresh_cur : (s.nextFresh).cur = s.cur := rfl
@[simp] theorem State.nextFresh_issue : (s.nextFresh).issue = s.issue := rfl
@[simp] theorem State.nextFresh_fresh : (s.nextFresh).fresh = s.fresh + 1 := rfl
@[simp] theorem State.nextFresh_ticket : (s.nextFresh).ticket = s.ticket := rfl
@[simp] theorem State.nextFresh_mgc : (s.nextFresh).mgc = s.mgc := rfl
@[simp] theorem State.nextFresh_pkg : (s.nextFresh).pkg = s.pkg := rfl
@[simp] theorem State.nextFresh_fns : (s.nextFresh).fns = s.fns := rfl
@[simp] theorem State.nextFresh_hostMem : (s.nextFresh).hostMem = s.hostMem := rfl
@[simp] theorem State.nextFresh_msix : (s.nextFresh).msix = s.msix := rfl
@[simp] theorem State.nextFresh_ctl : (s.nextFresh).ctl = s.ctl := rfl
@[simp] theorem State.nextFresh_mem : (s.nextFresh).mem = s.mem := rfl
@[simp] theorem State.nextFresh_launches : (s.nextFresh).launches = s.launches := rfl
@[simp] theorem State.nextFresh_flights : (s.nextFresh).flights = s.flights := rfl
@[simp] theorem State.nextFresh_benches : (s.nextFresh).benches = s.benches := rfl
@[simp] theorem State.nextFresh_cores : (s.nextFresh).cores = s.cores := rfl
@[simp] theorem State.nextFresh_hcs : (s.nextFresh).hcs = s.hcs := rfl
@[simp] theorem State.nextFresh_links : (s.nextFresh).links = s.links := rfl

end Sys2Proof.Machine
end

