-- ==== Sys2Proof/Laws/Tables.lean ====
section
/-! SUPPORT. Tables and sparse memories: what a read gives after a write, and that every write keeps the rising order of keys
and lists no zero byte. -/

namespace Sys2Proof

/-! ## Tables -/

theorem Table.find_put_same {α : Type} (k : Nat) (v : α) (t : Table α) : Table.find k (Table.put k v t) = some v := by
  induction t with
  | nil => simp [Table.put, Table.find]
  | cons e t ih =>
    obtain ⟨j, w⟩ := e
    simp only [Table.put]
    split
    · simp [Table.find]
    · split
      · simp [Table.find]
      · rename_i h
        simp [Table.find, h, ih]

theorem Table.find_put_ne {α : Type} {j k : Nat} (h : j ≠ k) (v : α) (t : Table α) :
    Table.find j (Table.put k v t) = Table.find j t := by
  induction t with
  | nil => simp [Table.put, Table.find, h.symm]
  | cons e t ih =>
    obtain ⟨i, w⟩ := e
    simp only [Table.put]
    split
    · simp [Table.find, h.symm]
    · split
      · rename_i hi
        subst hi
        simp [Table.find, h.symm]
      · simp only [Table.find, ih]

@[simp] theorem Table.get_put_same {α : Type} (k : Nat) (v d : α) (t : Table α) : (Table.put k v t).get k d = v := by
  simp [Table.get, Table.find_put_same]

theorem Table.get_put_ne {α : Type} {j k : Nat} (h : j ≠ k) (v d : α) (t : Table α) :
    (Table.put k v t).get j d = t.get j d := by
  simp [Table.get, Table.find_put_ne h]

/-! ## Sparse memories -/

/-- Every address of a memory is above a bound, its addresses rise, and no byte is zero. -/
def cellsFrom (a : Nat) : List Host.Cell → Prop
  | [] => True
  | e :: t => a ≤ e.1 ∧ e.2 ≠ 0 ∧ cellsFrom (e.1 + 1) t

theorem cellsFrom_mono {a b : Nat} (h : a ≤ b) {m : List Host.Cell} (w : cellsFrom b m) : cellsFrom a m := by
  cases m with
  | nil => trivial
  | cons e t => exact ⟨Nat.le_trans h w.1, w.2.1, w.2.2⟩

theorem cellsWf_cons (a : Nat) (v : Byte) (m : List Host.Cell) :
    cellsWf ((a, v) :: m) = true ↔ v ≠ 0 ∧ cellsFrom (a + 1) m := by
  induction m generalizing a v with
  | nil => simp [cellsWf, cellsFrom]
  | cons e t ih =>
    obtain ⟨b, w⟩ := e
    simp only [cellsWf, Bool.and_eq_true, bne_iff_ne, decide_eq_true_eq, ih, cellsFrom]
    constructor
    · rintro ⟨⟨h1, h2⟩, h3⟩
      exact ⟨h1, h2, h3⟩
    · rintro ⟨h1, h2, h3⟩
      exact ⟨⟨h1, h2⟩, h3⟩

theorem cellsWf_iff (m : List Host.Cell) : cellsWf m = true ↔ cellsFrom 0 m := by
  cases m with
  | nil => simp [cellsWf, cellsFrom]
  | cons e t =>
    obtain ⟨a, v⟩ := e
    simp [cellsWf_cons, cellsFrom]

theorem cellRead_below {a b : Nat} {m : List Host.Cell} (w : cellsFrom b m) (h : a < b) : cellRead m a = 0 := by
  cases m with
  | nil => rfl
  | cons e t =>
    obtain ⟨j, v⟩ := e
    have hj : a < j := Nat.lt_of_lt_of_le h w.1
    simp [cellRead, Nat.ne_of_gt hj, hj]

theorem cellDrop_from {a b : Nat} {m : List Host.Cell} (w : cellsFrom b m) : cellsFrom b (cellDrop a m) := by
  induction m generalizing b with
  | nil => trivial
  | cons e t ih =>
    obtain ⟨j, v⟩ := e
    simp only [cellDrop]
    split
    · exact w
    · split
      · exact cellsFrom_mono (Nat.le_trans w.1 (Nat.le_succ _)) w.2.2
      · exact ⟨w.1, w.2.1, ih w.2.2⟩

theorem cellPut_from {a b : Nat} {v : Byte} (hv : v ≠ 0) (hb : b ≤ a) {m : List Host.Cell} (w : cellsFrom b m) :
    cellsFrom b (cellPut a v m) := by
  induction m generalizing b with
  | nil => exact ⟨hb, hv, trivial⟩
  | cons e t ih =>
    obtain ⟨j, u⟩ := e
    simp only [cellPut]
    split
    · rename_i h
      exact ⟨hb, hv, h, w.2.1, w.2.2⟩
    · split
      · rename_i h
        subst h
        exact ⟨hb, hv, w.2.2⟩
      · rename_i h1 h2
        exact ⟨w.1, w.2.1, ih (by simp only at h1 h2 ⊢; omega) w.2.2⟩

/-- A write of a byte keeps the canonical form. -/
theorem cellWrite_wf {m : List Host.Cell} (a : Nat) (v : Byte) (w : cellsWf m = true) : cellsWf (cellWrite m a v) = true := by
  rw [cellsWf_iff] at *
  unfold cellWrite
  split
  · exact cellDrop_from w
  · exact cellPut_from ‹_› (Nat.zero_le _) w

/-- A write of bytes keeps the canonical form. -/
theorem cellWrites_wf {m : List Host.Cell} (a : Nat) (bs : List Byte) (w : cellsWf m = true) :
    cellsWf (cellWrites m a bs) = true := by
  induction bs generalizing m a with
  | nil => exact w
  | cons b bs ih => exact ih (a + 1) (cellWrite_wf a b w)

theorem cellRead_drop {m : List Host.Cell} {b : Nat} (w : cellsFrom b m) (a c : Nat) :
    cellRead (cellDrop a m) c = if c = a then 0 else cellRead m c := by
  induction m generalizing b with
  | nil => simp [cellDrop, cellRead]
  | cons e t ih =>
    obtain ⟨j, v⟩ := e
    simp only [cellDrop]
    split
    · rename_i h
      split
      · rename_i hc
        subst hc
        simp [cellRead, Nat.ne_of_gt h, h]
      · rfl
    · split
      · rename_i h
        subst h
        split
        · rename_i hc
          subst hc
          exact cellRead_below w.2.2 (Nat.lt_succ_self _)
        · rename_i hc
          simp only [cellRead]
          split
          · rename_i hj
            exact absurd hj.symm hc
          · split
            · rename_i hlt
              exact cellRead_below w.2.2 (Nat.lt_succ_of_lt hlt)
            · rfl
      · rename_i h1 h2
        simp only [cellRead, ih w.2.2]
        split
        · rename_i hj
          subst hj
          simp [h2]
        · split
          · split <;> rfl
          · rfl

theorem cellRead_put (a : Nat) (v : Byte) (m : List Host.Cell) (c : Nat) :
    cellRead (cellPut a v m) c = if c = a then v else cellRead m c := by
  induction m with
  | nil =>
    by_cases h : c = a
    · subst h
      simp [cellPut, cellRead]
    · have h' : a ≠ c := fun x => h x.symm
      simp [cellPut, cellRead, h, h']
  | cons e t ih =>
    obtain ⟨j, u⟩ := e
    simp only [cellPut]
    split
    · rename_i h
      by_cases hc : c = a
      · subst hc
        simp [cellRead]
      · have hc' : a ≠ c := fun x => hc x.symm
        simp only [cellRead, hc, hc', if_false]
        split
        · rename_i hlt
          have h1 : j ≠ c := by omega
          have h2 : c < j := by omega
          simp [h1, h2]
        · rfl
    · split
      · rename_i h
        subst h
        by_cases hc : c = j
        · subst hc
          simp [cellRead]
        · have hc' : j ≠ c := fun x => hc x.symm
          simp [cellRead, hc, hc']
      · rename_i h1 h2
        simp only [cellRead, ih]
        by_cases hc : c = a
        · subst hc
          have : ¬ c < j := h1
          simp [h2, this]
        · simp [hc]

/-- Reading after writing one byte. -/
theorem cellRead_write {m : List Host.Cell} (w : cellsWf m = true) (a : Nat) (v : Byte) (c : Nat) :
    cellRead (cellWrite m a v) c = if c = a then v else cellRead m c := by
  unfold cellWrite
  split
  · rename_i h
    subst h
    exact cellRead_drop ((cellsWf_iff m).1 w) a c
  · exact cellRead_put a v m c

/-- Reading after writing bytes: the bytes written, and every other byte as before. -/
theorem cellRead_writes {m : List Host.Cell} (w : cellsWf m = true) (a : Nat) (bs : List Byte) (c : Nat) :
    cellRead (cellWrites m a bs) c = if a ≤ c ∧ c < a + bs.length then bs.getD (c - a) 0 else cellRead m c := by
  induction bs generalizing m a with
  | nil =>
    have : ¬ (a ≤ c ∧ c < a + 0) := by omega
    simp only [cellWrites, List.length_nil, this, if_false]
  | cons b bs ih =>
    simp only [cellWrites, List.length_cons]
    rw [ih (cellWrite_wf a b w), cellRead_write w]
    by_cases h : c = a
    · subst h
      have h1 : ¬ (c + 1 ≤ c ∧ c < c + 1 + bs.length) := by omega
      have h2 : c ≤ c ∧ c < c + (bs.length + 1) := by omega
      rw [if_neg h1, if_pos rfl, if_pos h2]
      simp
    · by_cases h1 : a + 1 ≤ c ∧ c < a + 1 + bs.length
      · have h2 : a ≤ c ∧ c < a + (bs.length + 1) := by omega
        rw [if_pos h1, if_pos h2]
        have h3 : c - a = (c - (a + 1)) + 1 := by omega
        rw [h3]
        simp
      · have h2 : ¬ (a ≤ c ∧ c < a + (bs.length + 1)) := by omega
        rw [if_neg h1, if_neg h, if_neg h2]

theorem cellBytes_length (m : List Host.Cell) (a n : Nat) : (cellBytes m a n).length = n := by
  induction n generalizing a with
  | zero => rfl
  | succ n ih => simp [cellBytes, ih]

/-- Bytes read back where they were written. -/
theorem cellBytes_writes {m : List Host.Cell} (w : cellsWf m = true) (a : Nat) (bs : List Byte) :
    cellBytes (cellWrites m a bs) a bs.length = bs := by
  apply List.ext_getElem
  · exact cellBytes_length _ _ _
  · intro i h1 h2
    have key : ∀ (x : List Host.Cell) (p n : Nat) (hi : i < (cellBytes x p n).length),
        (cellBytes x p n)[i] = cellRead x (p + i) := by
      intro x p n hi
      clear h1 h2
      induction n generalizing p i with
      | zero => simp [cellBytes] at hi
      | succ n ih =>
        cases i with
        | zero => simp [cellBytes]
        | succ i =>
          simp only [cellBytes, List.getElem_cons_succ]
          rw [ih]
          congr 1
          omega
    rw [key, cellRead_writes w]
    have hh : a ≤ a + i ∧ a + i < a + bs.length := by omega
    rw [if_pos hh]
    simp [h2]

end Sys2Proof
end

