-- ==== Sys2Proof/Laws/Access.lean ====
section
/-! SUPPORT. What the accessors of State read after each update: the value put where the key is the same, and else the value from
before. -/

namespace Sys2Proof.Machine

variable (s : State)

/-! ## The same table -/

@[simp] theorem State.setCore_core (k : Nat) (x : Core) : (s.setCore k x).core k = x := Table.get_put_same k x _ _
theorem State.setCore_core_ne {j k : Nat} (h : j ≠ k) (x : Core) : (s.setCore k x).core j = s.core j := Table.get_put_ne h x _ _
@[simp] theorem State.setBench_bench (k : Nat) (x : Bench) : (s.setBench k x).bench k = x := Table.get_put_same k x _ _
theorem State.setBench_bench_ne {j k : Nat} (h : j ≠ k) (x : Bench) : (s.setBench k x).bench j = s.bench j := Table.get_put_ne h x _ _
@[simp] theorem State.setHc_hc (k : Nat) (x : Hc) : (s.setHc k x).hc k = x := Table.get_put_same k x _ _
theorem State.setHc_hc_ne {j k : Nat} (h : j ≠ k) (x : Hc) : (s.setHc k x).hc j = s.hc j := Table.get_put_ne h x _ _
@[simp] theorem State.setFn_fn (k : Nat) (x : HostFn) : (s.setFn k x).fn k = x := Table.get_put_same k x _ _
theorem State.setFn_fn_ne {j k : Nat} (h : j ≠ k) (x : HostFn) : (s.setFn k x).fn j = s.fn j := Table.get_put_ne h x _ _
@[simp] theorem State.setLink_link (k : Nat) (x : TrobinLink) : (s.setLink k x).link k = x := Table.get_put_same k x _ _
theorem State.setLink_link_ne {j k : Nat} (h : j ≠ k) (x : TrobinLink) : (s.setLink k x).link j = s.link j := Table.get_put_ne h x _ _
@[simp] theorem State.setCtx_ctx (c : Nat) (x : Ctx) : (s.setCtx c x).ctx c = some x := Table.find_put_same c x _
theorem State.setCtx_ctx_ne {c e : Nat} (h : e ≠ c) (x : Ctx) : (s.setCtx c x).ctx e = s.ctx e := Table.find_put_ne h x _
theorem State.setLaunch_launch {k : Nat} (h : (s.launches.find k).isSome = true) (l : Launch) : (s.setLaunch k l).launch k = l := by
  simp [State.setLaunch, State.launch, h]
theorem State.setLaunch_launch_ne {j k : Nat} (h : j ≠ k) (l : Launch) : (s.setLaunch k l).launch j = s.launch j := by
  simp only [State.setLaunch, State.launch]
  split
  · exact Table.get_put_ne h l _ _
  · rfl
/-- A launch that is over stays over. -/
theorem State.setLaunch_over {k : Nat} (h : s.launches.find k = none) (l : Launch) : s.setLaunch k l = s := by
  simp [State.setLaunch, h]
@[simp] theorem State.setCurCore_curCore (c : Core) : (s.setCurCore c).curCore = c := State.setCore_core s s.cur.core c
@[simp] theorem State.setCurBench_curBench (b : Bench) : (s.setCurBench b).curBench = b := State.setBench_bench s s.cur.bench b
@[simp] theorem State.setStrandAt_strandAt (f : Focus) (t : Option Strand) : (s.setStrandAt f t).strandAt f = t := by
  simp [State.setStrandAt, State.strandAt]
theorem State.setStrandAt_strandAt_ne {f g : Focus} (h : g.key ≠ f.key) (t : Option Strand) :
    (s.setStrandAt f t).strandAt g = s.strandAt g := by
  simp only [State.setStrandAt, State.strandAt, State.setHc_hc_ne s h]
@[simp] theorem State.setStrand_strand (t : Strand) : (s.setStrand t).strand = some t := State.setStrandAt_strandAt s s.cur (some t)

/-! ## Another table -/

@[simp] theorem State.setCore_bench (k : Nat) (c : Core) (n : Nat) : (s.setCore k c).bench n = s.bench n := rfl
@[simp] theorem State.setCore_hc (k : Nat) (c : Core) (n : Nat) : (s.setCore k c).hc n = s.hc n := rfl
@[simp] theorem State.setCore_launch (k : Nat) (c : Core) (n : Nat) : (s.setCore k c).launch n = s.launch n := rfl
@[simp] theorem State.setCore_fn (k : Nat) (c : Core) (n : Nat) : (s.setCore k c).fn n = s.fn n := rfl
@[simp] theorem State.setCore_link (k : Nat) (c : Core) (n : Nat) : (s.setCore k c).link n = s.link n := rfl
@[simp] theorem State.setCore_ctx (k : Nat) (c : Core) (n : Nat) : (s.setCore k c).ctx n = s.ctx n := rfl

@[simp] theorem State.setBench_core (b : Nat) (x : Bench) (n : Nat) : (s.setBench b x).core n = s.core n := rfl
@[simp] theorem State.setBench_hc (b : Nat) (x : Bench) (n : Nat) : (s.setBench b x).hc n = s.hc n := rfl
@[simp] theorem State.setBench_launch (b : Nat) (x : Bench) (n : Nat) : (s.setBench b x).launch n = s.launch n := rfl
@[simp] theorem State.setBench_fn (b : Nat) (x : Bench) (n : Nat) : (s.setBench b x).fn n = s.fn n := rfl
@[simp] theorem State.setBench_link (b : Nat) (x : Bench) (n : Nat) : (s.setBench b x).link n = s.link n := rfl
@[simp] theorem State.setBench_ctx (b : Nat) (x : Bench) (n : Nat) : (s.setBench b x).ctx n = s.ctx n := rfl

@[simp] theorem State.setHc_core (k : Nat) (h : Hc) (n : Nat) : (s.setHc k h).core n = s.core n := rfl
@[simp] theorem State.setHc_bench (k : Nat) (h : Hc) (n : Nat) : (s.setHc k h).bench n = s.bench n := rfl
@[simp] theorem State.setHc_launch (k : Nat) (h : Hc) (n : Nat) : (s.setHc k h).launch n = s.launch n := rfl
@[simp] theorem State.setHc_fn (k : Nat) (h : Hc) (n : Nat) : (s.setHc k h).fn n = s.fn n := rfl
@[simp] theorem State.setHc_link (k : Nat) (h : Hc) (n : Nat) : (s.setHc k h).link n = s.link n := rfl
@[simp] theorem State.setHc_ctx (k : Nat) (h : Hc) (n : Nat) : (s.setHc k h).ctx n = s.ctx n := rfl

@[simp] theorem State.setLaunch_core (k : Nat) (l : Launch) (n : Nat) : (s.setLaunch k l).core n = s.core n := rfl
@[simp] theorem State.setLaunch_bench (k : Nat) (l : Launch) (n : Nat) : (s.setLaunch k l).bench n = s.bench n := rfl
@[simp] theorem State.setLaunch_hc (k : Nat) (l : Launch) (n : Nat) : (s.setLaunch k l).hc n = s.hc n := rfl
@[simp] theorem State.setLaunch_fn (k : Nat) (l : Launch) (n : Nat) : (s.setLaunch k l).fn n = s.fn n := rfl
@[simp] theorem State.setLaunch_link (k : Nat) (l : Launch) (n : Nat) : (s.setLaunch k l).link n = s.link n := rfl
@[simp] theorem State.setLaunch_ctx (k : Nat) (l : Launch) (n : Nat) : (s.setLaunch k l).ctx n = s.ctx n := rfl

@[simp] theorem State.setFn_core (k : Nat) (f : HostFn) (n : Nat) : (s.setFn k f).core n = s.core n := rfl
@[simp] theorem State.setFn_bench (k : Nat) (f : HostFn) (n : Nat) : (s.setFn k f).bench n = s.bench n := rfl
@[simp] theorem State.setFn_hc (k : Nat) (f : HostFn) (n : Nat) : (s.setFn k f).hc n = s.hc n := rfl
@[simp] theorem State.setFn_launch (k : Nat) (f : HostFn) (n : Nat) : (s.setFn k f).launch n = s.launch n := rfl
@[simp] theorem State.setFn_link (k : Nat) (f : HostFn) (n : Nat) : (s.setFn k f).link n = s.link n := rfl
@[simp] theorem State.setFn_ctx (k : Nat) (f : HostFn) (n : Nat) : (s.setFn k f).ctx n = s.ctx n := rfl

@[simp] theorem State.setLink_core (k : Nat) (l : TrobinLink) (n : Nat) : (s.setLink k l).core n = s.core n := rfl
@[simp] theorem State.setLink_bench (k : Nat) (l : TrobinLink) (n : Nat) : (s.setLink k l).bench n = s.bench n := rfl
@[simp] theorem State.setLink_hc (k : Nat) (l : TrobinLink) (n : Nat) : (s.setLink k l).hc n = s.hc n := rfl
@[simp] theorem State.setLink_launch (k : Nat) (l : TrobinLink) (n : Nat) : (s.setLink k l).launch n = s.launch n := rfl
@[simp] theorem State.setLink_fn (k : Nat) (l : TrobinLink) (n : Nat) : (s.setLink k l).fn n = s.fn n := rfl
@[simp] theorem State.setLink_ctx (k : Nat) (l : TrobinLink) (n : Nat) : (s.setLink k l).ctx n = s.ctx n := rfl

@[simp] theorem State.setIssue_core (r : IssueResult) (n : Nat) : (s.setIssue r).core n = s.core n := rfl
@[simp] theorem State.setIssue_bench (r : IssueResult) (n : Nat) : (s.setIssue r).bench n = s.bench n := rfl
@[simp] theorem State.setIssue_hc (r : IssueResult) (n : Nat) : (s.setIssue r).hc n = s.hc n := rfl
@[simp] theorem State.setIssue_launch (r : IssueResult) (n : Nat) : (s.setIssue r).launch n = s.launch n := rfl
@[simp] theorem State.setIssue_fn (r : IssueResult) (n : Nat) : (s.setIssue r).fn n = s.fn n := rfl
@[simp] theorem State.setIssue_link (r : IssueResult) (n : Nat) : (s.setIssue r).link n = s.link n := rfl
@[simp] theorem State.setIssue_ctx (r : IssueResult) (n : Nat) : (s.setIssue r).ctx n = s.ctx n := rfl

@[simp] theorem State.setMem_core (m : Memory) (n : Nat) : (s.setMem m).core n = s.core n := rfl
@[simp] theorem State.setMem_bench (m : Memory) (n : Nat) : (s.setMem m).bench n = s.bench n := rfl
@[simp] theorem State.setMem_hc (m : Memory) (n : Nat) : (s.setMem m).hc n = s.hc n := rfl
@[simp] theorem State.setMem_launch (m : Memory) (n : Nat) : (s.setMem m).launch n = s.launch n := rfl
@[simp] theorem State.setMem_fn (m : Memory) (n : Nat) : (s.setMem m).fn n = s.fn n := rfl
@[simp] theorem State.setMem_link (m : Memory) (n : Nat) : (s.setMem m).link n = s.link n := rfl
@[simp] theorem State.setMem_ctx (m : Memory) (n : Nat) : (s.setMem m).ctx n = s.ctx n := rfl

@[simp] theorem State.setMgc_core (m : Mgc) (n : Nat) : (s.setMgc m).core n = s.core n := rfl
@[simp] theorem State.setMgc_bench (m : Mgc) (n : Nat) : (s.setMgc m).bench n = s.bench n := rfl
@[simp] theorem State.setMgc_hc (m : Mgc) (n : Nat) : (s.setMgc m).hc n = s.hc n := rfl
@[simp] theorem State.setMgc_launch (m : Mgc) (n : Nat) : (s.setMgc m).launch n = s.launch n := rfl
@[simp] theorem State.setMgc_fn (m : Mgc) (n : Nat) : (s.setMgc m).fn n = s.fn n := rfl
@[simp] theorem State.setMgc_link (m : Mgc) (n : Nat) : (s.setMgc m).link n = s.link n := rfl
@[simp] theorem State.setMgc_ctx (m : Mgc) (n : Nat) : (s.setMgc m).ctx n = s.ctx n := rfl

@[simp] theorem State.setPkg_core (p : Package) (n : Nat) : (s.setPkg p).core n = s.core n := rfl
@[simp] theorem State.setPkg_bench (p : Package) (n : Nat) : (s.setPkg p).bench n = s.bench n := rfl
@[simp] theorem State.setPkg_hc (p : Package) (n : Nat) : (s.setPkg p).hc n = s.hc n := rfl
@[simp] theorem State.setPkg_launch (p : Package) (n : Nat) : (s.setPkg p).launch n = s.launch n := rfl
@[simp] theorem State.setPkg_fn (p : Package) (n : Nat) : (s.setPkg p).fn n = s.fn n := rfl
@[simp] theorem State.setPkg_link (p : Package) (n : Nat) : (s.setPkg p).link n = s.link n := rfl
@[simp] theorem State.setPkg_ctx (p : Package) (n : Nat) : (s.setPkg p).ctx n = s.ctx n := rfl

@[simp] theorem State.setCtl_core (c : Controller) (n : Nat) : (s.setCtl c).core n = s.core n := rfl
@[simp] theorem State.setCtl_bench (c : Controller) (n : Nat) : (s.setCtl c).bench n = s.bench n := rfl
@[simp] theorem State.setCtl_hc (c : Controller) (n : Nat) : (s.setCtl c).hc n = s.hc n := rfl
@[simp] theorem State.setCtl_launch (c : Controller) (n : Nat) : (s.setCtl c).launch n = s.launch n := rfl
@[simp] theorem State.setCtl_fn (c : Controller) (n : Nat) : (s.setCtl c).fn n = s.fn n := rfl
@[simp] theorem State.setCtl_link (c : Controller) (n : Nat) : (s.setCtl c).link n = s.link n := rfl

@[simp] theorem State.setCtx_core (c : Nat) (x : Ctx) (n : Nat) : (s.setCtx c x).core n = s.core n := rfl
@[simp] theorem State.setCtx_bench (c : Nat) (x : Ctx) (n : Nat) : (s.setCtx c x).bench n = s.bench n := rfl
@[simp] theorem State.setCtx_hc (c : Nat) (x : Ctx) (n : Nat) : (s.setCtx c x).hc n = s.hc n := rfl
@[simp] theorem State.setCtx_launch (c : Nat) (x : Ctx) (n : Nat) : (s.setCtx c x).launch n = s.launch n := rfl
@[simp] theorem State.setCtx_fn (c : Nat) (x : Ctx) (n : Nat) : (s.setCtx c x).fn n = s.fn n := rfl
@[simp] theorem State.setCtx_link (c : Nat) (x : Ctx) (n : Nat) : (s.setCtx c x).link n = s.link n := rfl

@[simp] theorem State.setAgenda_core (a : List Turn) (n : Nat) : (s.setAgenda a).core n = s.core n := rfl
@[simp] theorem State.setAgenda_bench (a : List Turn) (n : Nat) : (s.setAgenda a).bench n = s.bench n := rfl
@[simp] theorem State.setAgenda_hc (a : List Turn) (n : Nat) : (s.setAgenda a).hc n = s.hc n := rfl
@[simp] theorem State.setAgenda_launch (a : List Turn) (n : Nat) : (s.setAgenda a).launch n = s.launch n := rfl
@[simp] theorem State.setAgenda_fn (a : List Turn) (n : Nat) : (s.setAgenda a).fn n = s.fn n := rfl
@[simp] theorem State.setAgenda_link (a : List Turn) (n : Nat) : (s.setAgenda a).link n = s.link n := rfl
@[simp] theorem State.setAgenda_ctx (a : List Turn) (n : Nat) : (s.setAgenda a).ctx n = s.ctx n := rfl

@[simp] theorem State.setCur_core (f : Focus) (n : Nat) : (s.setCur f).core n = s.core n := rfl
@[simp] theorem State.setCur_bench (f : Focus) (n : Nat) : (s.setCur f).bench n = s.bench n := rfl
@[simp] theorem State.setCur_hc (f : Focus) (n : Nat) : (s.setCur f).hc n = s.hc n := rfl
@[simp] theorem State.setCur_launch (f : Focus) (n : Nat) : (s.setCur f).launch n = s.launch n := rfl
@[simp] theorem State.setCur_fn (f : Focus) (n : Nat) : (s.setCur f).fn n = s.fn n := rfl
@[simp] theorem State.setCur_link (f : Focus) (n : Nat) : (s.setCur f).link n = s.link n := rfl
@[simp] theorem State.setCur_ctx (f : Focus) (n : Nat) : (s.setCur f).ctx n = s.ctx n := rfl

@[simp] theorem State.setStrand_core (t : Strand) (n : Nat) : (s.setStrand t).core n = s.core n := rfl
@[simp] theorem State.setStrand_bench (t : Strand) (n : Nat) : (s.setStrand t).bench n = s.bench n := rfl
@[simp] theorem State.setStrand_launch (t : Strand) (n : Nat) : (s.setStrand t).launch n = s.launch n := rfl
@[simp] theorem State.setStrand_fn (t : Strand) (n : Nat) : (s.setStrand t).fn n = s.fn n := rfl
@[simp] theorem State.setStrand_link (t : Strand) (n : Nat) : (s.setStrand t).link n = s.link n := rfl
@[simp] theorem State.setStrand_ctx (t : Strand) (n : Nat) : (s.setStrand t).ctx n = s.ctx n := rfl

@[simp] theorem State.setStrandAt_core (f : Focus) (t : Option Strand) (n : Nat) : (s.setStrandAt f t).core n = s.core n := rfl
@[simp] theorem State.setStrandAt_bench (f : Focus) (t : Option Strand) (n : Nat) : (s.setStrandAt f t).bench n = s.bench n := rfl
@[simp] theorem State.setStrandAt_launch (f : Focus) (t : Option Strand) (n : Nat) : (s.setStrandAt f t).launch n = s.launch n := rfl
@[simp] theorem State.setStrandAt_fn (f : Focus) (t : Option Strand) (n : Nat) : (s.setStrandAt f t).fn n = s.fn n := rfl
@[simp] theorem State.setStrandAt_link (f : Focus) (t : Option Strand) (n : Nat) : (s.setStrandAt f t).link n = s.link n := rfl
@[simp] theorem State.setStrandAt_ctx (f : Focus) (t : Option Strand) (n : Nat) : (s.setStrandAt f t).ctx n = s.ctx n := rfl

@[simp] theorem State.setCurCore_bench (c : Core) (n : Nat) : (s.setCurCore c).bench n = s.bench n := rfl
@[simp] theorem State.setCurCore_hc (c : Core) (n : Nat) : (s.setCurCore c).hc n = s.hc n := rfl
@[simp] theorem State.setCurCore_launch (c : Core) (n : Nat) : (s.setCurCore c).launch n = s.launch n := rfl
@[simp] theorem State.setCurCore_fn (c : Core) (n : Nat) : (s.setCurCore c).fn n = s.fn n := rfl
@[simp] theorem State.setCurCore_link (c : Core) (n : Nat) : (s.setCurCore c).link n = s.link n := rfl
@[simp] theorem State.setCurCore_ctx (c : Core) (n : Nat) : (s.setCurCore c).ctx n = s.ctx n := rfl

@[simp] theorem State.setCurBench_core (b : Bench) (n : Nat) : (s.setCurBench b).core n = s.core n := rfl
@[simp] theorem State.setCurBench_hc (b : Bench) (n : Nat) : (s.setCurBench b).hc n = s.hc n := rfl
@[simp] theorem State.setCurBench_launch (b : Bench) (n : Nat) : (s.setCurBench b).launch n = s.launch n := rfl
@[simp] theorem State.setCurBench_fn (b : Bench) (n : Nat) : (s.setCurBench b).fn n = s.fn n := rfl
@[simp] theorem State.setCurBench_link (b : Bench) (n : Nat) : (s.setCurBench b).link n = s.link n := rfl
@[simp] theorem State.setCurBench_ctx (b : Bench) (n : Nat) : (s.setCurBench b).ctx n = s.ctx n := rfl

@[simp] theorem State.nextTicket_core (n : Nat) : s.nextTicket.core n = s.core n := rfl
@[simp] theorem State.nextTicket_bench (n : Nat) : s.nextTicket.bench n = s.bench n := rfl
@[simp] theorem State.nextTicket_hc (n : Nat) : s.nextTicket.hc n = s.hc n := rfl
@[simp] theorem State.nextTicket_launch (n : Nat) : s.nextTicket.launch n = s.launch n := rfl
@[simp] theorem State.nextTicket_fn (n : Nat) : s.nextTicket.fn n = s.fn n := rfl
@[simp] theorem State.nextTicket_link (n : Nat) : s.nextTicket.link n = s.link n := rfl
@[simp] theorem State.nextTicket_ctx (n : Nat) : s.nextTicket.ctx n = s.ctx n := rfl

@[simp] theorem State.nextFresh_core (n : Nat) : s.nextFresh.core n = s.core n := rfl
@[simp] theorem State.nextFresh_bench (n : Nat) : s.nextFresh.bench n = s.bench n := rfl
@[simp] theorem State.nextFresh_hc (n : Nat) : s.nextFresh.hc n = s.hc n := rfl
@[simp] theorem State.nextFresh_launch (n : Nat) : s.nextFresh.launch n = s.launch n := rfl
@[simp] theorem State.nextFresh_fn (n : Nat) : s.nextFresh.fn n = s.fn n := rfl
@[simp] theorem State.nextFresh_link (n : Nat) : s.nextFresh.link n = s.link n := rfl
@[simp] theorem State.nextFresh_ctx (n : Nat) : s.nextFresh.ctx n = s.ctx n := rfl

@[simp] theorem State.setCore_curBench (k : Nat) (c : Core) : (s.setCore k c).curBench = s.curBench := rfl
@[simp] theorem State.setCore_strand (k : Nat) (c : Core) : (s.setCore k c).strand = s.strand := rfl
@[simp] theorem State.setBench_curCore (b : Nat) (x : Bench) : (s.setBench b x).curCore = s.curCore := rfl
@[simp] theorem State.setBench_strand (b : Nat) (x : Bench) : (s.setBench b x).strand = s.strand := rfl
@[simp] theorem State.setHc_curCore (k : Nat) (h : Hc) : (s.setHc k h).curCore = s.curCore := rfl
@[simp] theorem State.setHc_curBench (k : Nat) (h : Hc) : (s.setHc k h).curBench = s.curBench := rfl
@[simp] theorem State.setLaunch_curCore (k : Nat) (l : Launch) : (s.setLaunch k l).curCore = s.curCore := rfl
@[simp] theorem State.setLaunch_curBench (k : Nat) (l : Launch) : (s.setLaunch k l).curBench = s.curBench := rfl
@[simp] theorem State.setLaunch_strand (k : Nat) (l : Launch) : (s.setLaunch k l).strand = s.strand := rfl
@[simp] theorem State.setFn_curCore (k : Nat) (f : HostFn) : (s.setFn k f).curCore = s.curCore := rfl
@[simp] theorem State.setFn_curBench (k : Nat) (f : HostFn) : (s.setFn k f).curBench = s.curBench := rfl
@[simp] theorem State.setFn_strand (k : Nat) (f : HostFn) : (s.setFn k f).strand = s.strand := rfl
@[simp] theorem State.setLink_curCore (k : Nat) (l : TrobinLink) : (s.setLink k l).curCore = s.curCore := rfl
@[simp] theorem State.setLink_curBench (k : Nat) (l : TrobinLink) : (s.setLink k l).curBench = s.curBench := rfl
@[simp] theorem State.setLink_strand (k : Nat) (l : TrobinLink) : (s.setLink k l).strand = s.strand := rfl
@[simp] theorem State.setIssue_curCore (r : IssueResult) : (s.setIssue r).curCore = s.curCore := rfl
@[simp] theorem State.setIssue_curBench (r : IssueResult) : (s.setIssue r).curBench = s.curBench := rfl
@[simp] theorem State.setIssue_strand (r : IssueResult) : (s.setIssue r).strand = s.strand := rfl
@[simp] theorem State.setMem_curCore (m : Memory) : (s.setMem m).curCore = s.curCore := rfl
@[simp] theorem State.setMem_curBench (m : Memory) : (s.setMem m).curBench = s.curBench := rfl
@[simp] theorem State.setMem_strand (m : Memory) : (s.setMem m).strand = s.strand := rfl
@[simp] theorem State.setMgc_curCore (m : Mgc) : (s.setMgc m).curCore = s.curCore := rfl
@[simp] theorem State.setMgc_curBench (m : Mgc) : (s.setMgc m).curBench = s.curBench := rfl
@[simp] theorem State.setMgc_strand (m : Mgc) : (s.setMgc m).strand = s.strand := rfl
@[simp] theorem State.setPkg_curCore (p : Package) : (s.setPkg p).curCore = s.curCore := rfl
@[simp] theorem State.setPkg_curBench (p : Package) : (s.setPkg p).curBench = s.curBench := rfl
@[simp] theorem State.setPkg_strand (p : Package) : (s.setPkg p).strand = s.strand := rfl
@[simp] theorem State.setCtl_curCore (c : Controller) : (s.setCtl c).curCore = s.curCore := rfl
@[simp] theorem State.setCtl_curBench (c : Controller) : (s.setCtl c).curBench = s.curBench := rfl
@[simp] theorem State.setCtl_strand (c : Controller) : (s.setCtl c).strand = s.strand := rfl
@[simp] theorem State.setCtx_curCore (c : Nat) (x : Ctx) : (s.setCtx c x).curCore = s.curCore := rfl
@[simp] theorem State.setCtx_curBench (c : Nat) (x : Ctx) : (s.setCtx c x).curBench = s.curBench := rfl
@[simp] theorem State.setCtx_strand (c : Nat) (x : Ctx) : (s.setCtx c x).strand = s.strand := rfl
@[simp] theorem State.setAgenda_curCore (a : List Turn) : (s.setAgenda a).curCore = s.curCore := rfl
@[simp] theorem State.setAgenda_curBench (a : List Turn) : (s.setAgenda a).curBench = s.curBench := rfl
@[simp] theorem State.setAgenda_strand (a : List Turn) : (s.setAgenda a).strand = s.strand := rfl
@[simp] theorem State.setStrand_curCore (t : Strand) : (s.setStrand t).curCore = s.curCore := rfl
@[simp] theorem State.setStrand_curBench (t : Strand) : (s.setStrand t).curBench = s.curBench := rfl
@[simp] theorem State.setStrandAt_curCore (f : Focus) (t : Option Strand) : (s.setStrandAt f t).curCore = s.curCore := rfl
@[simp] theorem State.setStrandAt_curBench (f : Focus) (t : Option Strand) : (s.setStrandAt f t).curBench = s.curBench := rfl
@[simp] theorem State.setCurCore_curBench (c : Core) : (s.setCurCore c).curBench = s.curBench := rfl
@[simp] theorem State.setCurCore_strand (c : Core) : (s.setCurCore c).strand = s.strand := rfl
@[simp] theorem State.setCurBench_curCore (b : Bench) : (s.setCurBench b).curCore = s.curCore := rfl
@[simp] theorem State.setCurBench_strand (b : Bench) : (s.setCurBench b).strand = s.strand := rfl
@[simp] theorem State.nextTicket_curCore : s.nextTicket.curCore = s.curCore := rfl
@[simp] theorem State.nextTicket_curBench : s.nextTicket.curBench = s.curBench := rfl
@[simp] theorem State.nextTicket_strand : s.nextTicket.strand = s.strand := rfl
@[simp] theorem State.nextFresh_curCore : s.nextFresh.curCore = s.curCore := rfl
@[simp] theorem State.nextFresh_curBench : s.nextFresh.curBench = s.curBench := rfl
@[simp] theorem State.nextFresh_strand : s.nextFresh.strand = s.strand := rfl

end Sys2Proof.Machine
end

