-- ==== Sys2Proof/Laws/Memory.lean ====
section
/-! SUPPORT. Bytes and lines: a line gives back the bytes set in it and keeps the others; writes of global memory, of
scratchpads and of bench memory keep the canonical form. -/

namespace Sys2Proof.Machine

/-! ## Bytes of numbers -/

@[simp] theorem natToBytes_length (w n : Nat) : (natToBytes w n).length = n := by
  induction n generalizing w with
  | zero => rfl
  | succ n ih => simp [natToBytes, ih]

theorem bytesToNat_lt (bs : List Byte) : bytesToNat bs < 2 ^ (8 * bs.length) := by
  induction bs with
  | nil => simp [bytesToNat]
  | cons b bs ih =>
    have hb := b.isLt
    have e : 2 ^ (8 * (b :: bs).length) = 256 * 2 ^ (8 * bs.length) := by
      rw [List.length_cons, Nat.mul_add, Nat.pow_add]; omega
    rw [e, bytesToNat]; omega

theorem bytesToNat_natToBytes (w n : Nat) : bytesToNat (natToBytes w n) = w % 2 ^ (8 * n) := by
  induction n generalizing w with
  | zero => simp [natToBytes, bytesToNat, Nat.mod_one]
  | succ n ih =>
    have e : 2 ^ (8 * (n + 1)) = 256 * 2 ^ (8 * n) := by rw [Nat.mul_add, Nat.pow_add]; omega
    rw [natToBytes, bytesToNat, ih, e, Nat.mod_mul]
    simp

theorem natToBytes_bytesToNat (bs : List Byte) : natToBytes (bytesToNat bs) bs.length = bs := by
  induction bs with
  | nil => rfl
  | cons b bs ih =>
    have hb := b.isLt
    have h1 : (b.toNat + 256 * bytesToNat bs) / 256 = bytesToNat bs := by omega
    have h2 : BitVec.ofNat 8 (b.toNat + 256 * bytesToNat bs) = b := by
      apply BitVec.eq_of_toNat_eq; simp; omega
    rw [List.length_cons, bytesToNat, natToBytes, h1, h2, ih]

/-! ## Lines -/

theorem natToBytes_getElem (w n i : Nat) (h : i < (natToBytes w n).length) :
    (natToBytes w n)[i] = BitVec.ofNat 8 (w / 2 ^ (8 * i)) := by
  induction n generalizing w i with
  | zero => simp [natToBytes] at h
  | succ n ih =>
    cases i with
    | zero => simp [natToBytes]
    | succ i =>
      simp only [natToBytes, List.getElem_cons_succ]
      rw [ih, Nat.div_div_eq_div_mul]
      congr 2
      rw [show 8 * (i + 1) = 8 + 8 * i by omega, Nat.pow_add]

theorem lineBytes_getElem {w : Nat} (d : BitVec w) (off n i : Nat) (h : i < (lineBytes d off n).length) :
    (lineBytes d off n)[i] = d.extractLsb' (8 * (off + i)) 8 := by
  simp only [lineBytes]
  rw [natToBytes_getElem, Nat.div_div_eq_div_mul, ← Nat.pow_add]
  apply BitVec.eq_of_toNat_eq
  simp [BitVec.extractLsb'_toNat, Nat.shiftRight_eq_div_pow, Nat.mul_add]

@[simp] theorem lineBytes_length {w : Nat} (d : BitVec w) (off n : Nat) : (lineBytes d off n).length = n := by
  simp [lineBytes]

theorem bytesToNat_testBit (bs : List Byte) (k : Nat) :
    (bytesToNat bs).testBit k = (bs.getD (k / 8) 0).getLsbD (k % 8) := by
  induction bs generalizing k with
  | nil => simp [bytesToNat]
  | cons b bs ih =>
    have hb := b.isLt
    rw [bytesToNat, show b.toNat + 256 * bytesToNat bs = 2 ^ 8 * bytesToNat bs + b.toNat by omega,
      Nat.testBit_two_pow_mul_add _ hb]
    by_cases h : k < 8
    · have h1 : k / 8 = 0 := by omega
      have h2 : k % 8 = k := by omega
      simp [h, h1, h2, BitVec.getLsbD]
    · have h1 : k / 8 = (k - 8) / 8 + 1 := by omega
      have h2 : k % 8 = (k - 8) % 8 := by omega
      simp [h, ih, h1, h2]

/-- One bit of a line after bytes were set in it. -/
theorem lineSet_getLsbD {w : Nat} (d : BitVec w) (off : Nat) (bs : List Byte) (k : Nat) (hk : k < w) :
    (lineSet d off bs).getLsbD k =
      if 8 * off ≤ k ∧ k < 8 * (off + bs.length) then (bs.getD ((k - 8 * off) / 8) 0).getLsbD ((k - 8 * off) % 8)
      else d.getLsbD k := by
  have hlt := bytesToNat_lt bs
  have hmask : ((2 ^ (8 * bs.length) - 1) * 2 ^ (8 * off)).testBit k = decide (8 * off ≤ k ∧ k < 8 * (off + bs.length)) := by
    rw [Nat.testBit_mul_two_pow, Nat.testBit_two_pow_sub_one]
    by_cases h : 8 * off ≤ k <;> simp [h] <;> omega
  have hval : (bytesToNat bs * 2 ^ (8 * off)).testBit k =
      (decide (8 * off ≤ k) && (bs.getD ((k - 8 * off) / 8) 0).getLsbD ((k - 8 * off) % 8)) := by
    rw [Nat.testBit_mul_two_pow, bytesToNat_testBit]
  simp only [lineSet, BitVec.getLsbD_or, BitVec.getLsbD_and, BitVec.getLsbD_not, BitVec.getLsbD_ofNat, hk, decide_true,
    Bool.true_and, hmask, hval]
  by_cases h1 : 8 * off ≤ k
  · by_cases h2 : k < 8 * (off + bs.length)
    · simp [h1, h2]
    · have h3 : bs[(k - 8 * off) / 8]? = none := List.getElem?_eq_none (by omega)
      simp [h1, h2, h3]
  · simp [h1]

theorem lineSet_byte {w : Nat} (d : BitVec w) (off : Nat) (bs : List Byte) (j : Nat) (hj : 8 * j + 8 ≤ w) :
    (lineSet d off bs).extractLsb' (8 * j) 8 =
      if off ≤ j ∧ j < off + bs.length then bs.getD (j - off) 0 else d.extractLsb' (8 * j) 8 := by
  apply BitVec.eq_of_getLsbD_eq
  intro i hi
  rw [BitVec.getLsbD_extractLsb']
  simp only [hi, decide_true, Bool.true_and]
  rw [lineSet_getLsbD _ _ _ _ (by omega)]
  by_cases h : off ≤ j ∧ j < off + bs.length
  · have h1 : 8 * off ≤ 8 * j + i ∧ 8 * j + i < 8 * (off + bs.length) := by omega
    have h2 : (8 * j + i - 8 * off) / 8 = j - off := by omega
    have h3 : (8 * j + i - 8 * off) % 8 = i := by omega
    simp [h, h1, h2, h3]
  · have h1 : ¬ (8 * off ≤ 8 * j + i ∧ 8 * j + i < 8 * (off + bs.length)) := by omega
    rw [if_neg h1, if_neg h, BitVec.getLsbD_extractLsb']
    simp [hi]

/-- A line gives back the bytes set in it. -/
theorem lineBytes_lineSet {w : Nat} (d : BitVec w) (off : Nat) (bs : List Byte) (h : 8 * (off + bs.length) ≤ w) :
    lineBytes (lineSet d off bs) off bs.length = bs := by
  apply List.ext_getElem (by simp)
  intro i h1 h2
  rw [lineBytes_getElem, lineSet_byte _ _ _ _ (by omega), if_pos (by omega)]
  simp [Nat.add_sub_cancel_left, h2]

/-- A line keeps the bytes outside those set in it. -/
theorem lineBytes_lineSet_ne {w : Nat} (d : BitVec w) (off a n : Nat) (bs : List Byte) (h : 8 * (a + n) ≤ w)
    (out : a + n ≤ off ∨ off + bs.length ≤ a) : lineBytes (lineSet d off bs) a n = lineBytes d a n := by
  apply List.ext_getElem (by simp)
  intro i h1 h2
  simp only [lineBytes_length] at h1
  rw [lineBytes_getElem, lineBytes_getElem, lineSet_byte _ _ _ _ (by omega), if_neg (by omega)]

/-- A part of a line's bytes. -/
theorem lineBytes_drop_take {w : Nat} (d : BitVec w) (base n off m : Nat) (h : off + m ≤ n) :
    ((lineBytes d base n).drop off).take m = lineBytes d (base + off) m := by
  apply List.ext_getElem
  · simp; omega
  · intro i h1 h2
    simp only [List.getElem_take, List.getElem_drop]
    rw [lineBytes_getElem, lineBytes_getElem, Nat.add_assoc]

/-! ## The canonical form of the byte memories -/

theorem memWrite_wf {m : Memory} (pa : Nat) (bs : List Byte) (w : m.wf = true) : (memWrite m pa bs).wf = true := by
  unfold Memory.wf at *
  simp only [memWrite]
  split
  · exact cellWrites_wf _ _ (cellWrites_wf _ _ w)
  · exact cellWrites_wf _ _ w

theorem memWriteSector_wf {m : Memory} (pa : Nat) (bs : List Byte) (p : Bool) (w : m.wf = true) :
    (memWriteSector m pa bs p).wf = true := memWrite_wf pa bs w

theorem writeSectors_wf {m : Memory} (l : LlcLine) (w : m.wf = true) : (writeSectors m l).wf = true := by
  unfold writeSectors
  generalize List.range 8 = is
  induction is generalizing m with
  | nil => exact w
  | cons i is ih =>
    rw [List.foldl_cons]
    apply ih
    split
    · exact memWriteSector_wf _ _ _ w
    · exact w

/-! A record goes to the ring of a function, and to host memory; global memory does not change. -/

@[simp] theorem sendMsix_mem (s : State) (fn vector : Nat) : (sendMsix s fn vector).mem = s.mem := by
  unfold sendMsix; dsimp only; split <;> rfl

@[simp] theorem announce_mem (s : State) (fn : Nat) (k : RingKind) : (announce s fn k).mem = s.mem := by
  unfold announce; dsimp only; split <;> simp

@[simp] theorem deliverRecord_mem (s : State) (fn : Nat) (r : Record) : (deliverRecord s fn r).mem = s.mem := by
  unfold deliverRecord writeRecord; dsimp only; split
  · simp
  · split <;> simp

@[simp] theorem ownerRecord_mem (s : State) (owner va : Nat) : (ownerRecord s owner va).mem = s.mem := by
  simp [ownerRecord]

theorem llcPut_wf {m : Memory} (l : LlcLine) (w : m.wf = true) : (llcPut m l).wf = true := by
  unfold llcPut
  split <;> exact w

theorem writeBack_wf {s : State} (l : LlcLine) (w : s.mem.wf = true) : (writeBack s l).mem.wf = true := by
  unfold writeBack
  split
  · split
    · exact w
    · rwa [ownerRecord_mem]
  · exact writeSectors_wf l w

theorem dropLine_wf {s : State} (l : LlcLine) (w : s.mem.wf = true) : (dropLine s l).mem.wf = true := writeBack_wf l w

theorem cinvLine_wf {s : State} (l : LlcLine) (w : s.mem.wf = true) : (cinvLine s l).mem.wf = true := by
  unfold cinvLine
  split
  · exact llcPut_wf _ (writeBack_wf _ w)
  · exact dropLine_wf _ w

theorem spadWrite_spad_wf (core off : Nat) (bs : List Byte) (full : Bool) (s : State)
    (w : cellsWf (s.core core).spad = true) : cellsWf ((spadWrite core off bs full s).core core).spad = true := by
  simp only [spadWrite, State.core, State.setCore, Table.get_put_same]
  exact cellWrites_wf _ _ w

theorem benchWrite_mem_wf (b off : Nat) (bs : List Byte) (s : State) (w : cellsWf (s.bench b).mem = true) :
    cellsWf ((benchWrite b off bs s).bench b).mem = true := by
  simp only [benchWrite, State.bench, State.setBench, Table.get_put_same]
  exact cellWrites_wf _ _ w

/-! A charged request (R87) changes nothing but the tokens spent, the loans, and the launch's own counts of both. -/

@[simp] theorem chargePort_agenda (w : Who) (va : Nat) (s : State) : (chargePort w va s).agenda = s.agenda := rfl
@[simp] theorem chargePort_cur (w : Who) (va : Nat) (s : State) : (chargePort w va s).cur = s.cur := rfl
@[simp] theorem chargePort_issue (w : Who) (va : Nat) (s : State) : (chargePort w va s).issue = s.issue := rfl
@[simp] theorem chargePort_fresh (w : Who) (va : Nat) (s : State) : (chargePort w va s).fresh = s.fresh := rfl
@[simp] theorem chargePort_ticket (w : Who) (va : Nat) (s : State) : (chargePort w va s).ticket = s.ticket := rfl
@[simp] theorem chargePort_mgc (w : Who) (va : Nat) (s : State) : (chargePort w va s).mgc = s.mgc := rfl
@[simp] theorem chargePort_pkg (w : Who) (va : Nat) (s : State) : (chargePort w va s).pkg = s.pkg := rfl
@[simp] theorem chargePort_fns (w : Who) (va : Nat) (s : State) : (chargePort w va s).fns = s.fns := rfl
@[simp] theorem chargePort_hostMem (w : Who) (va : Nat) (s : State) : (chargePort w va s).hostMem = s.hostMem := rfl
@[simp] theorem chargePort_msix (w : Who) (va : Nat) (s : State) : (chargePort w va s).msix = s.msix := rfl
@[simp] theorem chargePort_mem (w : Who) (va : Nat) (s : State) : (chargePort w va s).mem = s.mem := rfl
@[simp] theorem chargePort_flights (w : Who) (va : Nat) (s : State) : (chargePort w va s).flights = s.flights := rfl
@[simp] theorem chargePort_benches (w : Who) (va : Nat) (s : State) : (chargePort w va s).benches = s.benches := rfl
@[simp] theorem chargePort_cores (w : Who) (va : Nat) (s : State) : (chargePort w va s).cores = s.cores := rfl
@[simp] theorem chargePort_hcs (w : Who) (va : Nat) (s : State) : (chargePort w va s).hcs = s.hcs := rfl
@[simp] theorem chargePort_links (w : Who) (va : Nat) (s : State) : (chargePort w va s).links = s.links := rfl
@[simp] theorem chargePort_ctxs (w : Who) (va : Nat) (s : State) : (chargePort w va s).ctl.ctxs = s.ctl.ctxs := rfl
@[simp] theorem chargePort_ranges (w : Who) (va : Nat) (s : State) : (chargePort w va s).ctl.ranges = s.ctl.ranges := rfl

/-- A request with a token of its own spends it; a launch that caps its context's tokens counts it (R125). -/
theorem payPort_own (w : Who) (va : Nat) (s : State) (h : hasToken s true (sliceOf s va) w.ctx = true)
    (cap : (s.launch w.launch).bwCap = 0) :
    payPort w va s = s.setSpending true (sliceOf s va) w.ctx
      { s.spending true (sliceOf s va) w.ctx with spent := (s.spending true (sliceOf s va) w.ctx).spent + 1 } := by
  simp [payPort, h, cap]

/-- A request with no token and no loan is served without. -/
theorem payPort_none (w : Who) (va : Nat) (s : State) (h : hasToken s true (sliceOf s va) w.ctx = false)
    (hb : borrowToken s true (sliceOf s va) w.ctx = none) : payPort w va s = s := by
  simp [payPort, h, hb]

end Sys2Proof.Machine
end

