-- ==== Sys2Proof/Laws/Ops.lean ====
section
/-! SUPPORT. What the shared operations can do, once for each: the outcomes of a step, an issue, a retirement, a wait, a source,
a destination, the claim, a registration and a record. -/

namespace Sys2Proof.Machine

/-! ## A step -/

/-- A step takes the first turn, or leaves a state without turns as it is. -/
theorem step_nil {s : State} (h : s.agenda = []) : step s = .next s := by simp [step, h]

theorem step_cons {s : State} {t : Turn} {rest : List Turn} (h : s.agenda = t :: rest) :
    step s = takeTurn exec t (s.setAgenda rest) := by simp [step, h]

/-! ## Counters -/

/-- A count changes the counters of its launch, and nothing else of the state. -/
theorem countEvent_eq (s : State) (launch bench event n : Nat) :
    countEvent s launch bench event n = { s with launches := (countEvent s launch bench event n).launches } := rfl

theorem countEvent_launch (s : State) (launch bench event n k : Nat) :
    SameButCounters (s.launch k) ((countEvent s launch bench event n).launch k) := by
  unfold countEvent SameButCounters
  by_cases h : (s.launches.find launch).isSome = true
  · by_cases e : k = launch
    · subst e; rw [State.setLaunch_launch s h]
    · rw [State.setLaunch_launch_ne s e]
  · rw [State.setLaunch_over s (by simpa using h)]

/-! ## Issue -/

variable {s s1 : State} {t : Strand} {f : Slot} {body : Strand → State → Res Flow}

theorem issue_guarded (h : s.strand = some t) (g : t.guard f = false) : issue f s body = retire s .seq := by simp [issue, h, g]

theorem issue_ok (h : Issues s t f) (b : body t s = .ok .seq s1) : issue f s body = retire s1 .seq := by
  simp [issue, h.1, h.2, b]

theorem issue_ended (h : Issues s t f) (b : body t s = .ok .ended s1) : issue f s body = s1.setIssue .ended := by
  simp [issue, h.1, h.2, b]

theorem issue_wait {w : WaitFor} (h : Issues s t f) (b : body t s = .wait w) : issue f s body = beginWait s w (some f) := by
  simp [issue, h.1, h.2, b]

/-- Counts change the launches and the misses of a bench alone. -/
theorem keepCounts_eq (s s1 : State) (launch : Nat) :
    keepCounts s s1 launch = { s with
      launches := (keepCounts s s1 launch).launches, benches := (keepCounts s s1 launch).benches } := by
  unfold keepCounts; dsimp only; split <;> split <;> rfl

@[simp] theorem keepCounts_self (s : State) (launch : Nat) : keepCounts s s launch = s := by simp [keepCounts]

@[simp] theorem keepCounts_cur (s s1 : State) (k : Nat) : (keepCounts s s1 k).cur = s.cur := by rw [keepCounts_eq]
@[simp] theorem keepCounts_hcs (s s1 : State) (k : Nat) : (keepCounts s s1 k).hcs = s.hcs := by rw [keepCounts_eq]
@[simp] theorem keepCounts_core (s s1 : State) (k c : Nat) : (keepCounts s s1 k).core c = s.core c := by rw [keepCounts_eq]; rfl

/-- An operation that did nothing leaves nothing behind. -/
@[simp] theorem onlyMemory_self (s : State) : onlyMemory s s = s := by simp [onlyMemory]

@[simp] theorem onlyMemory_cur (s s1 : State) : (onlyMemory s s1).cur = s.cur := by
  unfold onlyMemory; dsimp only; split <;> simp [State.setCore]

@[simp] theorem onlyMemory_hcs (s s1 : State) : (onlyMemory s s1).hcs = s.hcs := by
  unfold onlyMemory; dsimp only; split <;> simp [State.setCore]

/-- No command is lost or gained by what a suppressed slot leaves behind. -/
theorem onlyMemory_inFlight (s s1 : State) (k : Nat) : ((onlyMemory s s1).core k).inFlight = (s.core k).inFlight := by
  unfold onlyMemory
  dsimp only
  split
  · exact congrArg Core.inFlight (keepCounts_core s s1 _ k)
  · by_cases e : k = s.cur.core
    · subst e; rw [State.setCore_core]; rfl
    · rw [State.setCore_core_ne _ e]; exact congrArg Core.inFlight (keepCounts_core s s1 _ k)

@[simp] theorem pendingVecMem_onlyMemory (s s1 : State) (g : Focus) (t : Strand) :
    pendingVecMem (onlyMemory s s1) g t = pendingVecMem s g t := by
  simp only [pendingVecMem, strandCommands, onlyMemory_inFlight]

/-- What a suppressed slot leaves behind lets no task end, and keeps none from it. -/
@[simp] theorem endWaits_onlyMemory (s s1 : State) (t : Strand) : endWaits (onlyMemory s s1) t = endWaits s t := by
  simp only [endWaits, onlyMemory_cur, pendingVecMem_onlyMemory, taskStrands, inCtxOp, State.strandAt, State.hc, onlyMemory_hcs]

/-- A trap is taken from the state before the instruction; of what the instruction did, global memory, L1 lines that a store had
reached, loans, counts and free values that were used stay. -/
theorem issue_trap {i : TrapInfo} (h : Issues s t f) (p : endWaits s t = false) (b : body t s = .trap i s1) :
    issue f s body = (takeTrap (onlyMemory s s1) s.cur i).setIssue (.trapped i) := by
  simp [issue, h.1, h.2, b, slotTrap, trapAfter, p]

/-- A trap waits for the older vector memory commands of the strand (R309), and for a sibling's context operation (R51). -/
theorem issue_trap_waits {i : TrapInfo} (h : Issues s t f) (p : endWaits s t = true) (b : body t s = .trap i s1) :
    issue f s body = beginWait (onlyMemory s s1) (.trap i) (some f) := by
  simp [issue, h.1, h.2, b, slotTrap, trapAfter, p]

theorem issue_park {g n : Nat} (h : Issues s t f) (p : endWaits s t = false) (b : body t s = .park g n s1) :
    issue f s body = parkHolding (newTouches s s1) g n (onlyMemory s s1) := by
  simp [issue, h.1, h.2, b, slotPark, parkAfter, p]

/-- An instruction with a destination computes, writes D and retires. -/
theorem issueD_ok {body : Strand → State → Res Word} {v : Word} {s2 : State} (h : Issues s t f) (b : body t s = .ok v s1)
    (d : writeSel f.d v s1 = .ok () s2) : issueD f s body = retire s2 .seq := by
  refine issue_ok h ?_
  simp only [b, Res.andThen, d]

/-! ## Retirement and waits -/

/-- Retirement moves the PC of the present strand, ends its wait and counts; nothing else changes. -/
theorem retire_eq (s : State) (go : Flow) :
    retire s go = { s with hcs := (retire s go).hcs, launches := (retire s go).launches, issue := (retire s go).issue } := by
  unfold retire
  cases s.strand <;> rfl

@[simp] theorem retire_mem (s : State) (go : Flow) : (retire s go).mem = s.mem := by rw [retire_eq]
@[simp] theorem retire_cores (s : State) (go : Flow) : (retire s go).cores = s.cores := by rw [retire_eq]
@[simp] theorem retire_benches (s : State) (go : Flow) : (retire s go).benches = s.benches := by rw [retire_eq]
@[simp] theorem retire_fns (s : State) (go : Flow) : (retire s go).fns = s.fns := by rw [retire_eq]
@[simp] theorem retire_flights (s : State) (go : Flow) : (retire s go).flights = s.flights := by rw [retire_eq]
@[simp] theorem retire_ctl (s : State) (go : Flow) : (retire s go).ctl = s.ctl := by rw [retire_eq]
@[simp] theorem retire_cur (s : State) (go : Flow) : (retire s go).cur = s.cur := by rw [retire_eq]
@[simp] theorem retire_core (s : State) (go : Flow) (k : Nat) : (retire s go).core k = s.core k := by rw [retire_eq]; rfl
@[simp] theorem retire_bench (s : State) (go : Flow) (b : Nat) : (retire s go).bench b = s.bench b := by rw [retire_eq]; rfl

theorem retire_issue {go : Flow} (h : s.strand = some t) : (retire s go).issue = .retired := by simp [retire, h]

/-- The strand after it has retired to the next slot. -/
theorem retire_strand (h : s.strand = some t) :
    (retire s .seq).strand = some { t with
      wait := none, firstFetch := false, pc := nextSlot t.pc, group := nextSlot t.pc
      line := if lineOf (nextSlot t.pc) == lineOf t.pc then t.line else none } := by
  simp [retire, h, countEvent]

/-- Beginning to wait changes the strand's wait, the ticket and State.issue alone. -/
theorem beginWait_eq (s : State) (w : WaitFor) (slot : Option Slot) :
    beginWait s w slot = { s with
      hcs := (beginWait s w slot).hcs, ticket := (beginWait s w slot).ticket, issue := .waiting w } := by
  unfold beginWait
  cases s.strand with
  | none => rfl
  | some t => dsimp only; split <;> rfl

@[simp] theorem beginWait_issue (s : State) (w : WaitFor) (slot : Option Slot) : (beginWait s w slot).issue = .waiting w := by
  rw [beginWait_eq]

/-! ## Sources and destinations -/

theorem readSel_x (h : s.strand = some t) (n : Fin 64) : readSel (.x n) s = .ok (t.x n.val) s := by simp [readSel, h]

theorem readSel_k (h : s.strand = some t) (n : Fin 8) : readSel (.k n) s = .ok (if t.k n.val then 1 else 0) s := by
  simp [readSel, h]

theorem writeSel_x (h : s.strand = some t) (n : Fin 64) (v : Word) :
    writeSel (.x n) v s = .ok () (s.setStrand (t.setX n.val v)) := by simp [writeSel, h]

theorem writeSel_k (h : s.strand = some t) (n : Fin 8) (v : Word) :
    writeSel (.k n) v s = .ok () (s.setStrand (t.setK n.val (v != 0))) := by simp [writeSel, h]

/-! ## The claim and range locks -/

/-- The claim is held already, or is taken while it is free and nobody has waited longer, or makes the instruction wait (R168). -/
theorem takeClaim_cases (s : State) :
    (s.curCore.holds s.cur.hc = true ∧ takeClaim s = .ok () s)
      ∨ (s.curCore.claim = none ∧ olderWaiter s s.cur (upFrom (s.cur.core * 8) 8) .claim = false
          ∧ takeClaim s = .ok () (s.setCurCore (claimed s.curCore s.cur.hc)))
      ∨ takeClaim s = .wait .claim := by
  unfold takeClaim
  by_cases h : s.curCore.holds s.cur.hc = true
  · exact .inl ⟨h, by simp [h]⟩
  · refine .inr ?_
    simp only [h]
    cases c : s.curCore.claim with
    | some n => exact .inr (by simp)
    | none =>
      cases o : olderWaiter s s.cur (upFrom (s.cur.core * 8) 8) .claim
      · exact .inl ⟨rfl, rfl, by simp⟩
      · exact .inr (by simp)

/-- Ranges are registered where every table takes them and no conflicting wait is older, or the instruction waits (R112). -/
theorem register_cases (t : Strand) (wants : List (Nat × Span)) (op : LockOp) (s : State) :
    (wants = [] ∧ register t wants op s = .ok () s)
      ∨ (tablesFree s wants = true
          ∧ registersLater s (some s.cur.key) (waitTicket s s.cur.key (.register wants)) wants = false
          ∧ register t wants op s = .ok () (addLocks s wants op t.launch t.message.key))
      ∨ register t wants op s = .wait (.register wants) := by
  unfold register
  cases wants with
  | nil => exact .inl ⟨rfl, rfl⟩
  | cons w ws =>
    refine .inr ?_
    cases a : tablesFree s (w :: ws)
    · exact .inr (by simp)
    · cases b : registersLater s (some s.cur.key) (waitTicket s s.cur.key (.register (w :: ws))) (w :: ws)
      · exact .inl ⟨rfl, rfl, by simp⟩
      · exact .inr (by simp)

/-- Registering changes lock tables and the ticket alone. -/
theorem addLocks_eq (wants : List (Nat × Span)) (op : LockOp) (launch task : Nat) : ∀ s : State,
    addLocks s wants op launch task = { s with
      benches := (addLocks s wants op launch task).benches, ticket := (addLocks s wants op launch task).ticket } := by
  induction wants with
  | nil => intro s; rfl
  | cons w ws ih =>
    intro s
    have e : addLocks s (w :: ws) op launch task = addLocks (addLock op launch task s w) ws op launch task := rfl
    rw [e, ih]; rfl

/-! ## Rings and records -/

/-- A message of the host interface is sent, or its vector is pending. -/
theorem sendMsix_eq (s : State) (fn vector : Nat) :
    sendMsix s fn vector = { s with fns := (sendMsix s fn vector).fns, msix := (sendMsix s fn vector).msix } := by
  unfold sendMsix; dsimp only; split <;> rfl

theorem announce_eq (s : State) (fn : Nat) (k : RingKind) :
    announce s fn k = { s with fns := (announce s fn k).fns, msix := (announce s fn k).msix } := by
  unfold announce; dsimp only
  split
  · rw [sendMsix_eq]; rfl
  · rfl

/-- A record changes its function, host memory and the messages sent, and nothing else. -/
theorem deliverRecord_eq (s : State) (fn : Nat) (r : Record) :
    deliverRecord s fn r = { s with
      fns := (deliverRecord s fn r).fns, hostMem := (deliverRecord s fn r).hostMem, msix := (deliverRecord s fn r).msix } := by
  unfold deliverRecord writeRecord; dsimp only
  split
  · rw [announce_eq]; rfl
  · split
    · rw [announce_eq]; rfl
    · rfl

/-- So does a completion. -/
theorem postCompletion_eq (s : State) (fn : Nat) (c : Completion) :
    postCompletion s fn c = { s with
      fns := (postCompletion s fn c).fns, hostMem := (postCompletion s fn c).hostMem, msix := (postCompletion s fn c).msix } := by
  unfold postCompletion writeCompletion; dsimp only
  split
  · rw [announce_eq]; rfl
  · rfl

/-- The records of class 6 change no more than records do, and the ticket. -/
theorem postClass6_eq (s : State) (t : TrapInfo) (roots : List Nat) (place4 : Word) :
    ∃ fns hostMem msix ticket, postClass6 s t roots place4 =
      { s with fns := fns, hostMem := hostMem, msix := msix, ticket := ticket } := by
  have one (s : State) (fn : Nat) (r : Record) : ∃ fns hostMem msix ticket, deliverRecord s.nextTicket fn r =
      { s with fns := fns, hostMem := hostMem, msix := msix, ticket := ticket } := ⟨_, _, _, _, by rw [deliverRecord_eq]; rfl⟩
  have all (g : State → Nat → Record) (h : State → Nat → Nat) (rs : List Nat) : ∀ s : State, ∃ fns hostMem msix ticket,
      rs.foldl (fun s r => deliverRecord s.nextTicket (h s r) (g s r)) s =
        { s with fns := fns, hostMem := hostMem, msix := msix, ticket := ticket } := by
    induction rs with
    | nil => exact fun s => ⟨_, _, _, _, rfl⟩
    | cons r rs ih =>
      intro s
      obtain ⟨a, b, c, d, e⟩ := one s (h s r) (g s r)
      obtain ⟨a1, b1, c1, d1, e1⟩ := ih (deliverRecord s.nextTicket (h s r) (g s r))
      exact ⟨a1, b1, c1, d1, by rw [List.foldl_cons, e1, e]⟩
  unfold postClass6; dsimp only
  obtain ⟨a, b, c, d, e⟩ := all (fun s r => mkRecord s s.ticket t r r {} noId noId (place 52 12 r ||| place4))
    (fun s r => fnFor s r) roots s
  obtain ⟨a1, b1, c1, d1, e1⟩ := one (roots.foldl (fun s r => deliverRecord s.nextTicket (fnFor s r)
    (mkRecord s s.ticket t r r {} noId noId (place 52 12 r ||| place4))) s) 0 _
  exact ⟨a1, b1, c1, d1, by rw [e1, e]⟩

/-- A trap of a strand that may end is taken; another strand waits with it. -/
theorem trapAfter_taken {s : State} {t : Strand} (slot : Option Slot) (i : TrapInfo) (h : endWaits s t = false) :
    trapAfter slot t i s = (takeTrap s s.cur i).setIssue (.trapped i) := by simp [trapAfter, h]

theorem trapAfter_waits {s : State} {t : Strand} (slot : Option Slot) (i : TrapInfo) (h : endWaits s t = true) :
    trapAfter slot t i s = beginWait s (.trap i) slot := by simp [trapAfter, h]

@[simp] theorem parkHolding_issue (held : List (Nat × Nat)) (g b : Nat) (s : State) :
    (parkHolding held g b s).issue = .parked g b held := rfl

/-- A park of a strand that may end is taken; another strand waits with it, and with the TOUCH holds of its slot. -/
theorem parkAfter_taken {s : State} {t : Strand} (slot : Option Slot) (held : List (Nat × Nat)) (g b : Nat)
    (h : endWaits s t = false) : parkAfter slot t held g b s = parkHolding held g b s := by simp [parkAfter, h]

theorem parkAfter_waits {s : State} {t : Strand} (slot : Option Slot) (held : List (Nat × Nat)) (g b : Nat)
    (h : endWaits s t = true) :
    parkAfter slot t held g b s = beginWait (held.foldl touchBlock s) (.park g b held) slot := by simp [parkAfter, h]

/-- A strand that may end has no older vector memory command, and no sibling of it performs a context operation. -/
theorem endWaits_false {s : State} {t : Strand} (p : pendingVecMem s s.cur t = false)
    (h : (taskStrands s t.launch t.message.key).any (inCtxOp s) = false) : endWaits s t = false := by
  simp only [endWaits, p, Bool.false_or, List.any_eq_false, Bool.not_eq_true] at h ⊢
  intro f hf
  simp [h f hf]

/-- A TOUCH hold changes the block's count and the strand's list, and nothing else. -/
theorem touchBlock_eq (s : State) (gb : Nat × Nat) :
    touchBlock s gb = { s with hcs := (touchBlock s gb).hcs, launches := (touchBlock s gb).launches } := by
  unfold touchBlock
  split
  · rfl
  · split <;> rfl

end Sys2Proof.Machine
end

