-- ==== Sys2Proof/Tests/Slice0.lean ====
section
/-! SUPPORT. Tests: ill-formed slots, words written out from the encodings of the spec, single steps, and for each statement
states that meet its hypotheses. Every expected value comes from the spec. -/

open Sys2Proof Sys2Proof.Machine

namespace Sys2Proof.Tests

set_option Elab.async false

/-! ## The small machine of the tests -/

/-- A slot with a space and a type. -/
def typed (t : Ty) (d a b : Sel) : Slot := { slot3 d a b with ty := t }

/-- A strand of the task whose message key is 5, in slot 0 of the line at 0x10000. -/
def strand0 : Strand :=
  { message := { key := 5 }, pc := 0x10000, transfer := none, firstFetch := false, xs := [(1, 7), (2, 3)] }

/-- A launch of context 1 on one bench: two ranks, two handlers, a queue q8, one step, one task. -/
def launch0 : Launch :=
  { ctx := 1, header := [0, place 56 8 1 ||| place 44 12 1 ||| place 32 6 3, 0, 0, place 48 16 1 ||| place 36 12 1, 0, 0, 0, 0, 100]
    handlers := [0x20000, 0x30000], tasks := [(5, { live := 1 })]
    mailboxes := [(0, [{ key := 5, active := true }])]
    ranks := [(0, { st := 1, seat := 0 }), (1, { st := 1, seat := 1 })] }

/-- The main domain is on; contexts 1 and its child 2; one strand on bench 0, seat 0, context 0. -/
def world : State :=
  { State.reset with
    mgc := { inputPower := true, standby := true, mainOn := true, boot := .operational }
    pkg := { columns := [{ phys := 0, rows := [0, 1, 2] }], hbm := 384, lp := 48, published := true, hostUp := true }
    ctl := { ctxs := [(1, { depth := 1, st := .running, benches := some { x := 0, y := 0, w := 1, h := 1 } }),
                      (2, { parent := 1, depth := 2 })] }
    launches := [(0, launch0)]
    hcs := [(0, { strand := some strand0 })] }

/-- The machine with another strand, core 0, bench 0 or launch 0. -/
def withStrand (t : Strand) : State := { world with hcs := [(0, { strand := some t })] }
def withCore (c : Core) : State := { world with cores := [(0, c)] }
def withBench (b : Bench) : State := { world with benches := [(0, b)] }
def withLaunch (l : Launch) : State := { world with launches := [(0, l)] }

/-- A result that is `ok`, with what it holds. -/
def okHas {α : Type} (r : Res α) (p : α → State → Bool) : Bool :=
  match r with
  | .ok a s => p a s
  | _ => false

theorem ok_of_okHas {α : Type} {r : Res α} {p : α → State → Bool} (h : okHas r p = true) : ∃ a s, r = .ok a s ∧ p a s = true := by
  cases r with
  | ok a s => exact ⟨a, s, rfl, h⟩
  | _ => simp [okHas] at h

/-- A next state, with what it holds. -/
def nextHas (o : Out) (p : State → Bool) : Bool :=
  match o with
  | .next s => p s
  | _ => false

theorem next_of_nextHas {o : Out} {p : State → Bool} (h : nextHas o p = true) : ∃ s, o = .next s ∧ p s = true := by
  cases o with
  | next s => exact ⟨s, rfl, h⟩
  | _ => simp [nextHas] at h

/-- The register x3 after an instruction that retires. -/
def x3 (o : Out) : Option Word :=
  match o with
  | .next s => if s.issue = .retired then s.strand.map (·.x 3) else none
  | _ => none

/-! ## Ill-formed slots, one for each check (R238, R239, R246, R247) -/

theorem test_rejects_guard_not_k0 : slotError 0x01 { slot3 (.x 3) (.x 1) (.x 2) with gn := true } = some .illegalOperand := by decide
theorem test_rejects_selectors :
    slotError 0x01 (slot3 (.k 1) (.x 1) (.x 2)) = some .illegalOperand
      ∧ slotError 0x01 (slot3 (.x 3) (.v 1) (.x 2)) = some .illegalOperand
      ∧ slotError 0x01 (slot3 (.x 3) (.x 1) (.q 6)) = some .illegalOperand
      ∧ slotError 0x22 (slot3 (.x 3) (.x 1) (.x 2)) = some .illegalOperand
      ∧ slotError 0x01 (slot3 (.q 2) (.x 1) (.x 2)) = some .illegalOperand := by decide
theorem test_rejects_unused_selector : slotError 0x1C (slot3 (.x 3) (.x 1) (.x 2)) = some .illegalOperand := by decide
theorem test_rejects_odd_pair :
    slotError 0x8D { slot3 (.x 5) (.x 1) (.x 0) with space := .g } = some .illegalOperand
      ∧ slotError 0x8D (slot3 (.x 0) (.x 1) (.x 0)) = some .illegalOperand := by decide
theorem test_rejects_type :
    slotError 0x30 (typed .i32 (.x 3) (.x 1) (.x 2)) = some .illegalOperand
      ∧ slotError 0x01 (typed .i32 (.x 3) (.x 1) (.x 2)) = some .illegalOperand := by decide
theorem test_rejects_space : slotError 0x5F { slot3 (.x 0) (.x 1) (.x 0) with space := .s } = some .illegalOperand := by decide
theorem test_rejects_order :
    slotError 0x58 { typed .i64 (.x 3) (.x 1) (.x 0) with order := .rel } = some .illegalOperand
      ∧ slotError 0x59 { typed .i64 (.x 0) (.x 1) (.x 2) with order := .acq } = some .illegalOperand := by decide
theorem test_rejects_scope : slotError 0x01 { slot3 (.x 3) (.x 1) (.x 2) with scope := .pkg } = some .illegalOperand := by decide
theorem test_rejects_rounding : slotError 0x36 { typed .f32 (.x 3) (.x 1) (.x 2) with rnd := .rup } = some .illegalOperand := by decide
theorem test_rejects_hint : slotError 0x58 { typed .i64 (.x 3) (.x 1) (.x 0) with hint := true } = some .illegalOperand := by decide
theorem test_rejects_immediate :
    slotError 0x01 { slot3 (.x 3) (.x 1) (.x 2) with imm := 1 } = some .illegalOperand
      ∧ slotError 0x02 { slot3 (.x 3) (.x 1) (.x 0) with imm := 0x100000000 } = some .illegalOperand := by decide
theorem test_rejects_integer_conversion : slotError 0x39 { typed .i32 (.x 3) (.x 1) (.x 0) with m := 4 } = some .illegalOperand := by decide
theorem test_rejects_asrc : slotError 0xD0 { typed .bf16 (.acc 0) (.x 1) (.x 2) with imm := 0x0C000000 } = some .illegalOperand := by decide
theorem test_rejects_space_beside_local : slotError 0x58 { typed .i64 (.x 3) (.x 1) (.x 0) with c := .msg, space := .s } = some .illegalOperand := by decide
theorem test_rejects_variant :
    slotError 0x23 { slot3 (.x 3) (.x 1) (.x 2) with m := 10 } = some .illegalOp
      ∧ slotError 0xB0 { typed .f32 (.v 0) (.v 1) (.v 2) with m := 1 } = some .illegalOp
      ∧ slotError 0x23 { slot3 (.v 3) (.x 1) (.x 2) with m := 10 } = some .illegalOp := by decide
theorem test_rejects_wide_rest : slotError 0x26 { slot3 (.x 3) (.x 0) (.x 0) with imm := 0x10000 } = some .illegalOperand := by decide
theorem test_rejects_walker_word : (Instr.unassignedWalkerWord 0x21230004).wf = false ∧ (Instr.unassignedWalkerWord 0x00000001).wf = true
    ∧ (Instr.unassignedWalkerWord 0xF0000000).wf = true := by decide

/-! ## Decoding: words composed field by field from R231 to R237, R246 and R247 -/

/-- Every word of a list decodes to the instruction beside it, and encodes back. -/
def decodesAs (n : Nat) (ps : List (Nat × Instr)) : Bool :=
  ps.all fun p => decide (decodeTableWord n p.1 = some p.2) && decide (encode p.2 = some (n, p.1)) && p.2.wf

theorem test_decode_integer : decodesAs 96 [
    (0x0103F0100000000000000000, .add (slot3 (.x 63) (.x 1) (.x 0))),
    (0x0313E0202000000000000000, .sub { slot3 (.x 62) (.x 2) (.x 2) with gk := 1 }),
    (0x0423D0348000000000000000, .mul { slot3 (.x 61) (.x 3) (.q 8) with gk := 2 }),
    (0x0533C0406000000000000000, .mulh { slot3 (.x 60) (.x 4) (.x 6) with gk := 3 }),
    (0x0643B0508000000000000000, .mulhu { slot3 (.x 59) (.x 5) (.x 8) with gk := 4 }),
    (0x0753A0648000000000000000, .div { slot3 (.x 58) (.x 6) (.q 8) with gk := 5 }),
    (0x08639070C000000000000000, .divu { slot3 (.x 57) (.x 7) (.x 12) with gk := 6 }),
    (0x09738080E000000000000000, .rem { slot3 (.x 56) (.x 8) (.x 14) with gk := 7 }),
    (0x0A0370948000000000000000, .remu (slot3 (.x 55) (.x 9) (.q 8))),
    (0x0B1360A12000000000000000, .and { slot3 (.x 54) (.x 10) (.x 18) with gk := 1 }),
    (0x0D2350B14000000000000000, .or { slot3 (.x 53) (.x 11) (.x 20) with gk := 2 }),
    (0x0F3340C48000000000000000, .xor { slot3 (.x 52) (.x 12) (.q 8) with gk := 3 }),
    (0x114330D18000000000000000, .shl { slot3 (.x 51) (.x 13) (.x 24) with gk := 4 }),
    (0x135320E1A000000000000000, .shr { slot3 (.x 50) (.x 14) (.x 26) with gk := 5 }),
    (0x156310F48000000000000000, .sra { slot3 (.x 49) (.x 15) (.q 8) with gk := 6 }),
    (0x17730101E000000000000000, .rol { slot3 (.x 48) (.x 16) (.x 30) with gk := 7 }),
    (0x1802F1120000000000000000, .min (slot3 (.x 47) (.x 17) (.x 32))),
    (0x1912E1248000000000000000, .minu { slot3 (.x 46) (.x 18) (.q 8) with gk := 1 }),
    (0x1A22D1324000000000000000, .max { slot3 (.x 45) (.x 19) (.x 36) with gk := 2 }),
    (0x1B32C1426000000000000000, .maxu { slot3 (.x 44) (.x 20) (.x 38) with gk := 3 })] = true := by decide +kernel
theorem test_decode_integer_other : decodesAs 96 [
    (0x02049020000000000000003D, .addi { slot3 (.q 9) (.x 2) (.x 0) with imm := 0x3D }),
    (0x0C0490C0000000000000002C, .andi { slot3 (.q 9) (.x 12) (.x 0) with imm := 0x2C }),
    (0x0E0490E00000000000000031, .ori { slot3 (.q 9) (.x 14) (.x 0) with imm := 0x31 }),
    (0x100491000000000000000030, .xori { slot3 (.q 9) (.x 16) (.x 0) with imm := 0x30 }),
    (0x12049120000000000000002D, .shli { slot3 (.q 9) (.x 18) (.x 0) with imm := 0x2D }),
    (0x140491400000000000000034, .shri { slot3 (.q 9) (.x 20) (.x 0) with imm := 0x34 }),
    (0x160491600000000000000029, .srai { slot3 (.q 9) (.x 22) (.x 0) with imm := 0x29 }),
    (0x1CB1C4000000000000000000, .clz { slot3 (.x 28) (.q 0) (.x 0) with gn := true, gk := 3 }),
    (0x1DB1D4000000000000000000, .ctz { slot3 (.x 29) (.q 0) (.x 0) with gn := true, gk := 3 }),
    (0x1EB1E4000000000000000000, .popc { slot3 (.x 30) (.q 0) (.x 0) with gn := true, gk := 3 }),
    (0x21B214000000000000000000, .bswap { slot3 (.x 33) (.q 0) (.x 0) with gn := true, gk := 3 }),
    (0x1F0010200001000000000F81, .bfx { slot3 (.x 1) (.x 2) (.x 0) with m := 1, imm := 0xF81 }),
    (0x2000102030000000000007DF, .bfi { slot3 (.x 1) (.x 2) (.x 3) with imm := 0x7DF }),
    (0x220010203650000000000000, .sel { slot3 (.x 1) (.x 2) (.x 3) with c := .k 5 }),
    (0x230670203009000000000000, .cmp { slot3 (.k 7) (.x 2) (.x 3) with m := 9 }),
    (0x2400902000050000FFFFFFFF, .cmpi { slot3 (.x 9) (.x 2) (.x 0) with m := 5, imm := 0xFFFFFFFF }),
    (0x250110000000800000000001, .li { slot3 (.x 17) (.x 0) (.x 0) with imm := 0x800000000001 }),
    (0x26012000000000000000FFFF, .lih { slot3 (.x 18) (.x 0) (.x 0) with imm := 0xFFFF }),
    (0x270010203003000000000040, .lea { slot3 (.x 1) (.x 2) (.x 3) with m := 3, imm := 0x40 }),
    (0x280615F00000000000000000, .mov (slot3 (.k 1) (.q 31) (.x 0))),
    (0x290616263004000000000000, .klog { slot3 (.k 1) (.k 2) (.k 3) with m := 4 })] = true := by decide +kernel
theorem test_decode_float : decodesAs 96 [
    (0x300010203000C00200000000, .fadd { slot3 (.x 1) (.x 2) (.x 3) with ty := .f64, rnd := .rne }),
    (0x310010203000B00400000000, .fsub { slot3 (.x 1) (.x 2) (.x 3) with ty := .f32, rnd := .rtz }),
    (0x320010203000A00600000000, .fmul { slot3 (.x 1) (.x 2) (.x 3) with ty := .bf16, rnd := .rup }),
    (0x340010203000C00800000000, .fdiv { slot3 (.x 1) (.x 2) (.x 3) with ty := .f64, rnd := .rdn }),
    (0x330040506070B00000000000, .ffma { slot3 (.x 4) (.x 5) (.x 6) with c := .x 7, ty := .f32 }),
    (0x350040500000C00800000000, .fsqrt { slot3 (.x 4) (.x 5) (.x 0) with ty := .f64, rnd := .rdn }),
    (0x360040506000A00000000000, .fmin { slot3 (.x 4) (.x 5) (.x 6) with ty := .bf16 }),
    (0x370040506000B00000000000, .fmax { slot3 (.x 4) (.x 5) (.x 6) with ty := .f32 }),
    (0x380620506007C00000000000, .fcmp { slot3 (.k 2) (.x 5) (.x 6) with m := 7, ty := .f64 }),
    (0x39001020000C300400000000, .fcvt { slot3 (.x 1) (.x 2) (.x 0) with m := 12, ty := .i32, rnd := .rtz }),
    (0x3A0010200000B00000000000, .fclass { slot3 (.x 1) (.x 2) (.x 0) with ty := .f32 })] = true := by decide +kernel
theorem test_decode_control : decodesAs 96 [
    (0x400000000000000000000000, .nop (slot3 (.x 0) (.x 0) (.x 0))),
    (0x4120000000000000FFFFFFF4, .br { slot3 (.x 0) (.x 0) (.x 0) with gk := 2, imm := 0xFFFFFFF4 }),
    (0x420000300000000000000002, .brx { slot3 (.x 0) (.x 3) (.x 0) with imm := 0x2 }),
    (0x430003E00000000000000000, .jmp (slot3 (.x 0) (.x 62) (.x 0))),
    (0x440000900001000000000000, .call { slot3 (.x 0) (.x 9) (.x 0) with m := 1 }),
    (0x440000000000000000000010, .call { slot3 (.x 0) (.x 0) (.x 0) with imm := 0x10 }),
    (0x450000000000000000000000, .ret (slot3 (.x 0) (.x 0) (.x 0))),
    (0x4600800000000000FFFFFFF8, .loop { slot3 (.x 8) (.x 0) (.x 0) with imm := 0xFFFFFFF8 }),
    (0x470000000001000000000003, .halt { slot3 (.x 0) (.x 0) (.x 0) with m := 1, imm := 0x3 }),
    (0x480000000000000000000000, .trapi (slot3 (.x 0) (.x 0) (.x 0)))] = true := by decide +kernel
theorem test_decode_memory : decodesAs 96 [
    (0x580010200000689000000004, .ld { slot3 (.x 1) (.x 2) (.x 0) with ty := .n16, space := .b, order := .acq, scope := .bench, imm := 0x4 }),
    (0x580010200C90100000000000, .ld { slot3 (.x 1) (.x 2) (.x 0) with c := .cap, ty := .i8 }),
    (0x590000241C703130FFFFFFFC, .st { slot3 (.x 0) (.x 2) (.q 1) with c := .win 7, ty := .i32, order := .rel, scope := .pkg, imm := 0xFFFFFFFC }),
    (0x5A0010200000000100000008, .ldw { slot3 (.x 1) (.x 2) (.x 0) with hint := true, imm := 0x8 }),
    (0x5B0000203000040000000008, .stf { slot3 (.x 0) (.x 2) (.x 3) with space := .s, imm := 0x8 }),
    (0x5C0000200001000000000020, .pref { slot3 (.x 0) (.x 2) (.x 0) with m := 1, imm := 0x20 }),
    (0x5D000000000001A00000000F, .fence { slot3 (.x 0) (.x 0) (.x 0) with order := .ar, scope := .region, imm := 0xF }),
    (0x5E0000102002000000000000, .cinv { slot3 (.x 0) (.x 1) (.x 2) with m := 2 }),
    (0x5F0000100000000000000001, .touch { slot3 (.x 0) (.x 1) (.x 0) with imm := 0x1 })] = true := by decide +kernel
theorem test_decode_atomics : decodesAs 96 [
    (0x700010203000419000000070, .aadd { slot3 (.x 1) (.x 2) (.x 3) with ty := .i64, order := .ar, scope := .bench, imm := 0x70 }),
    (0x710010203000419000000071, .aand { slot3 (.x 1) (.x 2) (.x 3) with ty := .i64, order := .ar, scope := .bench, imm := 0x71 }),
    (0x720010203000419000000072, .aor { slot3 (.x 1) (.x 2) (.x 3) with ty := .i64, order := .ar, scope := .bench, imm := 0x72 }),
    (0x730010203000419000000073, .axor { slot3 (.x 1) (.x 2) (.x 3) with ty := .i64, order := .ar, scope := .bench, imm := 0x73 }),
    (0x760010203000419000000076, .axchg { slot3 (.x 1) (.x 2) (.x 3) with ty := .i64, order := .ar, scope := .bench, imm := 0x76 }),
    (0x740000203001310100000000, .amin { slot3 (.x 0) (.x 2) (.x 3) with m := 1, ty := .i32, order := .rel, hint := true }),
    (0x750010203000323000000000, .amax { slot3 (.x 1) (.x 2) (.x 3) with ty := .i32, order := .sc, scope := .pkg }),
    (0x770040206080808000000000, .acas { slot3 (.x 4) (.x 2) (.x 6) with c := .x 8, ty := .b128, order := .acq }),
    (0x780010203001A00000000000, .afadd { slot3 (.x 1) (.x 2) (.x 3) with m := 1, ty := .bf16 }),
    (0x790010203000C00000000000, .afmin { slot3 (.x 1) (.x 2) (.x 3) with ty := .f64 }),
    (0x7A0010203000B00000000000, .afmax { slot3 (.x 1) (.x 2) (.x 3) with ty := .f32 })] = true := by decide +kernel
theorem test_decode_messages : decodesAs 96 [
    (0x800000108001000000000203, .send { slot3 (.x 0) (.x 1) (.x 8) with m := 1, imm := 0x203 }),
    (0x800000108000080000000803, .send { slot3 (.x 0) (.x 1) (.x 8) with space := .b, imm := 0x803 }),
    (0x810000102030040000000105, .sendm { slot3 (.x 0) (.x 1) (.x 2) with c := .x 3, space := .s, imm := 0x105 }),
    (0x820000102001000000000000, .migrate { slot3 (.x 0) (.x 1) (.x 2) with m := 1 }),
    (0x830000100002000000000000, .spawn { slot3 (.x 0) (.x 1) (.x 0) with m := 2 }),
    (0x840000002001000000000000, .signal { slot3 (.x 0) (.x 0) (.x 2) with m := 1 }),
    (0x850014500000000000000000, .qlen (slot3 (.x 1) (.q 5) (.x 0))),
    (0x860010203C900000003FFFFF, .capnew { slot3 (.x 1) (.x 2) (.x 3) with c := .cap, imm := 0x3FFFFF }),
    (0x870000000000000000000000, .capnext (slot3 (.x 0) (.x 0) (.x 0))),
    (0x880000102000000000000000, .capins (slot3 (.x 0) (.x 1) (.x 2))),
    (0x890000100000000000000000, .capdel (slot3 (.x 0) (.x 1) (.x 0))),
    (0x8A0000102004000000000000, .capset { slot3 (.x 0) (.x 1) (.x 2) with m := 4 }),
    (0x8B001000000D000000000000, .capget { slot3 (.x 1) (.x 0) (.x 0) with m := 13 }),
    (0x8C0000000000000000000000, .capend (slot3 (.x 0) (.x 0) (.x 0))),
    (0x8D03E0200000021000000020, .chunk { slot3 (.x 62) (.x 2) (.x 0) with order := .sc, scope := .bench, imm := 0x20 }),
    (0x8E0007701020000000000000, .barinit { slot3 (.x 0) (.b 15) (.x 1) with c := .x 2 }),
    (0x8F0006900000000000000000, .bararrive (slot3 (.x 0) (.b 1) (.x 0))),
    (0x900006A00000000000000000, .barwait (slot3 (.x 0) (.b 2) (.x 0))),
    (0x910006B04001000000000000, .barexp { slot3 (.x 0) (.b 3) (.x 4) with m := 1 }),
    (0x920000100000000000000000, .clpost (slot3 (.x 0) (.x 1) (.x 0))),
    (0x930010200000000000000000, .rankq (slot3 (.x 1) (.x 2) (.x 0)))] = true := by decide +kernel
theorem test_decode_system : decodesAs 96 [
    (0x980010208000000000000000, .ctxnew (slot3 (.x 1) (.x 2) (.x 8))),
    (0x990010209000000000000000, .ctxgrant (slot3 (.x 1) (.x 2) (.x 9))),
    (0x9A001020A000000000000000, .ctxstart (slot3 (.x 1) (.x 2) (.x 10))),
    (0x9B001020B000000000000000, .ctxstop (slot3 (.x 1) (.x 2) (.x 11))),
    (0x9C001020C000000000000000, .ctxresume (slot3 (.x 1) (.x 2) (.x 12))),
    (0x9D001020D000000000000000, .ctxrevoke (slot3 (.x 1) (.x 2) (.x 13))),
    (0x9E001020E000000000000000, .ctxkill (slot3 (.x 1) (.x 2) (.x 14))),
    (0x9F001020F000000000000000, .ctxquery (slot3 (.x 1) (.x 2) (.x 15))),
    (0xA00010000000000000000103, .sysrd { slot3 (.x 1) (.x 0) (.x 0) with imm := 0x103 }),
    (0xA10000100000000000000007, .syswr { slot3 (.x 0) (.x 1) (.x 0) with imm := 0x7 }),
    (0xA2001000062000000000003F, .perfrd { slot3 (.x 1) (.x 0) (.x 0) with c := .k 2, imm := 0x3F }),
    (0xA30010200002000000000000, .fcrw { slot3 (.x 1) (.x 2) (.x 0) with m := 2 })] = true := by decide +kernel
theorem test_decode_vector : decodesAs 96 [
    (0xB00818203001100000000000, .vadd { slot3 (.v 1) (.v 2) (.x 3) with m := 1, ty := .i8 }),
    (0xB10818203001300000000000, .vsub { slot3 (.v 1) (.v 2) (.x 3) with m := 1, ty := .i32 }),
    (0xB20818203001600000000000, .vmul { slot3 (.v 1) (.v 2) (.x 3) with m := 1, ty := .n16 }),
    (0xB30818283043900600000000, .vfma { slot3 (.v 1) (.v 2) (.v 3) with c := .x 4, m := 3, ty := .f16, rnd := .rup }),
    (0xB40C28283000B00000000100, .vmin { slot3 (.win 2) (.v 2) (.v 3) with ty := .f32, imm := 0x100 }),
    (0xB50818283000500000000000, .vmax { slot3 (.v 1) (.v 2) (.v 3) with ty := .n8 }),
    (0xB60818200001200000000000, .vabs { slot3 (.v 1) (.v 2) (.x 0) with m := 1, ty := .i16 }),
    (0xB70818283009700000000000, .vcmp { slot3 (.v 1) (.v 2) (.v 3) with m := 9, ty := .n32 }),
    (0xB80818283BF0D00000000000, .vsel { slot3 (.v 1) (.v 2) (.v 3) with c := .v 63, ty := .e4m3 }),
    (0xB90818283000400000000000, .vand { slot3 (.v 1) (.v 2) (.v 3) with ty := .i64 }),
    (0xBA0818283000400000000000, .vor { slot3 (.v 1) (.v 2) (.v 3) with ty := .i64 }),
    (0xBB0818283000400000000000, .vxor { slot3 (.v 1) (.v 2) (.v 3) with ty := .i64 }),
    (0xBC0818283000400000000000, .vshl { slot3 (.v 1) (.v 2) (.v 3) with ty := .i64 }),
    (0xBD0818203001100000000000, .vshr { slot3 (.v 1) (.v 2) (.x 3) with m := 1, ty := .i8 }),
    (0xBE082830000BA00200000001, .vcvt { slot3 (.v 2) (.v 3) (.x 0) with m := 11, ty := .bf16, rnd := .rne, imm := 0x1 }),
    (0xBF0848800000B00000000000, .vq { slot3 (.v 4) (.v 8) (.x 0) with ty := .f32 }),
    (0xC00888401000A00000000000, .vdq { slot3 (.v 8) (.v 4) (.x 1) with ty := .bf16 }),
    (0xC10008100005300000000000, .vred { slot3 (.x 0) (.v 1) (.x 0) with m := 5, ty := .i32 }),
    (0xC20818203004B00400000000, .vscan { slot3 (.v 1) (.v 2) (.x 3) with m := 4, ty := .f32, rnd := .rtz }),
    (0xC30828304000500000000000, .vnz { slot3 (.v 2) (.v 3) (.x 4) with ty := .n8 }),
    (0xC40818283001C00000000000, .vshuf { slot3 (.v 1) (.v 2) (.v 3) with m := 1, ty := .f64 }),
    (0xC50818200001200000000005, .vbcast { slot3 (.v 1) (.v 2) (.x 0) with m := 1, ty := .i16, imm := 0x5 }),
    (0xC60840102002040000000040, .vld { slot3 (.v 4) (.x 1) (.x 2) with m := 2, space := .s, imm := 0x40 }),
    (0xC70000188C91000000000108, .vst { slot3 (.x 0) (.x 1) (.v 8) with c := .cap, m := 1, imm := 0x108 }),
    (0xC80810283000380000000000, .vgath { slot3 (.v 1) (.x 2) (.v 3) with ty := .i32, space := .b }),
    (0xC90000283840100000000000, .vscat { slot3 (.x 0) (.x 2) (.v 3) with c := .v 4, ty := .i8 }),
    (0xCA0818200004B00800000000, .vsfu { slot3 (.v 1) (.v 2) (.x 0) with m := 4, ty := .f32, rnd := .rdn }),
    (0xCB0000000000000000000000, .vfence (slot3 (.x 0) (.x 0) (.x 0)))] = true := by decide +kernel
theorem test_decode_matrix : decodesAs 96 [
    (0xD007B0102001B00090010000, .mma { slot3 (.acc 3) (.x 1) (.x 2) with m := 1, ty := .f32, imm := 0x90010000 }),
    (0xD10790102033500000000000, .mmas { slot3 (.acc 1) (.x 1) (.x 2) with c := .x 3, m := 3, ty := .n8 }),
    (0xD207A00000003000F0000000, .mzero { slot3 (.acc 2) (.x 0) (.x 0) with ty := .i32, imm := 0xF0000000 }),
    (0xD30CD0100001000000000000, .mpred { slot3 (.xm 3) (.x 1) (.x 0) with m := 1 }),
    (0xD4000017802BA40000000020, .msta { slot3 (.x 0) (.x 1) (.acc 0) with c := .x 2, m := 11, ty := .bf16, space := .s, imm := 0x20 }),
    (0xD50000000000000000000005, .mlnk { slot3 (.x 0) (.x 0) (.x 0) with imm := 0x5 }),
    (0xD60007B00000000000000000, .mwait (slot3 (.x 0) (.acc 3) (.x 0)))] = true := by decide +kernel
theorem test_decode_copies : decodesAs 96 [
    (0xE00000102030000042000007, .cpy { slot3 (.x 0) (.x 1) (.x 2) with c := .x 3, imm := 0x42000007 }),
    (0xE10000102040000048000001, .cpyx { slot3 (.x 0) (.x 1) (.x 2) with c := .x 4, imm := 0x48000001 }),
    (0xE20780102030A80000010002, .cpymm { slot3 (.acc 0) (.x 1) (.x 2) with c := .x 3, ty := .bf16, space := .b, imm := 0x10002 }),
    (0xE30000102030000040000003, .cpysh { slot3 (.x 0) (.x 1) (.x 2) with c := .x 3, imm := 0x40000003 }),
    (0xE40000102040000058000004, .getx { slot3 (.x 0) (.x 1) (.x 2) with c := .x 4, imm := 0x58000004 }),
    (0xE50000102060000098000005, .placex { slot3 (.x 0) (.x 1) (.x 2) with c := .x 6, imm := 0x98000005 })] = true := by decide +kernel
theorem test_decode_streams_and_walker : decodesAs 96 [
    (0xE80000102000080000000000, .ssopen { slot3 (.x 0) (.x 1) (.x 2) with space := .b }),
    (0xE90000102031000000000000, .ssisect { slot3 (.x 0) (.x 1) (.x 2) with c := .x 3, m := 1 }),
    (0xEA0000102030000000000000, .ssunion { slot3 (.x 0) (.x 1) (.x 2) with c := .x 3 }),
    (0xEB0000102030000000000000, .sscount { slot3 (.x 0) (.x 1) (.x 2) with c := .x 3 }),
    (0xEC0000100000000000000000, .ssnext (slot3 (.x 0) (.x 1) (.x 0))),
    (0xED0000100000000000000000, .ssclose (slot3 (.x 0) (.x 1) (.x 0))),
    (0xF00000102030040000000000, .wload { slot3 (.x 0) (.x 1) (.x 2) with c := .x 3, space := .s }),
    (0xF1000010200000001C3F0E55, .wrun { slot3 (.x 0) (.x 1) (.x 2) with imm := 0x1C3F0E55 }),
    (0xF20000000000000000000000, .wwait (slot3 (.x 0) (.x 0) (.x 0)))] = true := by decide +kernel
theorem test_decode_walker_words : decodesAs 32 [
    (0x00000000, .wnop),
    (0x15800001, .wldi 5 0x800001),
    (0x2123FFFF, .wadd 1 2 3 0xFFFF),
    (0x34530010, .wld 4 5 3 0x10),
    (0x46781234, .wcmp 6 7 8 0x1234),
    (0x509003FF, .wbr 9 0x3FF),
    (0x60AB0001, .wrow 10 11 1),
    (0x70C0FFFF, .wemit 12 0xFFFF),
    (0x80DE0000, .wmeta 13 14),
    (0x90000040, .wflush 0x40),
    (0xA0F00002, .wskip 15 2),
    (0xB0000000, .wend),
    (0xC0000000, .unassignedWalkerWord 0xC0000000)] = true := by decide +kernel
theorem test_decode_unassigned_opcodes : [0x00, 0x2A, 0x3B, 0x49, 0x60, 0x7B, 0x94, 0xA4, 0xCC, 0xD7, 0xE6, 0xEE, 0xF3, 0xFF].all
    (fun op => decide (decodeTableWord 96 (op * 2 ^ 88 + 0xFFFFFFFFFFFF) = some .illegal)) = true := by decide +kernel
theorem test_rejects_reserved_codes :
    [0x010CE0102000000000000000, 0x580030100000428000000000, 0x5800301000004C0000000000, 0x300030102000B00E00000000, 0x580030100000405000000000].all (fun w => decodeTableWord 96 w == none) = true := by decide +kernel

/-! ## Single instructions: expected values from the entries of files 12 to 15, worked out by hand -/

/-- Registers x1 and x2 of the tests' strand. -/
def regs (a b : Word) : State := withStrand { strand0 with xs := [(1, a), (2, b)] }

/-- Global memory with one line present: page at 0x50000 with every right, line 0x50000 all ones in its first 8 bytes. -/
def globalCore : Core :=
  { plb := [{ ctx := 1, base := 0x50000, size := 0x10000, read := true, write := true, execute := true, atomic := true, engine := true
              ord := 0, admitted := true, owner := 1 }] }
def frameless : LlcLine := { line := 0x500, phys := 0x900, owner := 1, valid := 0xFF, dirty := 0, poison := 0, data := 0xFFFFFFFFFFFFFFFF }
def globalMem : Memory := { llc := [frameless] }
def globalRange : RangeEntry := { derived := false, src := 0, base := 0, owner := 1, limit := 15, attr := 31, offset := 0 }
def globalWorld (b : Word) : State :=
  { regs 0x50000 b with cores := [(0, globalCore)], mem := globalMem, ctl := { world.ctl with ranges := [(64 * world.partOf 1, globalRange)] } }

theorem test_add_wraps : x3 (exec (.add (slot3 (.x 3) (.x 1) (.x 2))) (regs 0xFFFFFFFFFFFFFFFF 2)) = some 1 := by decide +kernel
theorem test_sub_order : x3 (exec (.sub (slot3 (.x 3) (.x 1) (.x 2))) (regs 2 5)) = some 0xFFFFFFFFFFFFFFFD := by decide +kernel
theorem test_mulh_signs : x3 (exec (.mulh (slot3 (.x 3) (.x 1) (.x 2))) (regs 0xFFFFFFFFFFFFFFFF 5)) = some 0xFFFFFFFFFFFFFFFF
    ∧ x3 (exec (.mulhu (slot3 (.x 3) (.x 1) (.x 2))) (regs 0xFFFFFFFFFFFFFFFF 5)) = some 4 := by decide +kernel
theorem test_division_corners : x3 (exec (.div (slot3 (.x 3) (.x 1) (.x 2))) (regs 9 0)) = some 0xFFFFFFFFFFFFFFFF
    ∧ x3 (exec (.rem (slot3 (.x 3) (.x 1) (.x 2))) (regs 9 0)) = some 9
    ∧ x3 (exec (.div (slot3 (.x 3) (.x 1) (.x 2))) (regs 0x8000000000000000 0xFFFFFFFFFFFFFFFF)) = some 0x8000000000000000
    ∧ x3 (exec (.rem (slot3 (.x 3) (.x 1) (.x 2))) (regs 0xFFFFFFFFFFFFFFF9 2)) = some 0xFFFFFFFFFFFFFFFF := by decide +kernel
theorem test_shift_counts : x3 (exec (.shl (slot3 (.x 3) (.x 1) (.x 2))) (regs 1 65)) = some 2
    ∧ x3 (exec (.sra (slot3 (.x 3) (.x 1) (.x 2))) (regs 0x8000000000000000 63)) = some 0xFFFFFFFFFFFFFFFF
    ∧ x3 (exec (.rol (slot3 (.x 3) (.x 1) (.x 2))) (regs 0x8000000000000001 1)) = some 3 := by decide +kernel
theorem test_immediate_sign : x3 (exec (.addi { slot3 (.x 3) (.x 1) (.x 0) with imm := 0xFFFFFFFF }) (regs 7 0)) = some 6
    ∧ x3 (exec (.andi { slot3 (.x 3) (.x 1) (.x 0) with imm := 0xFFFFFFF0 }) (regs 0x123456789ABCDEFF 0)) = some 0x123456789ABCDEF0 := by
  decide +kernel
theorem test_bit_counts : x3 (exec (.clz (slot3 (.x 3) (.x 1) (.x 0))) (regs 0 0)) = some 64
    ∧ x3 (exec (.ctz (slot3 (.x 3) (.x 1) (.x 0))) (regs 0x50 0)) = some 4
    ∧ x3 (exec (.popc (slot3 (.x 3) (.x 1) (.x 0))) (regs 0xF0F 0)) = some 8
    ∧ x3 (exec (.bswap (slot3 (.x 3) (.x 1) (.x 0))) (regs 0x0102030405060708 0)) = some 0x0807060504030201 := by decide +kernel
theorem test_bit_fields : x3 (exec (.bfx { slot3 (.x 3) (.x 1) (.x 0) with m := 1, imm := 4 + 3 * 64 }) (regs 0x80 0)) = some 0xFFFFFFFFFFFFFFF8
    ∧ x3 (exec (.bfi { slot3 (.x 3) (.x 1) (.x 2) with imm := 8 + 7 * 64 }) (regs 0x1111 0xAB)) = some 0x11AB := by decide +kernel
theorem test_wide_immediates : x3 (exec (.li { slot3 (.x 3) (.x 0) (.x 0) with imm := 0x800000000000 }) (regs 0 0)) = some 0xFFFF800000000000
    ∧ x3 (exec (.lih { slot3 (.x 3) (.x 0) (.x 0) with imm := 0xABCD }) (regs 0 0)) = some 0xABCD000000000000 := by decide +kernel
theorem test_lea : x3 (exec (.lea { slot3 (.x 3) (.x 1) (.x 2) with m := 3, imm := 0xFFFFFFFF }) (regs 0x1000 5)) = some 0x1027 := by decide +kernel
theorem test_cmp_signed_unsigned : x3 (exec (.cmp { slot3 (.x 3) (.x 1) (.x 2) with m := 2 }) (regs 0xFFFFFFFFFFFFFFFF 1)) = some 1
    ∧ x3 (exec (.cmp { slot3 (.x 3) (.x 1) (.x 2) with m := 6 }) (regs 0xFFFFFFFFFFFFFFFF 1)) = some 0 := by decide +kernel
/-- 1.0 + 2^-53 rounds to even: 1.0, with NX set. 1/0 gives +infinity. -/
theorem test_float_rounding : nextHas (exec (.fadd (typed .f64 (.x 3) (.x 1) (.x 2))) (regs 0x3FF0000000000000 0x3CA0000000000000))
      (fun s => s.strand.any fun t => t.x 3 == 0x3FF0000000000000 && t.fcr == 0x120) = true
    ∧ x3 (exec (.fdiv (typed .f64 (.x 3) (.x 1) (.x 2))) (regs 0x3FF0000000000000 0)) = some 0x7FF0000000000000 := by decide +kernel
theorem test_float_to_integer_saturates : x3 (exec (.fcvt { typed .i32 (.x 3) (.x 1) (.x 0) with m := 12, rnd := .rtz }) (regs 0x41F0000000000000 0)) = some 0x7FFFFFFF
    ∧ x3 (exec (.fclass (typed .f64 (.x 3) (.x 1) (.x 0))) (regs 0xFFF0000000000000 0)) = some 1 := by decide +kernel
theorem test_call_from_slot_4 : nextHas (exec (.call { slot3 (.x 0) (.x 0) (.x 0) with imm := 0xFFFFFFFA }) (withStrand { strand0 with pc := 0x10004 }))
    (fun s => s.strand.any fun t => t.x 63 == 0x10040 && t.pc == 0xFFC2) = true := by decide +kernel
theorem test_loop_counts_down : nextHas (exec (.loop { slot3 (.x 1) (.x 0) (.x 0) with imm := 0 }) (regs 1 0))
      (fun s => s.strand.any fun t => t.x 1 == 0 && t.pc == 0x10001) = true
    ∧ nextHas (exec (.loop { slot3 (.x 1) (.x 0) (.x 0) with imm := 0 }) (regs 0 0))
      (fun s => s.strand.any fun t => t.x 1 == 0xFFFFFFFFFFFFFFFF && t.pc == 0x10000) = true := by decide +kernel
theorem test_false_guard_only_retires : nextHas (exec (.add { slot3 (.x 3) (.x 1) (.x 2) with gk := 1 }) world)
    (fun s => s.strand.any fun t => t.x 3 == 0 && t.pc == 0x10001) = true := by decide +kernel
theorem test_trapi_fails_the_task : nextHas (exec (.trapi (slot3 (.x 0) (.x 0) (.x 0))) world)
    (fun s => s.strand.isNone && (s.launch 0).failed && ((s.launch 0).boxMessage 0 5).isSome && (s.hc 0).cause == BitVec.ofNat 8 (causeCode .trapi)) = true := by decide +kernel
theorem test_load_extends : x3 (exec (.ld { typed .i16 (.x 3) (.x 1) (.x 0) with space := .s }) { regs 8 0 with cores := [(0, { spad := [(8, 0x34), (9, 0xF2)] })] }) = some 0xFFFFFFFFFFFFF234
    ∧ x3 (exec (.ld { typed .n16 (.x 3) (.x 1) (.x 0) with space := .s }) { regs 8 0 with cores := [(0, { spad := [(8, 0x34), (9, 0xF2)] })] }) = some 0xF234 := by decide +kernel
theorem test_store_little_endian : nextHas (exec (.st { typed .i32 (.x 0) (.x 1) (.x 2) with space := .b }) (regs 0x100 0x11223344))
    (fun s => (s.bench 0).mem == [(0x100, 0x44), (0x101, 0x33), (0x102, 0x22), (0x103, 0x11)]) = true := by decide +kernel
theorem test_stf_sets_full : nextHas (exec (.stf { slot3 (.x 0) (.x 1) (.x 2) with space := .s }) (regs 16 7))
    (fun s => (s.core 0).full == [2] && (s.core 0).spad == [(16, 7)]) = true := by decide +kernel
theorem test_ldw_waits_then_takes : nextHas (exec (.ldw (slot3 (.x 3) (.x 1) (.x 0))) (regs 16 0)) (fun s => s.issue == .waiting (.ldw 16)) = true
    ∧ nextHas (exec (.ldw (slot3 (.x 3) (.x 1) (.x 0))) { regs 16 0 with cores := [(0, { spad := [(16, 7)], full := [2] })] })
      (fun s => (s.core 0).full == [] && s.strand.any fun t => t.x 3 == 7) = true := by decide +kernel
theorem test_global_load_and_add : x3 (exec (.ld (typed .i64 (.x 3) (.x 1) (.x 0))) (globalWorld 0)) = some 0xFFFFFFFFFFFFFFFF
    ∧ nextHas (exec (.aadd (typed .i32 (.x 3) (.x 1) (.x 2))) (globalWorld 2))
      (fun s => globalByte s 0x50000 == some 1 && globalByte s 0x50004 == some 0xFF && s.strand.any fun t => t.x 3 == 0xFFFFFFFFFFFFFFFF) = true := by decide +kernel
theorem test_send_waits_in_the_buffer : nextHas (exec (.send { slot3 (.x 0) (.x 1) (.x 2) with m := 1, imm := 0x101 }) (regs 1 9))
    (fun s => s.flights == [] && s.strand.any fun t => t.sends.length == 1) = true := by decide +kernel
theorem test_rank_query : x3 (exec (.rankq (slot3 (.x 3) (.x 1) (.x 0))) (regs 1 0)) = some (0x40000001 : Word) := by decide +kernel
theorem test_vector_add_queues : nextHas (exec (.vadd (typed .i8 (.v 1) (.v 2) (.v 3))) (withCore { claim := some 0 }))
    (fun s => (s.core 0).commands.length == 1 && s.strand.any fun t => t.pc == 0x10001) = true := by decide +kernel

/-! ## States that meet the hypotheses of the statements -/

/-- A slot of three x registers, and one that each test completes. -/
def f3 : Slot := slot3 (.x 3) (.x 1) (.x 2)

theorem issues_world (f : Slot) (h : strand0.guard f = true) : Issues world strand0 f := ⟨rfl, h⟩

theorem test_meets_EncodeThenDecode : (Instr.wbr 15 0xFFFF).wf = true ∧ encode (.wbr 15 0xFFFF) = some (32, 0x50F0FFFF)
    ∧ (Instr.vsel { typed .f6e2 (.v 63) (.v 0) (.x 63) with c := .v 1, gk := 7, gn := true }).wf = true
    ∧ (encode (.vsel { typed .f6e2 (.v 63) (.v 0) (.x 63) with c := .v 1, gk := 7, gn := true })).isSome = true := by decide +kernel
theorem test_meets_DecodeThenEncode : 0xFFFFFFFF < 2 ^ 32 ∧ decodeTableWord 32 0xFFFFFFFF = some (.unassignedWalkerWord 0xFFFFFFFF)
    ∧ 0x450000000000000000000000 < 2 ^ 96 ∧ decodeTableWord 96 0x450000000000000000000000 = some (.ret (slot3 (.x 0) (.x 0) (.x 0))) := by
  decide +kernel

theorem test_meets_StepRunsInstruction_event : (({ world with agenda := [.event {} .watchdog] } : State).agenda = .event {} .watchdog :: [])
    ∧ isEvent .watchdog = true := by decide +kernel
theorem test_meets_StepRunsInstruction_walker : ∃ r rest, (State.reset.withFetchWord 32 0x2123FFFF).agenda = .walker 0 :: rest
    ∧ ((State.reset.withFetchWord 32 0x2123FFFF).bench 0).run = some r := ⟨_, _, rfl, rfl⟩
/-- A placed ADD is fetched, decoded and retired. -/
theorem test_meets_StepRunsInstruction_core : ∃ s1 s2,
    (State.reset.withFetchWord 96 0x010010203000000000000000).agenda = [.core 0 0]
    ∧ (State.reset.withFetchWord 96 0x010010203000000000000000).mgc.mainOn = true
    ∧ (State.reset.withFetchWord 96 0x010010203000000000000000).mgc.throttled = false
    ∧ mayIssue (clocked 0 0 [] (State.reset.withFetchWord 96 0x010010203000000000000000)) {} = true
    ∧ ∃ t, (clocked 0 0 [] (State.reset.withFetchWord 96 0x010010203000000000000000)).strandAt {} = some t ∧ t.wait = none
    ∧ fetchGroup t ((clocked 0 0 [] (State.reset.withFetchWord 96 0x010010203000000000000000)).setCur {}) = .ok (.single (.add (slot3 (.x 1) (.x 2) (.x 3)))) s1
    ∧ exec (.add (slot3 (.x 1) (.x 2) (.x 3))) (s1.setStrand (entered t (.single (.add (slot3 (.x 1) (.x 2) (.x 3)))))) = .next s2
    ∧ s2.issue = .retired := by
  have ⟨t, ht⟩ : ∃ t, (clocked 0 0 [] (State.reset.withFetchWord 96 0x010010203000000000000000)).strandAt {} = some t := ⟨_, rfl⟩
  have ⟨g, s1, h, hp⟩ := ok_of_okHas (r := fetchGroup t ((clocked 0 0 [] (State.reset.withFetchWord 96 0x010010203000000000000000)).setCur {}))
    (p := fun g s1 => decide (g = .single (.add (slot3 (.x 1) (.x 2) (.x 3)))) && nextHas
      (exec (.add (slot3 (.x 1) (.x 2) (.x 3))) (s1.setStrand (entered t (.single (.add (slot3 (.x 1) (.x 2) (.x 3)))))))
      (fun s2 => decide (s2.issue = .retired))) (by cases ht; decide +kernel)
  simp only [Bool.and_eq_true, decide_eq_true_eq] at hp
  obtain ⟨rfl, hn⟩ := hp
  have ⟨s2, h2, hq⟩ := next_of_nextHas hn
  exact ⟨s1, s2, rfl, rfl, rfl, by decide +kernel, t, ht, by cases ht; rfl, h, h2, by simpa using hq⟩

/-- A launch with one block-mapped region over the line that the LLC holds in a frame; its block is ABSENT. -/
def blockLaunch : Launch := { launch0 with regions := [{ thr := 0, base := 0x50000, bsz := 0, frames := 1, pcap := 4, blocks := 1 }] }
def blockWorld : State :=
  { globalWorld 0 with launches := [(0, blockLaunch)], mem := { llc := globalMem.llc.map fun l => { l with frame := true } } }
/-- A pair whose second slot retires, traps, or parks: ADD with LD of a scratchpad, of a misaligned address, of an absent block. -/
theorem test_meets_PairIsOneGroup : nextHas (exec (.add f3) world) (fun s1 => decide (s1.issue = .retired)
      && nextHas (exec (.ld { typed .i64 (.x 4) (.x 0) (.x 0) with space := .s }) (secondSlot strand0 s1)) (fun s3 => decide (s3.issue = .retired))
      && nextHas (exec (.ld { typed .i64 (.x 4) (.x 0) (.x 0) with space := .s, imm := 4 }) (secondSlot strand0 s1))
        (fun s3 => decide (s3.issue = .trapped { cause := .align, addr := some 4 })))
      && nextHas (exec (.add f3) blockWorld) (fun s1 => nextHas (exec (.ld (typed .i64 (.x 4) (.x 1) (.x 0))) (secondSlot strand0 s1))
        (fun s3 => decide (s3.issue = .parked 0 0 []))) = true := by decide +kernel

theorem test_meets_LineAndTransferChecks_target : ({ strand0 with transfer := some 0, pc := 0x10005 } : Strand).transfer = some 0
    ∧ 5 ≤ ((0x10005 : Word).extractLsb' 0 3).toNat ∧ (0x0100000000010000 : Word).extractLsb' 56 8 ≠ 0 ∧ (0x10008 : Word).extractLsb' 3 3 ≠ 0 := by
  decide
/-- A PLB entry of the tests' context over the strand's page, and a line at its PC. -/
def codeEntry (x : Bool) : PlbEntry :=
  { ctx := 1, base := 0x10000, size := 0x10000, read := true, write := false, execute := x, atomic := false, engine := false
    ord := 0, admitted := true, owner := 1 }
def codeWorld (x : Bool) (data : Nat) (t : Strand) : State :=
  { withStrand t with cores := [(0, { plb := [codeEntry x], fetch := [{ line := 0x400, part := 0, data := BitVec.ofNat 512 data }] })] }
/-- Execute refused; a line with a reserved bit of its line word set (and LP with it); a target without its T bit; sequential flow. -/
theorem test_meets_LineAndTransferChecks_line :
    (strand0.pc.toNat < 2 ^ 56 ∧ (∀ src, strand0.transfer = some src → targetFormed strand0.pc = true)
      ∧ ((codeWorld false (lineHolding 0) strand0).core 0).plb.find? (fun p => p.ctx == ((codeWorld false (lineHolding 0) strand0).launch 0).ctx
          && decide (p.base ≤ strand0.pc.toNat) && decide (strand0.pc.toNat < p.base + p.size)) = some (codeEntry false)
      ∧ ((codeWorld false (lineHolding 0) strand0).core 0).fetch.find? (fun l => l.line == lineNumber strand0.pc)
          = some { line := 0x400, part := 0, data := BitVec.ofNat 512 (lineHolding 0) })
    ∧ (lineParityOk (2 ^ (480 + 8) + 2 ^ (480 + 5)) = true ∧ lineTemplateOk (2 ^ (480 + 8) + 2 ^ (480 + 5)) = false)
    ∧ (lineParityOk 0 = true ∧ lineTemplateOk 0 = true ∧ lineT 0 0 = false)
    ∧ (lineParityOk (lineHolding 0) = true ∧ lineTemplateOk (lineHolding 0) = true ∧ lineT (lineHolding 0) 0 = true)
    ∧ (strand0.transfer = none ∧ strand0.line = none) := by
  refine ⟨⟨by decide, by simp [strand0], by decide +kernel, by decide +kernel⟩, ?_, ?_, ?_, rfl, rfl⟩ <;> decide +kernel

theorem test_meets_GuardsAndRetirement : slotParts (.add { f3 with gk := 1 }) = some (1, { f3 with gk := 1 }) ∧ world.strand = some strand0
    ∧ strand0.guard { f3 with gk := 1 } = false ∧ (world.launches.find 0).isSome
    ∧ strand0.pc.extractLsb' 0 3 ≠ 4#3 ∧ (withStrand { strand0 with pc := 0x10004 }).strand = some { strand0 with pc := 0x10004 }
    ∧ (0x10004 : Word).extractLsb' 0 3 = 4#3 := by decide +kernel

/-- q8 with one word, q9 full, q16 not declared. -/
def queueWorld : State := withCore { queues := [(8, [7]), (9, [0, 1, 2, 3, 4, 5, 6, 7])] }
theorem test_meets_OperandForms : queueWorld.strand = some strand0 ∧ queueNamed (queueWorld.launch 0) 8 = true ∧ queueFault strand0 8 = none
    ∧ pendingVecMem queueWorld queueWorld.cur strand0 = false ∧ queueWords queueWorld strand0 8 = [7]
    ∧ olderWaiter queueWorld queueWorld.cur (queueSharers queueWorld.cur 8) (.queueRead 8) = false
    ∧ queueWords queueWorld strand0 10 = [] ∧ queueNamed (queueWorld.launch 0) 16 = false
    ∧ (queueWords queueWorld strand0 8).length < queueDepth (queueWorld.launch 0) 8
    ∧ olderWaiter queueWorld queueWorld.cur (queueSharers queueWorld.cur 8) (.queueWrite 8) = false
    ∧ queueDepth (queueWorld.launch 0) 9 ≤ (queueWords queueWorld strand0 9).length := by decide +kernel

theorem test_meets_IntegerTwoSources : ∃ s3, Issues world strand0 f3 ∧ readSel f3.a world = .ok 7 world ∧ readSel f3.b world = .ok 3 world
    ∧ writeSel f3.d (7 + 3) world = .ok () s3 := ⟨_, ⟨rfl, rfl⟩, rfl, rfl, rfl⟩
theorem test_meets_IntegerTwoSources_corners : Issues (regs 9 0) { strand0 with xs := [(1, 9), (2, 0)] } f3
    ∧ ({ strand0 with xs := [(1, 9), (2, 0)] } : Strand).x 2 = 0
    ∧ Issues (regs 0x8000000000000000 0xFFFFFFFFFFFFFFFF) { strand0 with xs := [(1, 0x8000000000000000), (2, 0xFFFFFFFFFFFFFFFF)] } f3
    ∧ ({ strand0 with xs := [(1, 0x8000000000000000), (2, 0xFFFFFFFFFFFFFFFF)] } : Strand).x 1 = 0x8000000000000000 :=
  ⟨⟨rfl, rfl⟩, rfl, ⟨rfl, rfl⟩, rfl⟩
/-- Reads of x registers leave the state alone, whatever the other fields are; boundary values of IMM32, p + l and the conditions. -/
theorem test_meets_IntegerOtherForms : (∃ s3, Issues world strand0 { f3 with c := .k 7, imm := 63 } ∧ readSel f3.a world = .ok 7 world
      ∧ readSel f3.b world = .ok 3 world ∧ writeSel f3.d 7 world = .ok () s3)
    ∧ imm32 { f3 with imm := 63 } ≤ 63 ∧ fieldPos { f3 with imm := 0xFC0 } + fieldLen { f3 with imm := 0xFC0 } ≤ 64
    ∧ ({ f3 with imm := 0xFFFF } : Slot).imm.extractLsb' 16 32 = 0 ∧ (slot3 (.k 1) (.k 2) (.k 3)).d = .k 1 :=
  ⟨⟨_, ⟨rfl, rfl⟩, rfl, rfl, rfl⟩, by decide, by decide, by decide, rfl⟩
theorem test_meets_OneOperandBits : (∃ s2, Issues world strand0 f3 ∧ readSel f3.a world = .ok 7 world ∧ writeSel f3.d 61 world = .ok () s2)
    ∧ readSel (.x 0) world = .ok 0 world := ⟨⟨_, ⟨rfl, rfl⟩, rfl, rfl⟩, rfl⟩

theorem test_meets_FloatResults : ∃ s4, Issues world strand0 { f3 with ty := .f32 } ∧ readSel f3.a world = .ok 7 world ∧ readSel f3.b world = .ok 3 world
    ∧ readSel f3.c world = .ok 0 world ∧ fmtOf .f32 = some fmtF32 ∧ world.curCore.sfu.length < 32
    ∧ writeSel f3.d 1 (orFlags {} world) = .ok () s4
    ∧ 32 ≤ (withCore { sfu := List.replicate 32 {} }).curCore.sfu.length :=
  ⟨_, ⟨rfl, rfl⟩, rfl, rfl, rfl, rfl, by decide, rfl, by decide⟩
/-- 1.5 in F32; the smallest subnormal of F16 with FTZ off; a tie at k = 1. -/
theorem test_meets_FloatRounding : 0x3FC00000 < 2 ^ fmtF32.bits ∧ decodeFp fmtF32 0x3FC00000 = .fin false 0xC00000 (-23)
    ∧ isSubnormal fmtF32 0x3FC00000 = false ∧ decodeFp fmtF16 0x8001 = .fin true 1 (-24) := by decide +kernel
/-- F32: a quiet and a signaling NaN, infinities, zeros, -1, 1. -/
theorem test_meets_FloatRounding_nan : (readFp fmtF32 false 0x7FC00000).isNan = true ∧ (readFp fmtF32 false 0x7F800001).signals = true
    ∧ readFp fmtF32 false 0x7F800000 = .inf false ∧ readFp fmtF32 false 0xFF800000 = .inf true
    ∧ (∃ e, readFp fmtF32 false 0 = .fin false 0 e) ∧ (∃ m e, readFp fmtF32 false 0xBF800000 = .fin true m e ∧ m ≠ 0)
    ∧ (∃ m e, readFp fmtF32 false 0x3F800000 = .fin false m e ∧ m ≠ 0) :=
  ⟨by decide +kernel, by decide +kernel, by decide +kernel, by decide +kernel, ⟨_, rfl⟩, ⟨_, _, rfl, by decide +kernel⟩, ⟨_, _, rfl, by decide +kernel⟩⟩
theorem test_meets_FloatClass : Issues world strand0 { f3 with ty := .bf16 } ∧ fmtOf .bf16 = some fmtBf16 := ⟨⟨rfl, rfl⟩, rfl⟩
theorem test_meets_ControlTransfers : Issues world strand0 { f3 with m := 1 } ∧ strand0.pc.extractLsb' 0 3 ≠ 4
    ∧ Issues (withStrand { strand0 with pc := 0x10004 }) { strand0 with pc := 0x10004 } f3 := ⟨⟨rfl, rfl⟩, by decide, ⟨rfl, rfl⟩⟩

/-- A trap that fails the task, and one that goes back to its mailbox. -/
theorem test_meets_TrapEntry : Issues world strand0 f3 ∧ pendingVecMem world world.cur strand0 = false ∧ world.strandAt {} = some strand0
    ∧ realHc {} = true ∧ (world.launch 0).boxMessage 0 5 = some { key := 5, active := true } ∧ strand0.message.expiry = 0
    ∧ causeClass .align ≠ 0 ∧ Cause.align ≠ .prot := ⟨⟨rfl, rfl⟩, rfl, rfl, rfl, by decide +kernel, rfl, by decide, by decide⟩

/-- HALT with nothing pending ends; with a matrix command, a walker run, a pending SFU request or a capsule it does not. -/
theorem test_meets_HaltEnds : Issues world strand0 { f3 with m := 1, imm := 255 } ∧ imm32 { f3 with m := 1, imm := 255 } ≤ 255
    ∧ pendingMatrix world {} strand0 = false ∧ pendingRuns world {} strand0 = false ∧ haltTrap strand0 = none
    ∧ strandCommands world {} strand0 = [] ∧ pendingSfu world {} = false ∧ canRelease {} strand0 world = true := by
  refine ⟨⟨rfl, rfl⟩, ?_⟩
  decide +kernel
theorem test_meets_HaltEnds_waits : pendingMatrix (withCore { commands := [{ slot := f3, opcode := 0xD2, task := 5 }] }) {} strand0 = true
    ∧ pendingSfu (withCore { sfu := [{}] }) {} = true
    ∧ haltTrap { strand0 with qs := [(4, [{ word := completionOf stWalker 0 0 }])] } ≠ none
    ∧ strandCommands (withCore { commands := [{ slot := f3, opcode := 0xB0, task := 5 }] }) {} strand0 ≠ [] := by decide +kernel

/-- A strand whose x1 and x2 are given, with a message of two registers' payload and a capsule. -/
def at1 (a : Word) : Strand := { strand0 with xs := [(1, a), (2, 3)] }
def sg (sp : Space) (ty : Ty) : Slot := { f3 with ty := ty, space := sp, b := .x 0 }

/-- Scratchpad, bench memory, message and capsule; the last bytes of each, and a byte inside. -/
theorem test_meets_LocalLoads : Issues (withStrand (at1 0x2FFF8)) (at1 0x2FFF8) (sg .s .i64) ∧ memSpace (sg .s .i64) 0 = .spad 0
    ∧ (xOf (at1 0x2FFF8) (.x 1) + sext32 (sg .s .i64)).toNat + 8 ≤ 0x30000
    ∧ strandCommands (withStrand (at1 0x2FFF8)) {} (at1 0x2FFF8) = [] ∧ ((withStrand (at1 0x2FFF8)).bench 0).locks = []
    ∧ (wordsOf 0x2FFF8 8).any ((withStrand (at1 0x2FFF8)).core 0).spadPoison.contains = false
    ∧ memSpace (sg .b .i64) 0 = .bench ∧ (0x3FF7F8 : Nat) + 8 ≤ 0x3FF800
    ∧ memSpace { sg .g .i8 with c := .msg } 0 = .msg ∧ (255 : Nat) + 1 ≤ 256
    ∧ memSpace { sg .g .i8 with c := .cap } 0 = .cap ∧ (0x108 ≤ 0x108 + 127 ∧ 0x108 + 127 + 1 ≤ 0x108 + capTileBytes {}) :=
  ⟨⟨rfl, rfl⟩, by decide +kernel⟩
/-- One byte past each end; misaligned inside. -/
theorem test_meets_LocalLoads_bounds : Issues (withStrand (at1 196601)) (at1 196601) { sg .s .i64 with b := .x 2 }
    ∧ memSpace (sg .s .i64) 0 = .spad 0 ∧ 196608 < (xOf (at1 196601) (.x 1)).toNat + 8
    ∧ (xOf (at1 4) (.x 1)).toNat + 8 ≤ 196608 ∧ (xOf (at1 4) (.x 1)).toNat % min 8 8 ≠ 0
    ∧ memSpace { sg .g .i64 with c := .msg } 0 = .msg ∧ memSpace (sg .b .i64) 0 = .bench ∧ 1 ≤ tyBits .i64 / 8 :=
  ⟨⟨rfl, rfl⟩, by decide +kernel⟩
theorem test_meets_LocalStores : (withStrand (at1 196600)).memoriesWf = true
    ∧ Issues (withStrand (at1 196600)) (at1 196600) { sg .s .i64 with b := .x 2 }
    ∧ (xOf (at1 196600) (.x 1) + sext32 (sg .s .i64)).toNat % 8 = 0 ∧ (196600 : Nat) + 8 ≤ 196608
    ∧ memSpace { sg .g .i64 with b := .x 2, c := .win 7 } 0 = .spad 7
    ∧ (∃ w, ({ sg .g .i64 with b := .x 2, c := .win 7 } : Slot).c = .win w)
    ∧ memSpace (sg .b .n8) 0 = .bench ∧ (4192255 : Nat) + 1 ≤ 4192256 :=
  ⟨by decide +kernel, ⟨rfl, rfl⟩, by decide +kernel, by decide, rfl, ⟨7, rfl⟩, rfl, by decide⟩
theorem test_meets_LdwWaitsForFull : Issues { withCore { full := [2] } with hcs := [(0, { strand := some (at1 16) })] } (at1 16) { f3 with b := .x 0 }
    ∧ (withCore { full := [2] }).curCore.full.contains (16 / 8) = true ∧ (withCore {}).curCore.full.contains (16 / 8) = false
    ∧ olderWaiter (withCore { full := [2] }) {} (upFrom 0 8) (.ldw 16) = false
    ∧ (withCore { full := [2] }).curCore.spadPoison = [] := ⟨⟨rfl, rfl⟩, by decide +kernel⟩

/-- A load and a store of the page of `globalWorld`; a misplaced .sc at .sys. -/
theorem test_meets_GlobalAccesses : (globalWorld 3).strand = some { strand0 with xs := [(1, 0x50000), (2, 3)] }
    ∧ memSpace (typed .i64 (.x 3) (.x 1) (.x 2)) 0 = .global
    ∧ overlapsVecMem (globalWorld 3) {} { strand0 with xs := [(1, 0x50000), (2, 3)] } .global 0x50000 0x50007 = false
    ∧ okHas (loadGlobal (curWho strand0 (globalWorld 3)) 0x50000 8 .rlx .core (globalWorld 3)) (fun bs _ => bs == [255, 255, 255, 255, 255, 255, 255, 255]) = true
    ∧ okHas (storeGlobal (curWho strand0 (globalWorld 3)) 0x50000 (natToBytes 3 8) .rlx (globalWorld 3)) (fun _ s => globalByte s 0x50000 == some 3) = true
    ∧ pendingVecMem (globalWorld 3) {} strand0 = false := by decide +kernel
theorem test_meets_ReadOwnWrite : okHas (storeGlobal (curWho strand0 (globalWorld 3)) 0x50018 [1, 2, 3, 4, 5, 6, 7, 8] .rel (globalWorld 3)) (fun _ s1 =>
      okHas (loadGlobal (curWho strand0 (globalWorld 3)) 0x50018 8 .acq .pkg s1) fun got _ => got == [1, 2, 3, 4, 5, 6, 7, 8]) = true
    ∧ 0x50018 % 32 + 8 ≤ 32 := by decide +kernel
/-- A store, an atomic and a CHUNK that retire. -/
theorem test_meets_GlobalStoreFrame : [Instr.ld (typed .i64 (.x 3) (.x 1) (.x 2)), .st { f3 with ty := .i32, d := .x 0 }, .afmax (typed .f32 (.x 3) (.x 1) (.x 2)),
      .chunk { f3 with d := .x 4, b := .x 0 }].all (fun i => nextHas (exec i (globalWorld 3)) fun u => decide (u.issue = .retired)) = true := by decide +kernel
/-- FENCE, CINV, PREF and TOUCH with nothing older; a pending copy that a release waits for; a block in a frame. -/
theorem test_meets_FencesAndCaches : (globalWorld 3).strand = some { strand0 with xs := [(1, 0x50000), (2, 3)] } ∧ pendingVecMem (globalWorld 3) {} strand0 = false
    ∧ pendingNr (globalWorld 3) {} strand0 = false ∧ pendingEngines (globalWorld 3) {} strand0 = false
    ∧ okHas (cinvPages (curWho strand0 (globalWorld 3)) 2 0x50000 0x50002 (globalWorld 3)) (fun _ _ => true) = true
    ∧ okHas (prefetch (curWho strand0 (globalWorld 3)) 0x50000 true (globalWorld 3)) (fun _ _ => true) = true
    ∧ okHas (prefetch (curWho strand0 (globalWorld 3)) 0x60000 true (globalWorld 3)) (fun _ _ => true) = false
    ∧ okHas (checkRights (curWho strand0 (globalWorld 3)) 0x50000 kRead (globalWorld 3)) (fun _ s1 =>
        okHas (ensureLine (curWho strand0 (globalWorld 3)) 0x50000 kRead s1) fun l _ => !l.frame) = true
    ∧ (let s := { blockWorld with launches := [(0, { blockLaunch with blocks := [(0, { st := .resident })] })] }
       okHas (checkRights (curWho strand0 s) 0x50000 kRead s) (fun _ s1 =>
        okHas (ensureLine (curWho strand0 s) 0x50000 kRead s1) fun l s2 => l.frame && blockOf (s2.launch 0) 0x50000 == some (0, 0)) = true)
    ∧ pendingNr { globalWorld 3 with mem := { nr := [{ issuer := {}, launch := 0, task := 5, va := 0, at_ := frameless, opcode := 0x70, variant := 0, ty := .i32, operand := 0, compare := 0 }] } } {} strand0 = true := by
  decide +kernel
theorem test_meets_AtomicResults : okHas (atomicChecks { strand0 with xs := [(1, 0x50000), (2, 3)] } (typed .i32 (.x 3) (.x 1) (.x 2)) 4 (globalWorld 3)) (fun ord s1 => ord == 0
      && okHas (atomicAt (curWho strand0 (globalWorld 3)) 0x50000 4 (atomicNew 0x70 0 .i32 3 0) s1) (fun old _ => old == 0xFFFFFFFF)
      && okHas (resolveAtomic (curWho strand0 (globalWorld 3)) 0x50000 4 s1) fun _ _ => true) = true
    ∧ okHas (atomicChecks { strand0 with xs := [(1, 0x50000), (2, 3)] } { f3 with d := .x 4, b := .x 0 } 32 (globalWorld 3)) (fun _ s1 =>
      okHas (atomicAt (curWho strand0 (globalWorld 3)) 0x50000 32 chunkNew s1) fun v s2 => v == 0xFFFFFFFFFFFFFFFF && s2.strand.isSome) = true := by decide +kernel

/-- Rank 1 is VALID on the tests' bench, of which context 1 holds the whole rectangle. -/
theorem test_meets_SendsAreBuffered : Issues (regs 1 9) { strand0 with xs := [(1, 1), (2, 9)] } { f3 with m := 1, imm := 0x200 }
    ∧ pendingVecMem (regs 1 9) {} strand0 = false ∧ strand0.sends.length < 16 ∧ (2 + 4 * 2 ≤ 64)
    ∧ ((regs 1 9).launch 0).rank 1 = { st := 1, seat := 1 } ∧ permitted (regs 1 9) 1 0 0 = true
    ∧ okHas (readSource strand0 (sourceSpace { f3 with space := .b } 0) 8 (32 * 8) (regs 1 9)) (fun bs s1 => bs.length == 256 && decide (s1.launches = (regs 1 9).launches)) = true
    ∧ (field (place 12 12 1 ||| place 0 12 0) 12 12 = 1 ∧ field (0x1000 : Word) 0 12 + 1 = 1)
    ∧ okHas (reserveSpawn 0 (regs 1 9)) (fun _ _ => true) = true ∧ (0 < (launch0).taskCount)
    ∧ canRelease {} { strand0 with sends := [.message { cls := 1, dest := 1 }] } (withStrand { strand0 with sends := [.message { cls := 1, dest := 1 }] }) = true :=
  ⟨⟨rfl, rfl⟩, by decide +kernel⟩
/-- An invalid rank, one outside the launch, one that may not be sent to, a full buffer. -/
theorem test_meets_SendsAreBuffered_checks : Issues world strand0 { f3 with m := 1, imm := 0x100 } ∧ realHc world.cur = true
    ∧ (world.launch 0).rankCount ≤ 7 ∧ ((withLaunch { launch0 with ranks := [] }).launch 0).rank 1 = {}
    ∧ ((withLaunch { launch0 with ranks := [(1, { st := 1, bx := 5 })] }).launch 0).rank 1 = { st := 1, bx := 5 }
    ∧ permitted (withLaunch { launch0 with ranks := [(1, { st := 1, bx := 5 })] }) 1 5 0 = false
    ∧ 16 ≤ ({ strand0 with sends := List.replicate 16 .forward } : Strand).sends.length := ⟨⟨rfl, rfl⟩, by decide +kernel⟩
/-- A capsule of three entries whose cursor is 0: positions 1 and 2 are still ahead. -/
def capsule0 : Capsule := { header := place 22 6 3 ||| place 16 6 0, entries := [place 44 12 1, place 44 12 1, place 44 12 1], tile := List.replicate 128 0 }
theorem test_meets_CapsuleInstructions : strand0.capsule = none ∧ ({ strand0 with capsule := some capsule0 } : Strand).capsule = some capsule0
    ∧ strand0.capsuleEnd = .open_ ∧ ({ strand0 with capsuleEnd := .ended } : Strand).capsuleEnd ≠ .open_
    ∧ field capsule0.header 16 6 = 0 ∧ field capsule0.header 22 6 = 3 ∧ (0 < 1 ∧ 1 ≤ 3 ∧ 3 < 32) ∧ (0 + 1 ≤ (3 : Nat)) ∧ field (place 44 12 1) 32 8 = 0
    ∧ field (capsule0.entries.getD (0 + 1) 0) 44 12 = 1 ∧ (world.launch 0).rank 1 = { st := 1, seat := 1 } ∧ permitted world 1 0 0 = true
    ∧ okHas (readSource strand0 (sourceSpace { f3 with space := .b } 0) 0 8 (withBench { mem := [(5, 0x10)] })) (fun eb s1 =>
        field (byteWord eb 0) 44 12 == 1 && okHas (readSource strand0 (sourceSpace { f3 with space := .b } 0) 8 128 s1) fun tb s2 => tb.length == 128 && s2.strand.isSome) = true := by
  decide +kernel
/-- Handle b3 names object 3: not yet complete, complete, and waited for. -/
theorem test_meets_BarrierPhases : Issues world strand0 { f3 with a := .b 3 } ∧ strand0.handles.get 3 { object := 3 } = { object := 3 }
    ∧ okHas (fenceBody strand0 .rel .bench 7 world) (fun _ s1 => decide (s1.benches = world.benches ∧ s1.cur = world.cur)) = true
    ∧ okHas (fenceBody strand0 .acq .bench 15 world) (fun _ _ => true) = true
    ∧ ({ expect := 2, arrived := 1 } : Barrier).complete = false ∧ ({ expect := 2, arrived := 2 } : Barrier).complete = true
    ∧ ({ expect := 2, arrived := 1 } : Barrier).arrive.complete = true ∧ (({ pend := 8 } : Barrier).land 8).pend = 0 := by
  refine ⟨⟨rfl, rfl⟩, ?_⟩
  decide +kernel
theorem test_meets_SystemRegisters : (∃ w s1, sysRead world strand0 0x12 = some w ∧ writeSel f3.d w world = .ok () s1) ∧ Issues world strand0 { f3 with imm := 0x3F }
    ∧ (sysRead world strand0 0x14).isSome ∧ pendingVecMem world {} strand0 = false := ⟨⟨_, _, rfl, rfl⟩, ⟨rfl, rfl⟩, rfl, rfl⟩
theorem test_meets_SystemRegisterValues : world.cur.bench < 480 ∧ world.cur.seat < 8 ∧ world.cur.hc < 8 ∧ strand0.gangSize ≤ 1
    ∧ (sysRead world { strand0 with gangSize := 64, gangIndex := 63 } 0x13) = some (place 16 6 63 ||| place 0 6 63)
    ∧ (0xFFF : Nat) ∉ [0, 1, 2, 0x10, 0x11, 0x12, 0x13, 0x14, 0x15, 0x16, 0x17, 0x18, 0x20, 0x21] := by decide +kernel
theorem test_meets_RankQuery : Issues world strand0 f3 ∧ (1 < field (launch0.header.getD 1 0) 44 12 + 1) ∧ ¬ (2 < field (launch0.header.getD 1 0) 44 12 + 1) :=
  ⟨⟨rfl, rfl⟩, by decide +kernel⟩
theorem test_meets_CountersAndControls : Issues world strand0 { f3 with m := 1 } ∧ queueNamed (world.launch 0) 15 = true
    ∧ ({ world with ctl := { ctxs := [(1, { allow := 0x2000 })] } } : State).ctx 1 = some { allow := 0x2000 }
    ∧ (strandCommands world {} strand0).isEmpty = true ∧ pendingSfu (withCore { sfu := [{}] }) {} = true
    ∧ ((0x20 : Word) ^^^ 0x120) &&& 0x1F00 ≠ 0 := ⟨⟨rfl, rfl⟩, by decide +kernel⟩

/-- A request that is done, one that is refused, one denied, one that pends; A up to x58. -/
def req (op target : Nat) (ops : List Word) : CtxReq := { op := op, issuerCtx := 1, issuer := .strand 0 {}, target := target, ops := ops }
theorem test_meets_ContextInstructions : Issues world strand0 { f3 with a := .x 58 } ∧ pendingVecMem world {} strand0 = false ∧ awaitedOp strand0 = none
    ∧ (∃ w, request world (req 0x9F 2 []) = .done w world) ∧ request world (req 0x9C 2 []) = .refused ∧ request world (req 0x9C 7 []) = .denied
    ∧ (∃ k u, request world (req 0x9B 2 []) = .pending k u)
    ∧ awaitedOp { strand0 with wait := some { why := .ctxOp 9, ticket := 0 } } = some 9 :=
  ⟨⟨rfl, rfl⟩, rfl, rfl, ⟨_, rfl⟩, rfl, rfl, ⟨_, _, rfl⟩, rfl⟩
theorem test_meets_ContextRules : world.ctx 2 = some { parent := 1, depth := 2 } ∧ ((2 : Nat) ∈ world.subtree 2) ∧ world.ctx 7 = none
    ∧ ({ world with ctl := { ctxs := [(2, { parent := 1, st := .killing })] } } : State).ctx 2 = some { parent := 1, st := .killing } := by decide +kernel
/-- A host function whose accepted command is bad, or a PING; without and with authority. -/
def hostWorld (w : Word) : State := { world with fns := [(1, { ctx := 1, accepted := [{ slot := 3, words := [w, 0, 0, 0, 0, 0, 0, 0] }] })] }
theorem test_meets_HostCommands : ((hostWorld (place 56 8 0x20)).fn 1).accepted = [{ slot := 3, words := [place 56 8 0x20, 0, 0, 0, 0, 0, 0, 0] }]
    ∧ fnAuthority (hostWorld 0) 1 = some 1 ∧ fnAuthority world 1 = none ∧ hostCodes.contains 0x20 = true ∧ hostCodes.contains 0x21 = false
    ∧ fnAuthority world 0 = some 0xFFF := by decide +kernel

/-! ## Engines -/

/-- A core whose claim the tests' strand holds. -/
def claimed0 : State := withCore { claim := some 0 }
/-- The claim free; no one older waits. -/
theorem test_meets_ClaimClears : Issues (withCore { rows := [(3, 5)] }) strand0 (slot3 (.x 0) (.x 0) (.x 0)) ∧ ((withCore { rows := [(3, 5)] }).core 0).claim = none
    ∧ olderWaiter (withCore {}) {} (upFrom 0 8) .claim = false ∧ pendingSfu (withCore {}) {} = false
    ∧ mwaitPending (withCore {}) {} strand0 (.x 0) = false := ⟨⟨rfl, rfl⟩, by decide +kernel⟩
/-- The claim held by the strand, with room in the queue, a window at its last offset, rows in a scratchpad; a full queue; another holder. -/
theorem test_meets_VectorIssue : Issues claimed0 strand0 { slot3 (.win 2) (.v 4) (.v 8) with ty := .i32, imm := 196352 }
    ∧ claimed0.curCore.claim = some claimed0.cur.hc ∧ claimed0.curCore.commands.length < 16 ∧ claimed0.curCore.sfu.length < 32
    ∧ imm32 { f3 with imm := 196352 } + 256 ≤ 196608 ∧ imm32 { f3 with imm := 196352 } % 8 = 0
    ∧ okHas (checkPart { slot3 (.v 2) (.v 3) (.x 0) with m := 11, ty := .bf16, imm := 1 } claimed0) (fun _ _ => true) = true
    ∧ selNum (.v 8) % (tyBits .f32 / 8) = 0 ∧ selNum (.v 8) % rowCount 3 = 0
    ∧ okHas (checkRows strand0 (.spad 0) (rowAddrs 0 256 8) 256 256 32 kRead claimed0) (fun _ u => decide (u.cur = {} ∧ u.ticket = 0 ∧ u.curCore.commands.length < 16)) = true
    ∧ okHas (checkIndexed 0xC8 strand0 { slot3 (.v 1) (.x 0) (.v 2) with ty := .i32, space := .b } (.v 2) claimed0) (fun _ _ => true) = true
    ∧ 16 ≤ (withCore { commands := List.replicate 16 { slot := f3 } }).curCore.commands.length
    ∧ (withCore { claim := some 1 }).curCore.claim = some 1 := ⟨⟨rfl, rfl⟩, by decide +kernel⟩
/-- A VADD at the head of the queue; a VSFU whose request is the oldest. -/
def vectorWorld : State := withCore { commands := [{ key := 4, opcode := 0xB0, slot := { slot3 (.v 1) (.v 2) (.v 3) with ty := .i32 }, task := 5 },
  { key := 6, opcode := 0xCA, slot := { slot3 (.v 4) (.v 2) (.x 0) with ty := .f32 }, task := 5 }], sfu := [{ command := some 6 }], claim := some 0 }
theorem test_meets_VectorExecution : (headCommand vectorWorld {} false).map (fun p => (p.1.key, p.2)) = some (4, {}) ∧ vectorWorld.strandAt {} = some strand0
    ∧ (headCommand world {} false).isNone ∧ (vectorWorld.core 0).sfu = [{ command := some 6 }] := by decide +kernel
/-- A BF16 matrix command with K = 4. -/
def mma0 : Slot := { typed .bf16 (.acc 0) (.x 0) (.x 0) with imm := 4 }
/-- MMA of four K steps from the scratchpad; MZERO; a mask command; MSTA to the scratchpad. -/
theorem test_meets_MatrixIssue : Issues claimed0 strand0 (mma0) ∧ pendingVecMem claimed0 {} strand0 = false
    ∧ okHas (matChecks 0xD0 (mma0) 0 0 0 claimed0) (fun _ _ => true) = true
    ∧ okHas (register strand0 ((matSpans 0xD0 (mma0) 0 0 0 0).map fun q => (0, q)) (.command 0) claimed0) (fun _ u => (u.bench 0).locks.length != 0) = true
    ∧ okHas (register strand0 [] (.command 0) claimed0) (fun _ _ => true) = true
    ∧ okHas (checkRows strand0 (.spad 0) (rowAddrs 0 256 16) 256 (mstaRow { slot3 (.x 0) (.x 1) (.acc 0) with c := .x 2, m := 11, ty := .f32, space := .s }) 32 kWrite claimed0) (fun _ _ => true) = true
    ∧ mwaitPending claimed0 {} strand0 (.acc 0) = false := by
  refine ⟨⟨rfl, rfl⟩, ?_⟩
  decide +kernel
/-- Each matrix command at the head of the queue; good and bad metadata for a 2:4 MMAS. -/
def matrixWorld (op : Nat) (f : Slot) : State := withCore { commands := [{ key := 4, opcode := op, slot := f, task := 5 }], claim := some 0 }
theorem test_meets_MatrixExecution : [(0xD0, mma0), (0xD1, { mma0 with m := 0 }), (0xD2, typed .f32 (.acc 3) (.x 0) (.x 0)),
      (0xD3, slot3 (.ym 3) (.x 0) (.x 0)), (0xD3, slot3 (.xm 3) (.x 0) (.x 0)), (0xD5, { slot3 (.x 0) (.x 0) (.x 0) with imm := 7 })].all (fun p =>
        (headCommand (matrixWorld p.1 p.2) {} true).map (fun v => (v.1.key, v.2)) == some (4, {})) = true
    ∧ (headCommand world {} true).isNone
    ∧ metaBad (matSparsity 0xD1 0) [0] 1 = true ∧ metaBad (matSparsity 0xD1 0) (List.replicate 8 0x44) 1 = false
    ∧ cmdWords 0xD0 mma0 ≤ (List.replicate 64 (0 : BitVec 256)).length := by decide +kernel

/-! ## Copies, streams, the walker and collective steps -/

/-- A copy of 64 bytes from the scratchpad of seat 0 to bench memory, tag 7, and the same as a queued command. -/
def cpy0 : Slot := { slot3 (.x 1) (.x 2) (.x 0) with c := .x 3, imm := place 30 2 2 ||| place 25 2 1 ||| 7 |>.setWidth 48 }
def copyStrand : Strand := { strand0 with xs := [(1, 0x40), (2, 0x80), (3, 96)] }
def copyCmd0 : CopyCmd :=
  { copyBase copyStrand .cpy cpy0 world with src := .spad 0, dst := .bench, dstBase := 0x40, srcBase := 0x80, rowBytes := 96 }
/-- CPY, CPYX, CPYSH and CPYMM: field values, bounds and locks that let each be queued; a length over 2^32; a full engine. -/
theorem test_meets_CopyIssue : Issues (withStrand copyStrand) copyStrand cpy0
    ∧ Machine.spaceCode (immField cpy0 30 2) (immField cpy0 27 3) = some (.spad 0) ∧ Machine.spaceCode (immField cpy0 25 2) (immField cpy0 22 3) = some .bench
    ∧ okHas (copyChecks copyStrand copyCmd0 (fun v => .ok () v) (withStrand copyStrand)) (fun _ s1 => decide (s1.cur = {})
        && okHas (engineBlocks copyStrand copyCmd0.spans s1) (fun bs _ => bs == [])
        && !pendingVecMem s1 s1.cur copyStrand && decide ((s1.bench 0).copies.length < 32)
        && okHas (register copyStrand (copyCmd0.spans.map fun p => (0, p)) (.command s1.ticket) s1.nextTicket) (fun _ _ => true)) = true
    ∧ (xOf copyStrand cpy0.c).toNat ≤ 2 ^ 32 ∧ 96 % 3 = 0 ∧ 2 ^ 32 < (xOf { copyStrand with xs := [(3, 0x100000001)] } cpy0.c).toNat
    ∧ 32 ≤ ((withBench { copies := List.replicate 32 copyCmd0 }).bench 0).copies.length
    ∧ okHas (copyChecks copyStrand { copyCmd0 with kind := .cpysh, dst := .shelf 0 } (fun v => .ok () v) (withStrand copyStrand)) (fun _ _ => true) = true
    ∧ kOk 0xD0 { slot3 (.acc 0) (.x 1) (.x 2) with c := .x 3, ty := .bf16, space := .b, imm := 4 } = true ∧ 0x80 + matBBytes { mma0 with imm := 4 } ≤ Config.shelfBytes :=
  ⟨⟨rfl, rfl⟩, by decide +kernel⟩
/-- Four elements of 8 bytes from another seat, on this bench and on the next; an invalid rank; 65,537 elements. -/
theorem test_meets_IndexedCopies : (let f : Slot := { slot3 (.x 0) (.x 0) (.x 0) with c := .x 4, imm := place 30 2 2 ||| place 28 2 3 ||| place 26 2 2 |>.setWidth 48 }
    let t : Strand := { strand0 with xs := [(4, place 32 12 1 ||| 4)] }
    (withStrand t).strand = some t ∧ t.guard f = true ∧ immField f 28 2 = 3 ∧ immField f 30 2 = 2 ∧ immField f 26 2 = 2
    ∧ field (xOf t f.c) 0 32 = 4 ∧ ((withStrand t).launch 0).rank (field (xOf t f.c) 32 12) = { st := 1, seat := 1 }
    ∧ okHas (rankChecks t 1 true (withStrand t)) (fun _ _ => true) = true ∧ okHas (engineBounds (.spad 0) 0 32 (withStrand t)) (fun _ _ => true) = true
    ∧ okHas (register t (((spanOf (.spad 0) 0 32 true ++ spanOf (.spad 0) 64 16 false).map fun q => (0, q))
        ++ (spanOf (.spad 1) 0 (targetEnd (.spad 1)) false).map fun q => (0, q)) (.command 0) (withStrand t).nextTicket) (fun _ _ => true) = true
    ∧ ((withStrand t).launch 0).rank 9 = {} ∧ 65536 < field (0x10001 : Word) 0 32) := by decide +kernel
/-- The copy of `copyCmd0` runs to its end, with room in q2; one that faults, on a poisoned word. -/
theorem test_meets_CopyCompletion : ((withBench { copies := [copyCmd0] }).bench 0).copies[0]? = some copyCmd0 ∧ copyCmd0.status = none ∧ copyCmd0.cancelled = false
    ∧ (match runUnits 0 copyCmd0.fuel copyCmd0 (withBench { copies := [copyCmd0] }) with | .done c1 _ => decide (c1.follow = none) | _ => false) = true
    ∧ (match runUnits 0 copyCmd0.fuel copyCmd0 { withBench { copies := [copyCmd0] } with cores := [(0, { spadPoison := [16] })] } with | .fault _ _ _ => true | _ => false) = true
    ∧ (withBench { copies := [copyCmd0] }).memoriesWf = true ∧ copyCmd0.dstBase.toNat % 256 + 96 ≤ 256
    ∧ (withBench { copies := [copyCmd0] }).strandAt copyCmd0.issuer = some strand0 ∧ strand0.message.key = copyCmd0.task
    ∧ (strand0.qs.get 2 []).length < queueDepth {} 2 := by decide +kernel

/-- Two sorted lists of 32-bit values in bench memory, merged by a session that a strand has asked for a batch. -/
def session0 : Session := { st := .busy, mode := 0, baseA := 0, baseB := 64, benchA := true, benchB := true, lenA := 2, lenB := 1, requester := some {}, task := 5 }
def streamWorld (x : Session) : State := withBench { mem := [(0, 1), (4, 9), (64, 9)], sessions := [(2, x)] }
theorem test_meets_StreamSessions : ((streamWorld session0).session 0 2 = session0 ∧ (2 : Nat) < 16)
    ∧ (match sessionBatch (streamWorld { session0 with lenA := 0 }) 0 2 with | .ready _ ws _ => decide (ws.length ≤ 15) | _ => false) = true
    ∧ okHas (readSource strand0 (sourceSpace { f3 with c := .x 0, space := .b } 0) 0 32 (withBench { mem := [(23, 0xC0)] })) (fun bs s1 =>
        (openedSession bs 0).isSome && decide ((s1.session 0 2).st ≠ .busy)) = true
    ∧ okHas (engineBlocks strand0 session0.spans (streamWorld { session0 with st := .idle })) (fun bs _ => bs == []) = true
    ∧ okHas (register strand0 (session0.spans.map fun p => (0, p)) (.session 2) (streamWorld { session0 with st := .idle })) (fun _ _ => true) = true := by decide +kernel

/-- The one element of stream A is poisoned: the first read of the batch faults, however far the engine reads ahead. -/
theorem test_meets_StreamSessions_fault : ∃ ti p u, sessionBatch
    { world with benches := [(0, { poison := [0], sessions := [(2, { session0 with lenA := 1 })] })] } 0 2 = .fault ti p u := by
  generalize hs : ({ world with benches := [(0, { poison := [0], sessions := [(2, { session0 with lenA := 1 })] })] } : State) = s
  have h : ∀ w : Who, w.unit = {} → ∃ ti u, readAhead w { session0 with lenA := 1 } false {} s = .trap ti u := by
    intro w hw
    show ∃ ti u, Res.andThen (Res.collect (upFrom 0 (1 + Config.freeNat s.fresh % 1)) s.nextFresh _) _ = .trap ti u
    rw [Nat.mod_one]
    obtain ⟨c, l, t, f⟩ := w
    subst hs hw
    exact ⟨_, _, rfl⟩
  have ⟨ti, u, hr⟩ := h { ctx := 1, launch := 0, task := 5, unit := {} } rfl
  refine ⟨ti, {}, u, ?_⟩
  subst hs
  show (match mergeStep { ctx := 1, launch := 0, task := 5, unit := {} } { session0 with lenA := 1 } {} _ with
    | .ok r s1 => _
    | .trap t s1 => BatchEnd.fault t {} s1
    | _ => .stuck) = _
  simp only [mergeStep, hr, Res.andThen]

def run0 : WalkerRun := { key := 3, issuer := {}, launch := 0, task := 5, ctx := 1, strandPc := 0, seat := 1, sparsity := 0, elem := 2, tag := 9 }
def walkerWorld (r : WalkerRun) : State := withBench { run := some r }
/-- WLOAD at the end of the store, WRUN with its output span, a waiting load and a waiting run, a run at its boundary PC and
at its step limit, room in q4. -/
theorem test_meets_WalkerInstructions : Issues world strand0 (slot3 (.x 0) (.x 0) (.x 0)) ∧ world.curBench.jobs.length < 8
    ∧ okHas (readSource strand0 (sourceSpace { f3 with c := .x 0, space := .s } 0) 0 (4 * 2) world) (fun _ u => decide (u.curBench.jobs.length < 8)) = true ∧ 1022 + 2 ≤ 1024
    ∧ okHas (register strand0 ((spanOf (.spad 0) 32 (Config.spadBytes - 32) true).map fun p => (0, p)) (.command 0) world) (fun _ _ => true) = true
    ∧ ((withBench { jobs := [.load {} 1023 [7] 0 5, .run run0] }).bench 0).run = none
    ∧ run0.steps < 2 ^ 24 ∧ ({ run0 with pc := 1022 } : WalkerRun).pc < 1023 ∧ 2 ^ 24 ≤ ({ run0 with steps := 2 ^ 24 } : WalkerRun).steps
    ∧ ((walkerWorld run0).bench 0).run = some run0 ∧ (walkerWorld run0).strandAt run0.issuer = some strand0 ∧ strand0.launch = run0.launch
    ∧ strand0.message.key = run0.task ∧ (strand0.qs.get 4 []).length < queueDepth {} 4 :=
  ⟨⟨rfl, rfl⟩, by decide +kernel⟩
/-- Every walker instruction has a run on which it goes on: registers of 1, tiles of 16 rows. -/
theorem test_meets_WalkerInstructions_words : (let q := { run0 with regs := [(1, 1)] }
    (q.reg 1).toNat < 16 ∧ (q.reg 0 + (0 : BitVec 16).signExtend 64).toNat < q.columns ∧ q.col < q.columns
    ∧ ({ q with sparsity := 1 } : WalkerRun).sparsity ≠ 0 ∧ (q.reg 1).toNat < q.columns / 4 ∧ tileBad q 4 = false
    ∧ q.out + (tileBytes q 4 ++ tileMeta q 4).length ≤ Config.spadBytes ∧ 4 ≤ q.columns
    ∧ okHas (walkerLoad q 0x50000 8 (globalWorld 0)) (fun v _ => v == 0xFFFFFFFFFFFFFFFF) = true) := by decide +kernel

/-- An L3 entry that covers every address with one domain of context 1, and a step whose operand block is in the LLC. -/
def domainWorld (l : Launch) : State :=
  { globalWorld 0 with
    mem := { globalMem with l3 := [(0, place 63 1 1 ||| place 57 5 31 ||| place 56 1 1 ||| place 51 5 24 ||| place 39 12 1)], llc := globalMem.llc.map fun x => { x with data := 0 } }
    launches := [(0, l)] }
def stepLaunch (c : Collective) : Launch := { launch0 with steps := [[place 56 8 0x0F, 0, 0, 0x50000]], collectives := [(0, c)] }
theorem test_meets_CollectiveSteps : ((domainWorld (stepLaunch {})).launch 0).stepCount = 1
    ∧ okHas (postChecks strand0 0 (domainWorld (stepLaunch {}))) (fun ws s1 => ws.length == 8 && !pendingVecMem s1 s1.cur strand0) = true
    ∧ okHas (stepRead (domainWorld (stepLaunch { running := true })) 1 0x50000 64) (fun bs s1 => bs.length == 64
        && stepLockFree s1 (stepLaunch { running := true }) 0 (stepSpans 0x0F ((List.range 8).map (byteWord bs)))
        && okHas (stepRead (stepLock s1 0 0 []) 1 0 0) (fun _ _ => true)) = true
    ∧ contributionsReady 0x0F [0, 0, 0, 0, 0, 0, 0, 0] [] = true
    ∧ okHas (stepWrite (domainWorld (stepLaunch {})) 1 0x50000 [1, 2] kEngineWrite) (fun _ _ => true) = true
    ∧ ((domainWorld (stepLaunch { started := true, failed := 1 })).launch 0).collective 0 = { started := true, failed := 1 } := by decide +kernel
/-- √2 = 1.41421356… lies 0.2 places above the code 0x3FB504F3, so 2 ulp reach from one place below it to two above;
sin 1 = 0.84147098…; the argument of exp2 is 2^−1. -/
theorem test_sfu_bounds :
    (sfuOpen 0 fmtF32 false false 1 (-1) 0, sfuOpen 0 fmtF32 false false 1 (-1) 0x3FB504F5)
      = ((0x3FB504F3, { nx := true }), (0x3FB504F5, { nx := true }))
    ∧ (sfuOpen 0 fmtF32 false false 1 (-1) 0x3FB504F1).1 = 0x3FB504F3 ∧ (sfuOpen 5 fmtF32 false false 1 0 0).1 = 0x3F576AA4
    ∧ (sfuOpen 9 fmtF32 false false 1 20 0).1 = 0x3F800000 := by decide +kernel

/-! ## Waits, scheduling, ends, the controller, the host, management, power and links -/

def waiting (w : WaitFor) (f : Option Slot) : Strand := { strand0 with wait := some { why := w, ticket := 3, slot := f } }
/-- Each kind of wait, ready and not; a free claim with one heir, a free one with none, a held one. -/
theorem test_meets_ServedWaits : (withStrand (waiting (.ldw 16) none)).strand = some (waiting (.ldw 16) none)
    ∧ olderWaiter (withStrand (waiting (.ldw 16) none)) {} (upFrom 0 8) (.ldw 16) = false
    ∧ (withCore { full := [2] }).curCore.full.contains (16 / 8) = true
    ∧ queueWords queueWorld (waiting (.queueRead 8) none) 8 = [7] ∧ queueWords queueWorld (waiting (.queueRead 10) none) 10 = []
    ∧ olderWaiter { queueWorld with hcs := [(0, { strand := some (waiting (.queueRead 8) none) })] } {} (queueSharers {} 8) (.queueRead 8) = false
    ∧ barwaitOver (strand0.handle 3) {} = true ∧ barwaitOver { object := 3, arr := true } {} = false
    ∧ claimHeir (withStrand (waiting .claim none)) = some 0 ∧ claimHeir world = none ∧ ((withCore { claim := some 2 }).core 0).claim = some 2 := by decide +kernel

/-- A message waits at rank 0 for a free hardware context of a launch with issue tokens. -/
def schedWorld (m : Message) (tokens : Nat) : State :=
  { world with
    ctl := { ctxs := [(1, { depth := 1, st := .running, benches := some { x := 0, y := 0, w := 1, h := 1 }, issue := tokens, vf := 1 })] }
    fns := [(1, { ctx := 1, fr := { en := true, log2n := 10 } })]
    launches := [(0, { launch0 with tasks := [], mailboxes := [(0, [m])] })], hcs := [] }
theorem test_meets_Scheduling : launchOn (schedWorld { key := 8 } 1) 0 = some 0 ∧ (schedWorld { key := 8 } 1).strandAt {} = none
    ∧ mayStart (schedWorld { key := 8 } 1) 0 = true ∧ unreserved (schedWorld { key := 8 } 1) 0 0 = true
    ∧ rankAt ((schedWorld { key := 8 } 1).launch 0) 0 0 = some 0 ∧ nextMessage ((schedWorld { key := 8 } 1).launch 0) 0 = some { key := 8 }
    ∧ nextMessage ((schedWorld { key := 8, cls := 3 } 1).launch 0) 0 = some { key := 8, cls := 3 }
    ∧ ({ key := 8, cls := 4 } : Message).ordinary = false ∧ ({ key := 8 } : Message).ordinary = true
    ∧ (takeBudget 0 0 1 (schedWorld { key := 8 } 1)).isSome = true ∧ (takeBudget 0 0 1 (schedWorld { key := 8 } 0)).isNone = true
    ∧ gangReady (schedWorld { key := 8 } 0) 0 = false ∧ 0 < ((schedWorld { key := 8 } 1).launch 0).handlerCount := by decide +kernel
/-- A gang start with the bench's reservation and free contexts; held messages for a valid, an invalid and a moving rank. -/
def gangWorld : State := { schedWorld { key := 8, cls := 3 } 1 with benches := [(0, { gang := some (0, 8) })] }
theorem test_meets_Scheduling_gangs_and_arrivals : reservedGang gangWorld 0 = some (0, { key := 8, cls := 3 }) ∧ reservedGang world 0 = none
    ∧ gangPlaces gangWorld 0 (gangWorld.launch 0) { key := 8, cls := 3 } = some [{}]
    ∧ (takeBudget 0 0 (gangWorld.launch 0).gangSize gangWorld).isSome = true
    ∧ ((withBench { held := [{ launch := 0, message := { key := 9, dest := 1 } }] }).bench 0).held = [{ launch := 0, message := { key := 9, dest := 1 } }]
    ∧ (placeMessage world 0 { key := 9, dest := 1 }).isSome = true ∧ ((withLaunch { launch0 with stopped := false }).launch 0).stopped = false
    ∧ ((withLaunch { launch0 with ranks := [(1, { st := 2 })] }).launch 0).rank 1 = { st := rankTransit } := by decide +kernel
/-- A context with bandwidth tokens, and one without. -/
def tokenWorld (bw : Nat) : State := { world with ctl := { ctxs := [(1, { depth := 1, st := .running, bw := bw })] } }
theorem test_meets_Scheduling_bandwidth : ((tokenWorld 4).spending true (homeOf world.pkg 0) 1).spent < ownTokens (tokenWorld 4) true (homeOf world.pkg 0) 1
    ∧ ownTokens (tokenWorld 0) true (homeOf world.pkg 0) 1 ≤ ((tokenWorld 0).spending true (homeOf world.pkg 0) 1).spent
    ∧ (borrowToken (tokenWorld 0) true (homeOf world.pkg 0) 1).isNone = true := by decide +kernel

/-- A strand of a gang that waits for a barrier object of one more arrival. -/
def stuckWorld (clocks : Nat) : State :=
  (withStrand { waiting (.barwait 0) none with message := { key := 5, cls := 3 }, gangWait := clocks }).setBench 0
    { barriers := [(0, { expect := 1 })] }
/-- A task that is over, halted or not; a control node; a strand past its budget; a stuck gang; a launch that is done. -/
theorem test_meets_TaskAndLaunchEnds :
    (let l := { launch0 with tasks := [(5, { live := 0, fate := .halted })] }
     ({ withLaunch l with hcs := [] } : State).launch 0 = l ∧ l.tasks.find 5 = some { live := 0, fate := .halted }
      ∧ taskStrands { withLaunch l with hcs := [] } 0 5 = [] ∧ taskEngineWork { withLaunch l with hcs := [] } 0 0 5 = false
      ∧ l.boxMessage 0 5 = some { key := 5, active := true })
    ∧ (launch0.tasks.find 5 = some { live := 1 } ∧ taskStrands world 0 5 ≠ [])
    ∧ okHas (deviceRead (domainWorld launch0) 1 0x50000 8) (fun bs _ => bs.length == 8) = true
    ∧ (({ w0 := 0, w1 := 0, w2 := 0, w3 := 0 } : Descriptor).kind ≠ 3)
    ∧ ((world.launch 0).budget = 100 ∧ (world.launch 0).budget ≤ ({ strand0 with clocks := 100 } : Strand).clocks
        ∧ lowestStrand world 0 5 = some {} ∧ (taskStrands world 0 5).any (inCtxOp world) = false)
    ∧ (gangStuck world {} = false ∧ gangStuck (stuckWorld 0) {} = true)
    ∧ launchDone { withLaunch { launch0 with tasks := [], mailboxes := [] } with hcs := [] } 0 = true
    ∧ launchDone world 0 = false ∧ launch0.stopped = false := by decide +kernel

/-- Page tables of three levels below the device's: 0x50000 is a block-mapped page of context 1, and its range entry grants `attr`. -/
def tableMem : Memory :=
  { l3 := [(0, place 63 1 1 ||| place 57 5 31 ||| place 39 12 1 ||| 1)]
    bytes := [(0x2003, 0), (0x2000, 2), (0x2004, 0x80), (0x2007, 0xBE), (0x4000, 3), (0x4004, 0x80), (0x4007, 0xBE), (0x6028, 5), (0x602E, 0x40), (0x602F, 0xFE)].filter fun c => c.2 != 0 }
def drawerWorld (attr : BitVec 5) (b : Block) : State :=
  { world with
    mem := tableMem, launches := [(0, { blockLaunch with blocks := [(0, b)] })]
    ctl := { world.ctl with ranges := [(0, { derived := false, src := 0, base := 0, owner := 1, limit := 0xFFFF, attr := attr, offset := 0 })] } }
theorem test_meets_DrawerAndController_fills :
    okHas (fillLines (drawerWorld 31 { st := .filling }) 1 (blockLines ((drawerWorld 31 {}).launch 0) (0, 0))) (fun ls _ => ls.length == 64) = true
    ∧ (match fillLines (drawerWorld 31 { st := .filling }) 1 [0x60000] with | .trap _ _ => true | _ => false) = true
    ∧ ((drawerWorld 31 { st := .filling }).launch 0).block (0, 0) = { st := .filling } := by decide +kernel
/-- A waiting queue with a frame free, with none free and a victim, and with neither. -/
theorem test_meets_DrawerAndController : (let s := drawerWorld 31 { st := .waiting, queue := [{ key := 9 }] }
      (s.launch 0).regions[0]? = some { thr := 0, base := 0x50000, bsz := 0, frames := 1, pcap := 4, blocks := 1 }
      ∧ (!((s.launch 0).stopped || startsNothing s 1 || fillRecordHeld s (s.launch 0))) = true
      ∧ (tablesFree s (blockWants (s.launch 0) (0, 0) true) && !registersLater s none none (blockWants (s.launch 0) (0, 0) true)) = true
      ∧ selectQueue 8 ((regionBlocks (s.launch 0) 0).filter fun b => !b.2.queue.isEmpty && b.2.heldOut.isNone)
          = some (0, { st := .waiting, queue := [{ key := 9 }] }) ∧ framesUsed (s.launch 0) 0 < 1)
    ∧ selectVictim [(3, { st := .resident, since := 4 }), (5, { st := .resident, since := 2 }), (6, { st := .resident, hold := 1 })] = some (5, { st := .resident, since := 2 })
    ∧ selectVictim [(6, { st := .resident, hold := 1 })] = none
    ∧ selectQueue 8 [(1, { age := 9 }), (2, { age := 8, queue := [{}] })] = some (1, { age := 9 })
    ∧ killOp world 2 = none ∧ (killOp { world with ctl := { world.ctl with ops := [{ key := 1, kind := .kill, target := 2, issuerCtx := 1, issuer := .nobody, begun := true }] } } 2).isSome = true
    ∧ unscrubbed { scrubs := [{ lo := 0, hi := 3, next := 1 }] } 0 = false ∧ unscrubbed { scrubs := [{ lo := 0, hi := 3, next := 1 }] } 3 = true := by decide +kernel

/-- Function pages with the link up: the last slot and word; rings with one entry to consume, and a consumer that overtakes. -/
theorem test_meets_HostRegisters : (192 ≤ 192 ∧ world.pkg.hostUp = true ∧ world.pkg.published = true)
    ∧ (({ busy := 0x8000000000000000 } : HostFn).busy.getLsbD 63 = true ∧ ({} : HostFn).busy.getLsbD 63 = false)
    ∧ enableLegal world 0 {} .cpl 6 = true ∧ enableLegal world 0 {} .cpl 5 = false ∧ enableLegal world 0 { qbSize := 65536 } .quar 17 = true
    ∧ ((1 : Word).setWidth 32 - ({ prod := 1 } : Ring).cons).toNat ≤ (({ prod := 1 } : Ring).prod - ({ prod := 1 } : Ring).cons).toNat
    ∧ (({ prod := 1 } : Ring).prod - ({ prod := 1 } : Ring).cons).toNat < ((2 : Word).setWidth 32 - ({ prod := 1 } : Ring).cons).toNat
    ∧ ({ en := true, log2n := 6 } : Ring).room = true ∧ ({ en := false } : Ring).room = false
    ∧ (tryWriteQuar (world.setFn 0 { qr := { en := true, log2n := 6 }, qbSize := 65536 }) 0 { w0 := 0, w1 := 0, w2 := 0, w5 := 0, w6 := 0, body := [1] }).isSome = true := by decide +kernel
/-- Frames of every length that a command takes; caps and links on both sides of their limits; the part in recovery. -/
def frame (n : Nat) : MgmtFrame := { ethernet := false, seq := 1, body := List.replicate n 0, tag := none }
theorem test_meets_ManagementCommands : world.mgc.standby = true ∧ world.mgc.boot ≠ .recovery ∧ (frame 32).ethernet = false ∧ (frame 32).body.length = 32
    ∧ (bytesToNat [0x58, 0x02] = 600 ∧ (600 - 600) % 25 = 0 ∧ bytesToNat [0x98, 0x08] = 2200 ∧ bytesToNat [0x57, 0x02] < 600)
    ∧ world.mgc.hssUsed < 2 ^ 30 ∧ bytesToNat ((frame 4100).body.take 4) % 4096 = 0
    ∧ ({ world.mgc with boot := .recovery } : Mgc).boot = .recovery ∧ ({ frame 8 with ethernet := true } : MgmtFrame).ethernet = true := by decide +kernel
/-- The main domain on and off; a column map with one bad bench; a bench of no launch; CXL capacity on port 1. -/
theorem test_meets_PowerAndErrors : State.reset.mgc.standby = false ∧ world.mgc.standby = true ∧ world.mgc.mainOn = true
    ∧ (buildMesh [(3, 7)]).length = 32 ∧ (buildMesh [(3, 7)]).any (fun c => c.phys == 3 && !c.rows.contains 7) = true
    ∧ (920 : Int) ≤ (920 : BitVec 16).toInt ∧ (919 : BitVec 16).toInt < 920 ∧ (39999 : BitVec 16).toNat < 40000
    ∧ benchLive world.pkg 0 = true ∧ benchLive world.pkg 5 = false ∧ launchOn { world with launches := [] } 0 = none
    ∧ (0 < ({ world.pkg with cxl1 := 2 ^ 40 } : Package).cxl1 ∧ world.pkg.cxl1Down = false)
    ∧ unscrubbed world.mem 9 = false := by decide +kernel
/-- A link that is up with two flits unacknowledged, and one that retrains. -/
theorem test_meets_LinkProtocol : (let l : TrobinLink := { up := true, lanes := 8, replay := [(4, 44), (5, 55)], rxSeq := 7, retrySeq := 5, retries := 7 }
      ((world.setLink 15 l).link 15 = l ∧ l.up = true ∧ l.retraining = false)
      ∧ (∃ before after e, l.replay = before ++ (5, e) :: after ∧ ∀ p ∈ before, p.1 ≠ 5)
      ∧ (flitGood (mkFlit 1 0 7 15 0 3) = true ∧ flitSeq (mkFlit 1 0 7 15 0 3) = l.rxSeq ∧ flitType (mkFlit 1 0 7 15 0 3) ≠ 0)
      ∧ flitSeq (mkFlit 1 0 8 15 0 3) ≠ l.rxSeq)
    ∧ trainedWidth [0, 1, 2, 3] = some 4 ∧ trainedWidth [1, 2, 3] = none := by
  refine ⟨⟨by decide +kernel, ⟨[(4, 44)], [], 55, rfl, fun p hp => by simp at hp; simp [hp]⟩, by decide +kernel, by decide +kernel⟩, by decide +kernel, by decide +kernel⟩
/-- Steps from states that meet both invariants: from reset, and of the placed ADD. -/
theorem test_meets_invariants : State.reset.memoriesWf = true ∧ capLegal State.reset.mgc.powerCap = true
    ∧ world.memoriesWf = true ∧ PowerSafe world
    ∧ nextHas (step (State.reset.withFetchWord 96 0x010010203000000000000000)) (fun s => s.memoriesWf) = true :=
  ⟨by decide, by decide, by decide, ⟨by decide, fun _ => ⟨rfl, rfl⟩⟩, by decide +kernel⟩

/-! ## States for the clauses of EventsComplete, most with the step taken -/

/-- A fault record to deliver. -/
def record0 : Record := { key := 3, w0 := 1, w1 := 0, w2 := 0, w3 := 0, w4 := 0, w5 := 0 }


theorem test_meets_EventsComplete_power : State.reset.mgc.standby = false ∧ world.mgc.mainOn = true ∧ benchLive world.pkg world.cur.bench = true
    ∧ nextHas (exec .inputPowerRemoved world) (fun u => !u.mgc.standby && !u.mgc.mainOn) = true
    ∧ nextHas (exec .softErrorCorrected world) (fun u => u.curBench.softErrors == 1) = true
    ∧ nextHas (exec (.uncorrectableError (.benchMemory 0 4194303)) world) (fun u => (u.bench 0).poison.contains (4194303 / 8)) = true
    ∧ nextHas (exec (.thermalTrip 9 920) world) (fun u => !u.mgc.mainOn) = true ∧ nextHas (exec (.undervoltageTrip 39999) world) (fun u => !u.mgc.mainOn) = true
    ∧ nextHas (exec .thermalThrottle world) (fun u => u.mgc.throttled) = true ∧ nextHas (exec .issueGapsEnd world) (fun u => !u.mgc.throttled) = true
    ∧ nextHas (exec .benchFence world) (fun u => u.pkg.fenced.contains 0) = true
    ∧ (let s := { world with pkg := { world.pkg with cxl0 := 2 ^ 40, cxl1 := 2 ^ 41 } }
       nextHas (exec (.cxlDeviceLoss 0) s) (fun u => u.pkg.cxl0Down) && nextHas (exec (.cxlDeviceLoss 1) s) fun u => u.pkg.cxl1Down) = true := by decide +kernel
theorem test_meets_EventsComplete_links : (let l : TrobinLink := { up := true, lanes := 8 }
      let s := { world.setLink 3 l with pkg := { world.pkg with linkLanes := [4, 4, 4, 4] } }
      let r := s.setLink 3 { l with retraining := true }
      flitGood (mkFlit 1 0 0 15 0 3) && flitSeq (mkFlit 1 0 0 15 0 3) == (s.link 3).rxSeq && decide (flitType (mkFlit 1 0 0 15 0 3) ≠ 0)
        && nextHas (exec (.flitReceived 3 (mkFlit 1 0 0 15 0 3)) s) (fun u => (u.link 3).rxSeq == 1)
        && nextHas (exec (.retryRequest 3 7) s) (fun u => (u.link 3).retrySeq == 7)
        && nextHas (exec (.linkDown 3) r) (fun u => !(u.link 3).up)
        && trainedWidth ([0, 1, 2, 3].filter fun k => decide (k < r.pkg.linkLanes.getD 3 0)) == some 4
        && nextHas (exec (.linkRetrain 3 [0, 1, 2, 3]) r) (fun u => (u.link 3).lanes == 4)) = true := by decide +kernel
theorem test_meets_EventsComplete_host : world.pkg.hostUp = true ∧ ((1 : Word).setWidth 32 - ({ prod := 1 } : Ring).cons).toNat ≤ 1
    ∧ nextHas (exec .hostLinkReset ({ world with pkg := { world.pkg with hostUp := false } }.setFn 0 { fr := { en := true } })) (fun u => !(u.fn 0).fr.en) = true
    ∧ nextHas (exec (.commandSlotWrite 192 63 7 5) world) (fun u => (u.fn 192).slots.get 511 0 == 5) = true
    ∧ nextHas (exec (.registerWrite 192 0x110 8 0x4000) world) (fun u => (u.fn 192).cpl.base == 0x4000) = true
    ∧ nextHas (exec (.ringControlWrite 192 .quar 0) world) (fun u => !(u.fn 192).qr.en) = true
    ∧ (let s := world.setFn 1 { cpl := { prod := 1, en := true, log2n := 6 }, qr := { prod := 1, en := true, log2n := 6 }, fr := { prod := 1, en := true, log2n := 10 }
                                frKeys := [3], heldCpl := [{ w0 := 0, w1 := 0 }], heldFr := [record0] }
       nextHas (exec (.cplConsWrite 1 1) s) (fun u => (u.fn 1).cpl.cons == 1) && nextHas (exec (.qrConsWrite 1 1) s) (fun u => (u.fn 1).qr.cons == 1)
         && nextHas (exec (.frConsWrite 1 1) s) (fun u => (u.fn 1).fr.cons == 1 && (u.fn 1).frKeys == [])
         && nextHas (exec (.vfFunctionLevelReset 1) s) (fun u => (u.fn 1).frKeys == [])
         && nextHas (exec (.heldCompletionWrite 1) s) (fun u => (u.fn 1).heldCpl == [])
         && nextHas (exec (.faultRecordDelivery 1) s) (fun u => (u.fn 1).heldFr == [])) = true := by decide +kernel
theorem test_meets_EventsComplete_quarantine : (let q : QuarItem := { w0 := 0, w1 := 0, w2 := 0, w5 := 0, w6 := 0, body := [1] }
      let s := world.setFn 0 { qr := { en := true, log2n := 6 }, qbSize := 65536, heldQr := [q] }
      (s.fn 0).heldQr = [q] ∧ (tryWriteQuar (s.setFn 0 { s.fn 0 with heldQr := [] }) 0 q).isSome = true) := by decide +kernel
/-- Frames of every length that a command takes: it answers at once without an error, or is in execution and will. -/
theorem test_meets_EventsComplete_management : (let ok := fun i : Instr => nextHas (exec i world) (fun u => decide (u.mgc.responses.length = 1) && u.mgc.responses.all (fun r => r.getD 4 1 == 0))
      let ends := fun i : Instr => nextHas (exec i world) (fun u => decide (u.mgc.responses = []) && u.mgc.executing.any (fun r => r.getD 4 1 == 0))
      ok (.triplog (frame 0)) && ok (.pwrget (frame 0)) && ends (.mainoff (frame 0))
        && ends (.pwrset { frame 2 with body := [0x71, 0x02] }) && ends (.mgmtLinkdown (frame 1))
        && ends (.fwstage (frame 5)) && ends (.fwstage (frame 4100)) && ok (.evlog (frame 4))) = true
    ∧ world.mgc.standby = true ∧ world.mgc.boot ≠ .recovery ∧ world.mgc.executing = none ∧ (frame 32).body.length = 32 ∧ world.mgc.hssUsed < 2 ^ 30
    ∧ bytesToNat [0x71, 0x02] = 625 ∧ (625 - 600) % 25 = 0 := by decide +kernel
theorem test_meets_EventsComplete_scheduling : nextHas (exec .issuePeriod (withBench { periodClocks := 65536 })) (fun u => u.curBench.periodClocks == 0) = true
    ∧ nextHas (exec .bandwidthPeriod world) (fun u => (u.spending true 0 4095).spent == 0) = true
    ∧ (let h : HeldMessage := { launch := 0, message := { key := 9, dest := 1 } }
       let s := withBench { held := [h] }
       (s.launch 0).stopped = false ∧ ((s.launch 0).rank 1).st = rankValid
        ∧ (placeMessage (s.setBench 0 { s.bench 0 with held := [h].filter fun x => !(x.launch == h.launch && x.message.key == h.message.key) }) 0 h.message).isSome = true)
    ∧ (let s := schedWorld { key := 8, cls := 4 } 0
       ({ cls := 4 } : Message).hidx < (s.launch 0).handlerCount ∧ nextMessage (s.launch 0) 0 = some { key := 8, cls := 4 }
        ∧ nextHas (exec .taskDispatch s) (fun u => u.strand.isSome) = true)
    ∧ (let s := { schedWorld { key := 8 } 0 with benches := [(0, { idleClocks := 4096 })] }
       takeBudget 0 0 1 s = none ∧ gangReady s 0 = false ∧ nextHas (exec .throttledActivation s) (fun u => u.strand.isSome) = true)
    ∧ rankHeld (gangWorld.launch 0) 0 = false ∧ nextHas (exec .gangActivation gangWorld) (fun u => u.strand.isSome) = true := by decide +kernel
theorem test_meets_EventsComplete_ends : (let l := { launch0 with tasks := [(5, { live := 0, fate := .halted })] }
      let s : State := { withLaunch l with hcs := [] }
      ({ live := 0, fate := .halted } : Task).descriptor = none ∧ nextHas (exec (.taskEnd 0 5) s) (fun u => (u.launch 0).tasks == []) = true)
    ∧ (let d : Descriptor := { w0 := place 60 4 2, w1 := 0, w2 := 0, w3 := 0x50000 }
       let l := { launch0 with descriptors := [d], unread := [{ task := 0 }] }
       2 ≤ d.kind ∧ okHas (deviceRead ((domainWorld l).setLaunch 0 { l with unread := [] }) 1 d.control 8) (fun bs _ => bs.length == 8) = true)
    ∧ (let s := withStrand { strand0 with clocks := 100 }
       taskStrands s 0 5 = [{}] ∧ nextHas (exec .watchdog s) (fun u => u.strand.isNone) = true)
    ∧ (let s := stuckWorld 256
       gangStuck s {} = true ∧ taskStrands s 0 5 = [{}] ∧ nextHas (exec .gangDeadlock s) (fun u => u.strand.isNone) = true)
    ∧ (let s : State := { withLaunch { launch0 with tasks := [], mailboxes := [] } with hcs := [] }
       (s.launch 0).issuer = .nobody ∧ launchDone s 0 = true ∧ nextHas (exec (.launchComplete 0) s) (fun u => (u.launches.find 0).isNone) = true)
    ∧ (let o : CtxOp := { key := 1, kind := .stop, target := 2, issuerCtx := 1, issuer := .nobody, begun := true }
       let s : State := { world with ctl := { ctxs := [(1, { depth := 1, st := .running }), (2, { parent := 1, depth := 2, st := .stopping })], ops := [o] } }
       s.ctl.ops.find? (fun o => o.target == 2 && o.begun && o.result.isNone && o.items == 0 && decide (o.kind ≠ .kill)) = some o
        ∧ ownOpBelow s 2 = false ∧ subtreeQuiet s 2 = true)
    ∧ (let o : CtxOp := { key := 1, kind := .kill, target := 2, issuerCtx := 1, issuer := .nobody, begun := true }
       let s : State := { world with ctl := { world.ctl with ops := [o] } }
       killOp s 2 = some o ∧ s.ctl.ops.all (fun x => x.target != 2 || unwrittenItems s x.key == 0) = true)
    ∧ (let s : State := { world with mem := { world.mem with scrubs := [{ lo := 0, hi := 3, next := 1 }] } }
       unscrubbed s.mem 3 = true ∧ nextHas (exec (.scrubLine 3) s) (fun u => u.mem.llc == []) = true) := by decide +kernel
theorem test_meets_EventsComplete_controller : (let s := drawerWorld 31 { st := .waiting, queue := [{ key := 9 }] }
      let x : Block := { st := .waiting, queue := [{ key := 9 }] }
      (s.launch 0).regions[0]? = some { thr := 0, base := 0x50000, bsz := 0, frames := 1, pcap := 4, blocks := 1 } ∧ startsNothing s 1 = false
        ∧ fillRecordHeld s (s.launch 0) = false ∧ x.leaving = false
        ∧ selectQueue 8 ((regionBlocks (s.launch 0) 0).filter fun y => !y.2.queue.isEmpty && y.2.heldOut.isNone) = some (0, x)
        ∧ framesUsed (s.launch 0) 0 < 1 ∧ tablesFree s (blockWants (s.launch 0) (0, 0) true) = true
        ∧ registersLater s none none (blockWants (s.launch 0) (0, 0) true) = false
        ∧ nextHas (exec (.fetchSelection 0 0) s) (fun u => ((u.launch 0).block (0, 0)).st == .filling) = true)
    ∧ (let s := drawerWorld 31 { st := .filling }
       fillReady s 0 0 0 = true ∧ okHas (fillLines s 1 (blockLines (s.launch 0) (0, 0))) (fun _ _ => true) = true
        ∧ nextHas (exec (.fillComplete 0 0 0) s) (fun u => ((u.launch 0).block (0, 0)).st == .resident) = true)
    ∧ (let s := { drawerWorld 31 { st := .filling } with mem := {} }
       fillReady s 0 0 0 = true ∧ nextHas (exec (.fillFault 0 0 0) s) (fun u => ((u.launch 0).block (0, 0)).heldOut.isSome) = true)
    ∧ nextHas (exec (.evictionDone 0 0 0) (drawerWorld 31 { st := .evicting, leaving := true })) (fun u => !((u.launch 0).block (0, 0)).leaving) = true := by
  decide +kernel
theorem test_meets_EventsComplete_engines : (let t : Strand := { strand0 with xs := [] }
      let s := { domainWorld (stepLaunch {}) with hcs := [(0, { strand := some t })] }
      pendingVecMem s {} t = false ∧ 0 < (s.launch 0).stepCount ∧ nextHas (exec (.clpost (slot3 (.x 0) (.x 1) (.x 0))) s) (fun u => decide (u.issue = .retired)) = true)
    ∧ (let t : Strand := { strand0 with xs := [(2, 1022), (3, 2)] }
       let f : Slot := { slot3 (.x 0) (.x 0) (.x 2) with c := .x 3, space := .s }
       okHas (readSource t (sourceSpace { f with c := .x 0 } 0) (xOf t f.a) (4 * 2) (withStrand t)) (fun _ v => decide (v.curBench.jobs.length < 8)) = true
        ∧ (xOf t f.b).toNat + (xOf t f.c).toNat = 1024 ∧ nextHas (exec (.wload f) (withStrand t)) (fun u => u.curBench.jobs.length == 1) = true)
    ∧ (let t : Strand := { strand0 with xs := [(1, 196576)] }
       let f : Slot := slot3 (.x 0) (.x 1) (.x 57)
       let wants := (spanOf (.spad 0) 196576 32 true).map fun p => (0, p)
       tablesFree (withStrand t) wants = true ∧ registersLater (withStrand t) (some 0) (waitTicket (withStrand t) 0 (.register wants)) wants = false
        ∧ nextHas (exec (.wrun f) (withStrand t)) (fun u => u.curBench.jobs.length == 1) = true)
    ∧ pendingRuns world {} strand0 = false ∧ nextHas (exec (.wwait f3) world) (fun u => decide (u.issue = .retired)) = true := by decide +kernel
theorem test_meets_EventsComplete_collective : (let l := stepLaunch { running := true }
      let s := domainWorld l
      okHas (stepRead s 1 (l.stepBlock 0) 64) (fun bs u => let ws := (List.range 8).map (byteWord bs)
        stepLockFree u l 0 (stepSpans (l.stepOp 0) ws) && okHas (stepRead (stepLock u 0 0 (stepSpans (l.stepOp 0) ws)) 1 (blockSource ws) (stepSourceBytes (l.stepOp 0) ws)) (fun _ _ => true)) = true
        ∧ nextHas (exec (.collectiveStepStart 0 0) s) (fun u => ((u.launch 0).collective 0).started) = true)
    ∧ (let s := domainWorld (stepLaunch { running := true, started := true, operands := [0, 0, 0, 0, 0, 0, 0, 0] })
       contributionsReady ((s.launch 0).stepOp 0) ((s.launch 0).collective 0).operands [] = true
        ∧ nextHas (exec (.collectiveStepFinish 0 0 0 []) s) (fun u => !((u.launch 0).collective 0).started) = true) := by decide +kernel
theorem test_meets_EventsComplete_units : nextHas (exec .vectorCommandExecute vectorWorld) (fun u => (u.core 0).inFlight.all fun x => x.key != 4) = true
    ∧ [(0xD2, typed .f32 (.acc 3) (.x 0) (.x 0)), (0xD3, slot3 (.ym 3) (.x 0) (.x 0)), (0xD5, { slot3 (.x 0) (.x 0) (.x 0) with imm := 7 })].all (fun p =>
        nextHas (exec .matrixCommandComplete (matrixWorld p.1 p.2)) fun u => (u.core 0).inFlight.all fun x => x.key != 4) = true
    ∧ nextHas (exec .sfuRequestServed (withCore { sfu := [{}] })) (fun u => decide (u.curCore.sfu = [])) = true
    ∧ nextHas (exec (.copyComplete 0 0) (withBench { copies := [copyCmd0] })) (fun u => (u.bench 0).copies.length == 0) = true
    ∧ (let c : CopyCmd := { copyCmd0 with kind := .getx, elements := 0 }
       (match runUnits 0 c.fuel c (withBench { copies := [c] }) with | .done c1 _ => decide (c1.follow = none) | _ => false) = true
        ∧ nextHas (exec (.getxPlacexComplete 0 0) (withBench { copies := [c] })) (fun u => (u.bench 0).copies.length == 0) = true)
    ∧ nextHas (exec (.engineLateFault 0 0) { withBench { copies := [copyCmd0] } with cores := [(0, { spadPoison := [16] })] }) (fun u => (u.bench 0).copies.length == 0) = true
    ∧ nextHas (exec (.streamBatch 0 2) (streamWorld { session0 with lenA := 0 })) (fun v => (v.session 0 2).posted) = true := by decide +kernel
theorem test_meets_EventsComplete_walker : (let s := withBench { jobs := [.run run0, .run run0] }
      (s.bench 0).run = none ∧ nextHas (exec .walkerRunStart s) (fun u => (u.bench 0).run.isSome && (u.bench 0).jobs.length == 1) = true)
    ∧ nextHas (exec .walkerLoadStore (withBench { jobs := [.load {} 1023 [7] 0 5] })) (fun u => (u.bench 0).jobs.length == 0) = true
    ∧ nextHas (exec .walkerStepLimit (walkerWorld { run0 with steps := 2 ^ 24 })) (fun u => (u.bench 0).run.isNone) = true
    ∧ (let q := { run0 with regs := [(1, 1)], pc := 1022 }
       let ran (i : Instr) (p : WalkerRun → Bool) := nextHas (exec i (walkerWorld q)) fun u => (u.bench 0).run.any p
       ran (.wldi 2 (-1)) (fun r => r.reg 2 == -1 && r.pc == 1023) && ran (.wadd 2 1 1 3) (fun r => r.reg 2 == 5)
        && ran (.wcmp 2 1 1 0) (fun r => r.reg 2 == 1) && ran (.wbr 1 7) (fun r => r.pc == 7) && ran (.wrow 1 0 3) (fun r => r.row == 1 && r.col == 3)
        && ran (.wemit 1 0) (fun r => r.col == 1) && ran (.wskip 1 2) (fun r => r.col == 3) && ran (.wflush 4) (fun r => r.tiles == 1)
        && nextHas (exec (.wmeta 1 0) (walkerWorld { q with sparsity := 1 })) (fun u => (u.bench 0).run.any fun r => r.groups.get 0 0 == 1)
        && okHas (walkerLoad q 0x50000 8 (globalWorld 0)) (fun v _ => v == 0xFFFFFFFFFFFFFFFF)
        && nextHas (exec .wend (walkerWorld q)) (fun u => (u.bench 0).run.isNone)
        && nextHas (exec (.unassignedWalkerWord 1) (walkerWorld q)) (fun u => (u.bench 0).run.isNone)) = true := by decide +kernel
theorem test_meets_EventsComplete_waits : (let f : Slot := slot3 (.x 3) (.x 1) (.x 0)
      let t := { waiting (.ldw 16) (some f) with xs := [(1, 16)] }
      let s := { withCore { full := [2], spad := [(16, 7)] } with hcs := [(0, { strand := some t })] }
      olderWaiter s {} (upFrom 0 8) (.ldw 16) = false ∧ nextHas (exec .ldwServed s) (fun u => u.strand.any fun t => t.x 3 == 7) = true)
    ∧ (let s := { queueWorld with hcs := [(0, { strand := some (waiting (.queueRead 8) none) })] }
       queueWords s (waiting (.queueRead 8) none) 8 ≠ [] ∧ nextHas (exec .queueWaitServed s) (fun u => u.strand.any fun t => t.wait.any (·.served)) = true)
    ∧ (let s := withStrand (waiting (.barwait 3) (some { f3 with a := .b 3 }))
       let s := s.setBench 0 { s.bench 0 with barriers := [(3, { expect := 1, arrived := 1 })] }
       barwaitOver ((waiting (.barwait 3) none).handle 3) (s.barrier 0 3) = true
        ∧ nextHas (exec .barwaitRelease s) (fun u => decide (u.issue = .retired) && u.strand.all fun t => t.wait.isNone) = true)
    ∧ claimHeir (withStrand (waiting .claim none)) = some 0
    ∧ nextHas (exec .claimHandover (withStrand (waiting .claim none))) (fun u => u.curCore.claim == some 0) = true := by decide +kernel

/-! ## States for further clauses of the statements -/

/-- One message to a VALID rank is released at HALT; the sender has no session and the core no matrix command. -/
theorem test_meets_HaltEnds_release : (let t : Strand := { strand0 with sends := [.message { cls := 0, dest := 1 }] }
      let s := withStrand t
      canRelease {} t s = true ∧ ((s.launch 0).rank 1).st ≠ rankTransit ∧ (s.bench 0).sessions = [] ∧ (s.core 0).matrix = none ∧ t.message.capsule = none
        ∧ nextHas (exec (.halt f3) s) (fun u => decide (u.issue = .ended) && u.flights.length == 1) = true) := by decide +kernel
theorem test_meets_GlobalAccesses_holds : (let t : Strand := { strand0 with xs := [(1, 0x50000), (2, 3)] }
      okHas (soHold t 0x50000 8 (globalWorld 3)) (fun _ _ => true) && okHas (writeHold t .global 0x50000 8 (globalWorld 3)) (fun _ _ => true)
        && okHas (orderHold t .rel .pkg (globalWorld 3)) (fun _ _ => true)) = true := by decide +kernel
/-- A step's flit that the peer has not acknowledged: a release at .sys waits. -/
def unackedWorld : State := (withLaunch (stepLaunch {})).setLink 3 { up := true, replay := [(0, 0)] }
theorem test_meets_FencesAndCaches_sys : sysPending unackedWorld 0 = true ∧ sysPending world 0 = false
    ∧ nextHas (exec (.fence { f3 with order := .rel, scope := .sys, imm := 1 }) unackedWorld) (fun u => decide (u.issue = .waiting .older)) = true := by decide +kernel
theorem test_meets_SendsAreBuffered_migrate : (let t1 : Strand := { strand0 with sends := [.message { cls := 1, plen := 3, dest := 1, payload := List.replicate 96 0 }] }
      strand0.sends = [] ∧ ((world.launch 0).rank 1).st ≠ rankTransit ∧ canRelease {} t1 (world.setStrand t1) = true ∧ pendingSfu world {} = false
        ∧ nextHas (exec (.migrate { f3 with a := .x 1, m := 1 }) (regs 1 0x20000)) (fun u => decide (u.issue = .ended)
            && u.flights.any fun x => decide (x.message.cls = 1 ∧ x.message.dest = 1 ∧ byteWord x.message.payload 8 = 0x20000)) = true) := by decide +kernel
/-- A field that takes its largest value, and one past it; the tile of the largest TSZ. -/
theorem test_meets_CapsuleInstructions_fields : (let t : Strand := { strand0 with capsule := some capsule0, xs := [(1, 1), (2, 15)] }
      nextHas (exec (.capset { f3 with m := 4 }) (withStrand t)) (fun u => u.strand.any fun t => t.capsule.any fun c => c.entries.getD 1 0 == (place 44 12 1 ||| place 40 4 15))
        && nextHas (exec (.capset { f3 with m := 4 }) (withStrand { t with xs := [(1, 1), (2, 16)] })) (fun u => decide (u.strand = none))
        && nextHas (exec (.capset { f3 with m := 10 }) (withStrand { t with xs := [(2, 63)] })) (fun u => u.strand.any fun t => t.capsule.any fun c =>
            c.tile.length == 8192 && field c.header 6 6 == 63)) = true := by decide +kernel
/-- With 32 entries the tile follows the last one: an access over both. -/
theorem test_meets_LocalLoads_capsule : (let c : Capsule := { header := place 22 6 32, entries := List.replicate 32 0, tile := List.replicate 128 7 }
      let t : Strand := { strand0 with capsule := some c, xs := [(1, 0x104)] }
      capCount c = 32 ∧ 0x104 + 4 ≤ 0x108 + capTileBytes c
        ∧ x3 (exec (.ld { typed .n32 (.x 3) (.x 1) (.x 0) with c := .cap, imm := 4 }) (withStrand t)) = some 0x07070707) := by decide +kernel
theorem test_meets_VectorIssue_claim : (withCore { claim := some 1 }).curCore.holds 0 = false ∧ okHas (takeClaim (withCore {})) (fun _ _ => true) = true
    ∧ indexPending (.v 2) (withCore { commands := [{ slot := slot3 (.v 2) (.v 3) (.v 4), opcode := 0xB0 }] }) = true
    ∧ nextHas (exec (.vst { slot3 (.x 0) (.x 1) (.v 2) with space := .s }) (withCore { claim := some 1 })) (fun u => decide (u.issue = .waiting .claim)) = true
    ∧ 32 ≤ (withCore { sfu := List.replicate 32 {} }).curCore.sfu.length := by decide +kernel
theorem test_meets_MatrixIssue_msta : okHas (engineBlocks strand0 [rowsBounds (.spad 0) (rowAddrs 0 256 16) 64] claimed0) (fun bs u => bs == [] && decide (u.cur = {})
    && decide (u.curCore.commands.length < 16)) = true ∧ okHas (takeClaim claimed0) (fun _ _ => true) = true := by decide +kernel
/-- A rank in transit: a GETX of it waits. -/
theorem test_meets_IndexedCopies_transit : (let f : Slot := { slot3 (.x 0) (.x 0) (.x 0) with c := .x 4, imm := place 30 2 2 ||| place 28 2 3 ||| place 26 2 2 |>.setWidth 48 }
    let t : Strand := { strand0 with xs := [(4, place 32 12 1 ||| 4)] }
    let s := { withStrand t with launches := [(0, { launch0 with ranks := [(1, { st := 2, seat := 1 })] })] }
    ((s.launch 0).rank 1).st = rankTransit ∧ nextHas (exec (.getx f) s) (fun u => decide (u.issue = .waiting .release)) = true) := by decide +kernel
/-- The copy of a CPYMM ends, and its matrix command enters the queue of the core, or waits for a full one. -/
theorem test_meets_CopyCompletion_follow : (let c : CopyCmd := { copyCmd0 with kind := .cpymm, follow := some { slot := mma0, opcode := 0xD0, task := 5 } }
      let s := withBench { copies := [c] }
      let full := { s with cores := [(0, { commands := List.replicate 16 { slot := f3, opcode := 0xB0 } })] }
      (match runUnits 0 c.fuel c s with | .done c1 s1 => c1.follow.isSome && decide ((s1.core 0).commands.length < 16) | _ => false) = true
        ∧ (match runUnits 0 c.fuel c full with | .done c1 s1 => c1.follow.isSome && decide (16 ≤ (s1.core 0).commands.length) | _ => false) = true
        ∧ nextHas (exec (.copyComplete 0 0) s) (fun u => (u.core 0).commands.length == 1) = true
        ∧ { c with cancelled := true }.cancelled = true) := by decide +kernel
/-- A pair whose second slot waits for a word that is not full. -/
theorem test_meets_PairIsOneGroup_waits : engineFirst (.add f3) = false ∧ nextHas (exec (.add f3) (regs 16 0)) (fun s1 =>
    nextHas (exec (.ldw (slot3 (.x 4) (.x 1) (.x 0))) (secondSlot { strand0 with xs := [(1, 16), (2, 0)] } s1)) fun s3 => decide (s3.issue = .waiting (.ldw 16))) = true := by
  decide +kernel
/-- q16 is declared at bench memory offset 64; its oldest entry is poisoned, or not. -/
def declaredWorld (poison : List Nat) : State :=
  { withLaunch { launch0 with queues := [{ reg := 16, depth := 4, offset := 64 }] } with
    benches := [(0, { mem := [(64, 9)], poison := poison, queues := [(16, { count := 1 })] })] }
theorem test_meets_OperandForms_declared : queueNamed (launch0) 16 = false ∧ queueNamed ((declaredWorld []).launch 0) 16 = true
    ∧ queueWords (declaredWorld []) strand0 16 = [9] ∧ queuePoison (declaredWorld []) strand0 16 = none ∧ queuePoison (declaredWorld [8]) strand0 16 = some 64
    ∧ unresolvedVecMem (declaredWorld []) {} strand0 = false ∧ cellsWf (declaredWorld []).curBench.mem = true
    ∧ queueDecl ((declaredWorld []).launch 0) 16 = some { reg := 16, depth := 4, offset := 64 } ∧ (64 + 8 * 4 ≤ (96 : Nat)) := by decide +kernel
theorem test_meets_Scheduling_more : rankHeld { launch0 with rankHolds := [{ rank := 0, record := 1 }] } 0 = true
    ∧ reservedGang { gangWorld with launches := [(0, { gangWorld.launch 0 with rankHolds := [{ rank := 0, record := 1 }] })] } 0 = some (0, { key := 8, cls := 3 })
    ∧ (({ launch0 with header := launch0.header.take 11 ++ List.replicate 12 0 |>.set 11 3 } : Launch).bwCap = 3 ∧ launch0.bwCap = 0)
    ∧ ({ idleClocks := 4095 } : Bench).idleClocks < 4096 ∧ ({ periodClocks := 65535 } : Bench).periodClocks < 65536
    ∧ ((withLaunch { launch0 with ranks := [] }).launch 0).rank 1 = { st := rankInvalid } := by decide +kernel
theorem test_meets_TaskAndLaunchEnds_requeued : (let l := { launch0 with tasks := [(5, { live := 0, fate := .requeued })] }
     let s : State := { withLaunch l with hcs := [] }
     taskStrands s 0 5 = [] ∧ nextHas (exec (.taskEnd 0 5) s) (fun u => (u.launch 0).tasks == []) = true)
    ∧ (let l := { launch0 with tasks := [(5, { live := 0, fate := .failed })] }
     nextHas (exec (.taskEnd 0 5) { withLaunch l with hcs := [] }) (fun u => (u.launch 0).tasks == [] && ((u.launch 0).boxMessage 0 5).isNone) = true)
    ∧ launch0.issuer = .nobody := by decide +kernel
/-- No frame is free: the block resident longest, which nothing holds, is evicted for the fill. -/
theorem test_meets_DrawerAndController_victim : (let l := { blockLaunch with
        regions := [{ thr := 0, base := 0x50000, bsz := 0, frames := 1, pcap := 4, blocks := 2 }]
        blocks := [(0, { st := .resident }), (1, { st := .waiting, queue := [{ key := 9 }] })] }
      let s := { drawerWorld 31 {} with launches := [(0, l)] }
      1 ≤ framesUsed (s.launch 0) 0 ∧ selectVictim (regionBlocks (s.launch 0) 0) = some (0, { st := .resident })
        ∧ nextHas (exec (.fetchSelection 0 0) s) (fun u => ((u.launch 0).block (0, 0)).leaving && decide (((u.launch 0).block (0, 1)).waitsFor = some 0)) = true) := by
  decide +kernel
/-- SHA-384 of "abc", and the HMAC of test case 2 of RFC 4231. -/
theorem test_hashes : bytesToNat (sha384 [0x61, 0x62, 0x63]).reverse = 0xCB00753F45A35E8BB5A03D699AC65007272C32AB0EDED1631A8B605A43FF5BED8086072BA1E7CC2358BAECA134C825A7
    ∧ bytesToNat (natToBytes (hmac384 0x6566654A [0x77, 0x68, 0x61, 0x74, 0x20, 0x64, 0x6F, 0x20, 0x79, 0x61, 0x20, 0x77, 0x61, 0x6E, 0x74, 0x20, 0x66, 0x6F, 0x72, 0x20, 0x6E, 0x6F, 0x74,
        0x68, 0x69, 0x6E, 0x67, 0x3F]).toNat 48).reverse = 0xAF45D2E376484031617F78D2B58A6B1B9C7EF464F5A01B47E42EC3736322445E8E2240CA5E69E2C78B3239ECFAB21649 := by decide +kernel
/-- PWRSET over Ethernet: its body is the counter and then the cap. -/
def sealedFrame (counter : Byte) (tag : Option (BitVec 384)) : MgmtFrame := { ethernet := true, seq := 1, body := [counter, 0, 0, 0, 0, 0, 0, 0, 0x71, 0x02], tag := tag }
def goodTag (counter : Byte) : Option (BitVec 384) := some (hmac384 1 (requestHeader 6 (sealedFrame counter none) ++ (sealedFrame counter none).body))
def keyWorld : State := { world with mgc := { world.mgc with key := some 1, counters := [(1, 8)] } }
/-- A tag under the key with a counter that is new, and one that is not; then a command in execution, and its end. -/
theorem test_meets_ManagementCommands_keys : authentic keyWorld 6 (sealedFrame 9 (goodTag 9)) = true ∧ authentic keyWorld 6 (sealedFrame 8 (goodTag 8)) = false
    ∧ authentic keyWorld 6 (sealedFrame 9 none) = false
    ∧ nextHas (exec (.pwrset (sealedFrame 9 (goodTag 9))) keyWorld) (fun u => decide (u.mgc.powerCap = 625) && u.mgc.counters == [(1, 9)] && u.mgc.executing.isSome) = true
    ∧ nextHas (exec (.pwrset (sealedFrame 9 (goodTag 9))) { keyWorld with mgc := { keyWorld.mgc with executing := some [] } })
        (fun u => u.mgc.responses.all fun r => r.getD 4 0 == 2) = true := by decide +kernel
theorem test_meets_ManagementCommands_end : (let s : State := { world with agenda := [.managementEnd], mgc := { world.mgc with executing := some [1, 2] } }
      nextHas (step s) (fun u => decide (u.mgc.executing = none) && u.mgc.responses == [[1, 2]]) = true)
    ∧ nextHas (exec (.pwrset (frame 2)) { world with mgc := { world.mgc with boot := .recovery } }) (fun u => u.mgc.responses.all fun r => r.getD 4 0 == 1) = true
    ∧ nextHas (exec (.evlog (frame 5)) world) (fun u => u.mgc.responses.all fun r => r.getD 4 0 == 1) = true := by decide +kernel
/-- CTXQUERY of a child; CTXRESUME of one that is stopped on chip; CTXSTOP of one that is idle. -/
theorem test_meets_ContextRules_requests : (∃ w, request world (req 0x9F 2 [0x100]) = .done w world) ∧ (∃ k u, request world (req 0x9B 2 []) = .pending k u)
    ∧ (let s : State := { world with ctl := { ctxs := [(1, { depth := 1, st := .running }), (2, { parent := 1, depth := 2, st := .stopped, onChip := true })] } }
       s.ctx 2 = some { parent := 1, depth := 2, st := .stopped, onChip := true } ∧ (resumedLaunches s (resumedTree s 2)).all (mayResume s 0 0) = true
        ∧ ∃ k u, request s (req 0x9C 2 [0, 0]) = .pending k u) :=
  ⟨⟨_, rfl⟩, ⟨_, _, rfl⟩, by decide +kernel, by decide +kernel, ⟨_, _, rfl⟩⟩

/-- A store of v0 to the scratchpad in the command queue of core 0, and its strand. -/
def storeCmd : VecCmd := { key := 4, opcode := 0xC7, slot := { slot3 (.x 0) (.x 0) (.v 0) with space := .s }, task := 5 }
def storeWorld : State := withCore { commands := [storeCmd], claim := some 0, rows := [(0, 0x1122334455667788)] }
/-- A trap that comes after the strand's older store: the strand waits with it, alone or as the second slot of a pair. -/
theorem test_meets_PairIsOneGroup_trap : pendingVecMem storeWorld {} strand0 = true
    ∧ nextHas (exec (.add f3) storeWorld) (fun s1 => nextHas (exec (.trapi (slot3 (.x 0) (.x 0) (.x 0))) (secondSlot strand0 s1)) fun s3 =>
        decide (s3.issue = .waiting (.trap { cause := .trapi, fails := true }))) = true
    ∧ nextHas (exec .illegal storeWorld) (fun s1 => decide (s1.issue = .waiting (.trap { cause := .illegalOp }))) = true
    ∧ nextHas (exec (.ldw (slot3 (.x 4) (.x 1) (.x 0))) (regs 16 0)) (fun s1 => decide (s1.issue = .waiting (.ldw 16))) = true := by decide +kernel
/-- VST, then an LD of its bytes: the store is executed, and the load reads what it wrote (R229). -/
theorem test_meets_PairIsOneGroup_engine :
    (let i : Instr := .vst { slot3 (.x 0) (.x 0) (.v 0) with space := .s }
     let j : Instr := .ld { typed .i64 (.x 3) (.x 0) (.x 0) with space := .s }
     let s := withCore { claim := some 0, rows := [(0, 0x1122334455667788)] }
     engineFirst i = true ∧ nextHas (exec i s) (fun s1 => decide (s1.issue = .retired)
       && nextHas (exec j (secondSlot strand0 s1)) (fun s3 => decide (s3.issue = .waiting .older))
       && (finishFirst exec j (2 ^ 25) (secondSlot strand0 s1)).any fun u => decide (u.issue = .retired) && u.strand.any fun t => t.x 3 == 0x1122334455667788) = true) := by
  decide +kernel
/-- VADD, then an LDW of a word that is not full, or an ADD of an empty queue: the engines come to rest first, and the pair waits whole. -/
theorem test_meets_PairIsOneGroup_rest :
    (let i : Instr := .vadd (typed .i32 (.v 1) (.v 2) (.v 3))
     let j : Instr := .ldw (slot3 (.x 4) (.x 0) (.x 0))
     let k : Instr := .add (slot3 (.x 4) (.q 8) (.x 1))
     nextHas (exec i claimed0) (fun s1 => (finishFirst exec j (2 ^ 25) (secondSlot strand0 s1)).isNone && (finishFirst exec k (2 ^ 25) (secondSlot strand0 s1)).isNone) = true
       ∧ (issuePair exec i j strand0 claimed0).curCore.commands = []) := by decide +kernel
/-- A poisoned word of a barrier object, and one beside it. -/
theorem test_meets_BarrierPhases_poison : barrierPoisoned (withBench { poison := [0x7FF0C] }) 0 3 = true ∧ barrierPoisoned (withBench { poison := [0x7FF0E] }) 0 3 = false
    ∧ nextHas (exec (.barinit { f3 with a := .b 3 }) (withBench { poison := [0x7FF0D] })) (fun u => decide (u.issue = .trapped { cause := .poison, addr := some 0x3FF860 })) = true
    ∧ okHas (fenceBody strand0 .rel .bench 7 (withBench { poison := [0x7FF0C] })) (fun _ s1 => decide (s1.benches = [(0, { poison := [0x7FF0C] })] ∧ s1.cur = {})) = true := by decide +kernel
theorem test_meets_MatrixIssue_msta_register : okHas (register strand0 [(0, rowsBounds (.spad 0) (rowAddrs 0 256 16) 64)] (.command 0) claimed0)
    (fun _ u => (u.bench 0).locks.any fun e => e.span.lo == 0 && e.span.hi == 15 * 256 + 63) = true := by decide +kernel
/-- A migrant that faults at its first fetch fails; any other message is requeued. -/
theorem test_meets_TrapEntry_migrant : (let t : Strand := { strand0 with firstFetch := true, message := { key := 5, cls := 1 } }
      let s : State := { withStrand t with launches := [(0, { launch0 with mailboxes := [(0, [{ key := 5, cls := 1, active := true }])] })] }
      (s.launch 0).boxMessage 0 5 = some { key := 5, cls := 1, active := true } ∧ causeClass .illegalOp = 0
        ∧ ((takeTrap s {} { cause := .illegalOp }).launch 0).failed = true) := by decide +kernel
/-- A reader that waits on q3 when its session faults is served, to take its trap; a poisoned object ends the wait on it. -/
theorem test_meets_ServedWaits_faults : (let t := { waiting (.queueRead 3) none with q3Faults := [(7, 0)] }
      (queueFault t 3).isSome = true ∧ nextHas (exec .queueWaitServed (withStrand t)) (fun u => u.strand.any fun t => t.wait.any (·.served)) = true)
    ∧ barrierPoisoned (withStrand (waiting (.barwait 3) none)) 0 3 = false := by decide +kernel
/-- A release that waits at a line of the block holds its eviction up. -/
theorem test_meets_DrawerAndController_waits : (let s := drawerWorld 31 { st := .evicting, leaving := true }
      let n : NrAtomic := { issuer := {}, launch := 0, task := 5, va := 0x50000, at_ := frameless, opcode := 0x70, variant := 0, ty := .i32, operand := 1, compare := 0, after := [4] }
      frameWaits s 0 (0, 0) = false ∧ frameWaits { storeWorld with launches := s.launches, mem := { s.mem with nr := [n] } } 0 (0, 0) = true) := by decide +kernel
/-- A fence of class G does not wait for a store to the scratchpad; one of class L does (R106). -/
theorem test_fence_classes : nextHas (exec (.fence { f3 with order := .rel, scope := .pkg, imm := 1 }) storeWorld) (fun u => decide (u.issue = .retired)) = true
    ∧ nextHas (exec (.fence { f3 with order := .rel, scope := .pkg, imm := 2 }) storeWorld) (fun u => decide (u.issue = .waiting .older)) = true := by decide +kernel
/-- VSHUF.f6e2 reads its indices at the width of eight bits (R322). -/
theorem test_shuffle_f6e2 : (let s := withCore { commands := [{ key := 4, opcode := 0xC4, slot := typed .f6e2 (.v 1) (.v 2) (.v 3), task := 5 }], claim := some 0
                                                 rows := [(2, BitVec.ofNat 2048 (2 ^ (8 * 200) * 5)), (3, 200)] }
    nextHas (exec .vectorCommandExecute s) (fun u => (lanes 8 ((u.core 0).row 1)).getD 0 0 == 5) = true) := by decide +kernel

/-! ## What holds a strand's end, its younger accesses, and its queue reads up -/

/-- A sibling of the strand performs a context operation; an operation of the strand's own bench. -/
def siblingWorld : State :=
  { world with hcs := [(0, { strand := some strand0 }), (1, { strand := some { waiting (.ctxOp 9) none with gangIndex := 1 } })] }
theorem test_meets_endWaits : endWaits world strand0 = false ∧ operating world 0 = false
    ∧ endWaits siblingWorld strand0 = true ∧ operating siblingWorld 0 = true
    ∧ nextHas (exec .illegal siblingWorld) (fun u => decide (u.issue = .waiting (.trap { cause := .illegalOp }))) = true
    ∧ nextHas (exec .benchFence siblingWorld) (fun u => u.pkg.fenced == []) = true := by decide +kernel
theorem test_meets_IntegerOtherForms_not : nextHas (exec (.klog { slot3 (.k 1) (.k 2) (.x 0) with m := 5 }) world) (fun u => u.strand.any fun t => t.k 1) = true
    ∧ nextHas (exec (.klog { slot3 (.k 1) (.k 0) (.x 0) with m := 5 }) world) (fun u => u.strand.any fun t => !t.k 1) = true := by decide +kernel
/-- 2.5 in F32 to I32, toward zero (R222). -/
theorem test_meets_FloatResults_integer : fmtOf .i32 = none
    ∧ x3 (exec (.fcvt { typed .i32 (.x 3) (.x 1) (.x 0) with m := 11, rnd := .rtz }) (withStrand { strand0 with xs := [(1, 0x40200000)] })) = some 2 := by
  decide +kernel
theorem test_meets_GlobalAccesses_fences : (let t : Strand := { strand0 with xs := [(1, 0x50000), (2, 3)] }
    okHas (pageHold t .rlx .pkg 0x50000 8 kWrite (globalWorld 3)) (fun _ s1 => decide (s1 = globalWorld 3))) = true
    ∧ fenceHolds world {} strand0 classG = false := by decide +kernel

/-- A load of v0 from the scratchpad in the command queue of core 0. -/
def loadCmd : VecCmd := { key := 4, opcode := 0xC6, slot := { slot3 (.v 0) (.x 0) (.x 0) with space := .s }, b := 256, task := 5 }
def loadWorld (poison : List Nat) (t : Strand) : State :=
  { withStrand t with cores := [(0, { commands := [loadCmd], claim := some 0, spadPoison := poison, queues := [(8, [9])] })] }
/-- A read of a queue waits behind a load that may still fault; so does a younger local access of an acquire fence, which retires. -/
theorem test_meets_OperandForms_holds : sharedHold (loadWorld [] strand0) strand0 8 0 = true ∧ sharedHold queueWorld strand0 8 0 = false
    ∧ queueNamed ((loadWorld [] strand0).launch 0) 8 = true
    ∧ nextHas (exec (.fence { f3 with order := .acq, scope := .core, imm := 2 }) (loadWorld [] strand0)) (fun u => decide (u.issue = .retired)
        && u.strand.any fun t => fenceHolds u {} t classL && !fenceHolds u {} t classG) = true := by decide +kernel
/-- A trap in the second slot comes after the loads before it: the engines run, and one of them that faults ends the strand. -/
theorem test_meets_PairIsOneGroup_late : (lateEnd exec (2 ^ 25) (loadWorld [] strand0)).isNone = true
    ∧ ((lateEnd exec (2 ^ 25) (loadWorld [0] strand0)).any fun u => u.strand.isNone && (u.hc 0).cause == BitVec.ofNat 8 (causeCode .poison)) = true := by
  decide +kernel
/-- VST, then a FENCE.rel of class L, while a copy has the store's bytes in the table: the FENCE cannot retire, and the pair waits whole (R229). -/
theorem test_meets_PairIsOneGroup_fence :
    (let i : Instr := .vst { slot3 (.x 0) (.x 0) (.v 0) with space := .s }
     let j : Instr := .fence { f3 with order := .rel, scope := .bench, imm := 2 }
     let e : Lock := { key := 1, space := .spad 0, lo := 0, hi := 255, dest := true, launch := 0, task := 5, op := .command 1 }
     let s : State := { withCore { claim := some 0 } with benches := [(0, { locks := [e] })] }
     let u := issuePair exec i j strand0 s
     decide (u.issue = .waiting .older) && decide (u.curCore.commands = []) && u.strand.any (fun t => t.wait.isSome)) = true := by decide +kernel
theorem test_meets_StreamSessions_next : (let e : Session := { session0 with st := .busy }
      nextHas (exec (.ssnext (slot3 (.x 0) (.x 0) (.x 0))) { streamWorld session0 with benches := [(0, { sessions := [(0, e)] })] })
        (fun u => decide (u.issue = .waiting .session)) = true)
    ∧ nextHas (exec (.ssnext (slot3 (.x 0) (.x 0) (.x 0))) world) (fun u => decide (u.issue = .trapped { cause := .illegalOperand })) = true := by
  decide +kernel

/-! ## What a store leaves in a capsule, and a vector command in rows, scratchpads and queues -/

/-- The cursor is 0: entry 2 is ahead of it, entry 0 is not; the tile's first byte; an entry past the last one. -/
theorem test_meets_LocalStores_capsule : (let t (a : Word) : Strand := { strand0 with capsule := some capsule0, xs := [(1, a), (2, 7)] }
    let f : Slot := { f3 with ty := .i64, b := .x 2, c := .cap, order := .sc, scope := .bench }
    let left (a : Word) (p : Capsule → Bool) := nextHas (exec (.st f) (withStrand (t a))) fun u => decide (u.issue = .retired) && u.strand.any fun x => x.capsule.any p
    okHas (readSel f.b (withStrand (t 24))) (fun v s1 => v == 7 && decide (s1 = withStrand (t 24)) && decide (strandCommands s1 {} (t 24) = []))
      && left 24 (fun c => c.entries.getD 2 0 == 7 && c.entries.getD 1 0 == place 44 12 1) && left 0x108 (fun c => c.tile.getD 0 0 == 7 && c.header == capsule0.header)
      && nextHas (exec (.st f) (withStrand (t 8))) (fun u => decide (u.issue = .trapped { cause := .capItin, detail := 0 }))
      && nextHas (exec (.st f) (withStrand (t 32))) (fun u => decide (u.issue = .trapped { cause := .prot, addr := some 32 }))) = true := by decide +kernel
/-- The value of a store comes from q8, whose entry is taken. -/
theorem test_meets_LocalStores_queue : okHas (readSel (.q 8) queueWorld) (fun v s1 => v == 7 && decide (s1.strand = some strand0) && decide (s1.cur = queueWorld.cur) && s1.memoriesWf
      && decide (strandCommands s1 {} strand0 = [])) = true
    ∧ nextHas (exec (.st { f3 with ty := .i64, a := .x 0, b := .q 8, space := .b, order := .rel, scope := .pkg }) queueWorld) (fun u =>
        decide (u.issue = .retired) && cellRead u.curBench.mem 0 == 7 && u.curCore.queues.get 8 [] == []) = true := by decide +kernel
theorem test_meets_SystemRegisterValues_ctx : (world.ctx (world.launch 0).ctx).isSome = true ∧ sysRead world strand0 0x16 = some (place 52 12 1 ||| place 37 3 1) := by
  decide +kernel

/-- One vector command alone in the queue of core 0, and the core and the strand once it has been executed. -/
def commandWorld (op : Nat) (f : Slot) (rows : List (Nat × BitVec 2048)) (c : Core := {}) (ea b : Word := 0) : State :=
  withCore { c with commands := [{ key := 4, opcode := op, slot := f, task := 5, ea := ea, b := b, a := 0x55, c := 256 }], claim := some 0, rows := rows }
def executed (s : State) (p : Core → Strand → Bool) : Bool :=
  nextHas (exec .vectorCommandExecute s) fun u => decide ((u.core 0).inFlight = []) && u.strand.any (p (u.core 0))
def qWords (t : Strand) (n : Nat) : List Word := (t.qs.get n []).map (·.word)

/-- 300 in part 1 saturates to 127, and part 0 keeps its lanes; 256 zeros have the code 7; a code 7 is 0. -/
theorem test_meets_VectorRows_conversions : q0Room strand0 = true
    ∧ executed (commandWorld 0xBE { typed .i8 (.v 1) (.v 2) (.x 0) with m := 3, imm := 1 } [(1, 0x55), (2, 300)])
        (fun c _ => (lanes 8 (c.row 1)).getD 64 0 == 127 && (lanes 8 (c.row 1)).getD 0 0 == 0x55) = true
    ∧ executed (commandWorld 0xBF (typed .f32 (.v 1) (.v 4) (.x 0)) []) (fun c t => (lanes 4 (c.row 1)).take 256 == List.replicate 256 7
        && (lanes 4 (c.row 1)).drop 256 == List.replicate 256 0 && qWords t 0 == [0]) = true
    ∧ executed (commandWorld 0xC0 (typed .e4m3 (.v 1) (.v 2) (.x 1)) [(1, 0x77), (2, rowOf 4 (List.replicate 256 7))] {} 0 0x3F800000FFFFFFFF) (fun c _ => c.row 1 == 0) = true := by
  decide +kernel
/-- Lanes 5 and 7 of N32: their sum, running and whole; the indices of the lanes that are not zero; a lane repeated. -/
theorem test_meets_VectorRows_lanes : executed (commandWorld 0xC1 (typed .n32 (.x 0) (.v 2) (.x 0)) [(2, rowOf 32 [5, 7])]) (fun c t => c.rows == [(2, rowOf 32 [5, 7])] && qWords t 0 == [12]) = true
    ∧ executed (commandWorld 0xC2 (typed .n32 (.v 1) (.v 2) (.x 0)) [(2, rowOf 32 [5, 7])]) (fun c t => (lanes 32 (c.row 1)).take 3 == [5, 12, 12] && qWords t 0 == [12]) = true
    ∧ executed (commandWorld 0xC3 (typed .n16 (.v 1) (.v 2) (.x 0)) [(2, rowOf 16 [0, 5, 0, 7])]) (fun c t => (lanes 16 (c.row 1)).take 3 == [1, 3, 0] && qWords t 0 == [2]) = true
    ∧ executed (commandWorld 0xC5 (typed .i8 (.v 1) (.x 1) (.x 0)) []) (fun c _ => (lanes 8 (c.row 1)).getD 255 0 == 0x55) = true := by decide +kernel
/-- A row from the scratchpad, and one into it; single elements from and to it, where the highest lane of one address stays. -/
theorem test_meets_VectorMemory : (commandWorld 0xC6 { slot3 (.v 1) (.x 0) (.x 0) with space := .s } []).memoriesWf = true
    ∧ executed (commandWorld 0xC6 { slot3 (.v 1) (.x 0) (.x 0) with space := .s } [] { spad := [(8, 0x34), (263, 0x12)] } 8) (fun c _ => c.row 1 == 0x34 + 0x12 * 2 ^ 2040) = true
    ∧ executed (commandWorld 0xC7 { slot3 (.x 0) (.x 0) (.v 1) with space := .s } [(1, 0x34 + 0x12 * 2 ^ 2040)] {} 196352) (fun c _ => c.spad == [(196352, 0x34), (196607, 0x12)] && c.full == []) = true
    ∧ executed (commandWorld 0xC8 { typed .i32 (.v 1) (.x 0) (.v 2) with space := .s } [(2, 2)] { spad := [(0, 9), (8, 7)] }) (fun c _ => (lanes 32 (c.row 1)).take 3 == [7, 9, 9]) = true
    ∧ executed (commandWorld 0xC9 { typed .i64 (.x 0) (.x 0) (.v 1) with c := .v 2, space := .s } [(1, 9 + 8 * 2 ^ 1984), (2, 5)]) (fun c _ => c.spad == [(0, 8), (40, 9)]) = true := by
  decide +kernel
/-- VADD of 2 and 3 into the last row of seat 2's scratchpad. -/
theorem test_meets_VectorMemory_window : nextHas (exec .vectorCommandExecute (commandWorld 0xB0 { typed .i32 (.win 2) (.v 1) (.v 2) with imm := 196352 } [(1, 2), (2, 3)] {} 196352)) (fun u =>
    (u.core 2).spad == [(196352, 5)] && (u.core 2).full.contains 24575 && (u.core 0).spad == []) = true := by decide +kernel
/-- The accesses of each form, one by one, leave the strand's own place in focus. -/
theorem test_meets_VectorMemory_accesses : (let s := withCore { spad := [(8, 7)] }
    okHas (clearRows strand0 (.spad 0) [8] 256 false s) (fun _ x => okHas (Res.collect (rowParts (.spad 0) [8] 256) x fun p y => vecRead strand0 (.spad 0) p.1 p.2 y) fun bss u =>
        decide (u.cur = {}) && bss.flatten.getD 0 0 == 7)
      && okHas (clearRows strand0 (.spad 0) [8] 256 true s) (fun _ x => okHas (Res.each (splitParts (rowParts (.spad 0) [8] 256) (List.replicate 256 1)) x fun p y =>
        vecWrite strand0 (.spad 0) p.1.1 p.2 false y) fun _ u => decide (u.cur = {}) && cellRead (u.core 0).spad 8 == 1)
      && okHas (Res.collect [8] s fun a x => (checkElement strand0 (.spad 0) a 8 false x).andThen fun _ y => vecRead strand0 (.spad 0) a.toNat 8 y) (fun bss u =>
        decide (u.cur = {}) && bss.flatten.getD 0 0 == 7)
      && !scatterWaits strand0 (.spad 0) [8] 8 s
      && okHas (Res.each [((8 : Word), 1)] s fun p x => (checkElement strand0 (.spad 0) p.1 8 true x).andThen fun _ y => vecWrite strand0 (.spad 0) p.1.toNat (natToBytes p.2 8) false y) (fun _ u =>
        decide (u.cur = {}) && cellRead (u.core 0).spad 8 == 1)) = true := by decide +kernel
/-- A tile of I32 narrowed to bytes, 256 bytes apart. -/
theorem test_meets_VectorMemory_tile : nextHas (exec .matrixCommandComplete (commandWorld 0xD4 { typed .i8 (.x 0) (.x 1) (.acc 0) with c := .x 2, m := 3, space := .s } [(0, 300 * 2 ^ 32), (1, rowOf 32 [5, 7])] {} 32)) (fun u =>
      decide ((u.core 0).inFlight = []) && (u.core 0).spad == [(33, 127), (288, 5), (289, 7)] && (u.core 0).full == []) = true := by
  decide +kernel
/-- A step of two BF16 products 1 × 1 in row 0 and column 0; every other element of the tile stays. -/
theorem test_matrix_product : (let v : VecCmd := { slot := mma0, opcode := 0xD0, words := [1 * 0x3F80, 0x3F80, 0, 0] }
    let r := matProduct v { rows := [(1, 7)] } (List.replicate 64 0) ([0x80, 0x3F] ++ List.replicate 126 0 ++ [0x80, 0x3F] ++ List.replicate 382 0)
    (lanes 32 (r.1.row 0)).take 2 == [0x40000000, 0] && (lanes 32 (r.1.row 1)).take 2 == [7, 0]) = true ∧ matK mma0 % 4 = 0 := by decide +kernel

/-! ## Merged copies, a revocation that waits, and a release at a slice -/

/-- A copy of 96 bytes of global memory to seat 1, and one that came three core clocks later and goes to seat 2. -/
def mergedCmd (k n : Nat) : CopyCmd :=
  { copyCmd0 with key := k, src := .global, srcBase := 0x50000, rowBytes := 32, dst := .spad n, merge := some 7, issued := if k = 7 then 0 else 3 }
theorem test_meets_CopyCompletion_merge : (let s := (globalWorld 0).setBench 0 { copies := [mergedCmd 7 1, mergedCmd 8 2] }
    (mergedCmd 8 2).mergesWith (mergedCmd 7 1) = true ∧ (mergedCmd 7 1).mergedWith (mergedCmd 8 2) = true ∧ s.memoriesWf = true ∧ (mergedCmd 7 1).done < (mergedCmd 7 1).rowOut
      ∧ okHas (unitStep 0 (mergedCmd 7 1) s) (fun c u => c.done == 32 && (u.bench 0).copies == [mergedCmd 7 1, { mergedCmd 8 2 with done := 32 }]
          && (u.core 1).spad == (u.core 2).spad && (u.core 1).spad != []) = true) := by decide +kernel
/-- While a range revocation waits, requests wait too. -/
def revokingWorld : State :=
  { world with ctl := { world.ctl with ops := [{ key := 1, kind := .revoke 0 0 0, target := 2, issuerCtx := 1, issuer := .nobody, begun := true
                                                 drops := [{ part := 0, lo := 0, hi := 65535, scrub := true, owner := 2, attr := 31 }] }] } }
theorem test_meets_ContextRules_revoking : revoking revokingWorld = true ∧ revoking world = false ∧ (match request revokingWorld (req 0x99 2 []) with | .later => true | _ => false) = true
    ∧ nextHas (exec (.ctxquery { f3 with a := .x 1 }) revokingWorld) (fun u => decide (u.issue = .waiting .controller)) = true
    ∧ nextHas (exec (.partnew 0 3) { revokingWorld with fns := [(0, { accepted := [{ slot := 3, words := [place 56 8 0x10, 0, 0, 0, 0, 0, 0, 0] }] })] })
        (fun u => (u.fn 0).accepted.length == 1) = true := by decide +kernel
/-- A release in the form .nr of a strand of bench 1, which waits for an older store at the slice of bench 0, where a line of a frame lies. -/
theorem test_meets_PowerAndErrors_release : (let n : NrAtomic := { issuer := { bench := 1 }, launch := 0, task := 5, va := 0x50000, at_ := frameless, opcode := 0x70, variant := 0, ty := .i32, operand := 1, compare := 0, after := [4] }
    let s : State := { drawerWorld 31 {} with cores := [(8, { commands := [storeCmd] })], mem := { llc := [{ frameless with frame := true }], nr := [n] } }
    sliceWaits s 0 = true ∧ sliceWaits world 0 = false) := by decide +kernel
/-- Operands out of range, an illegal group, and a PC past the last word end a run; a load that may not be made does too. -/
theorem test_meets_WalkerInstructions_ends : (let q := { run0 with regs := [(1, 32)] }
    let stops (i : Instr) (r : WalkerRun) := nextHas (exec i (walkerWorld r)) fun u => decide ((u.bench 0).run = none)
    stops (.wrow 1 0 0) q && stops (.wrow 0 0 128) q && stops (.wemit 1 0) { q with col := q.columns } && stops (.wmeta 1 0) q && stops (.wmeta 1 1) { q with sparsity := 1 }
      && stops (.wflush 0) q && stops (.wflush 2) { q with sparsity := 2 } && stops (.wflush 4) { q with sparsity := 1, groups := [(0, 5)] }
      && stops (.wflush 4) { q with out := 196600 } && stops (.wbr 0 1024) q && stops .wnop { q with pc := 1023 } && stops (.wld 1 0 0 0) q && stops (.wcmp 1 1 1 10) q
      && decide (q.columns = 128)) = true := by decide +kernel

end Sys2Proof.Tests
end

section
/-! PROOFS. Host commands (R28, R33, R34): the oldest command of a function, what `exec` does with it, and O21. -/

namespace Sys2Proof.Machine

/-- `c` is the oldest command that a function has accepted, and `s1` is the state once it is taken. -/
def TakesOldest (s s1 : State) (fn : Nat) (c : HostCmd) : Prop :=
  ∃ rest, (s.fn fn).accepted = c :: rest ∧ s1 = s.setFn fn { s.fn fn with accepted := rest }

/-- The code of a command fills the top byte of its first word. -/
theorem HostCmd.code_eq (c : HostCmd) : c.code = (c.words.getD 0 0).toNat / 2 ^ 56 := by
  have h := (c.words.getD 0 0).isLt
  simp only [HostCmd.code, HostCmd.word, field]
  omega

section
variable {s s1 : State} {fn ctx : Nat} {c : HostCmd} {p : HostCmd → Bool} {go : Nat → HostCmd → State → State}

theorem TakesOldest.oldestCommand_eq (h : TakesOldest s s1 fn c) (hp : p c = true) :
    oldestCommand s fn c.slot p = some (c, s1) := by
  obtain ⟨rest, ha, rfl⟩ := h
  simp [oldestCommand, ha, hp]

theorem TakesOldest.hostCommand_unbound (h : TakesOldest s s1 fn c) (hp : p c = true) (ha : fnAuthority s1 fn = none) :
    hostCommand fn c.slot p go s = completeSlot s1 fn c.slot c.tag stNoContext 0 := by
  simp only [hostCommand, h.oldestCommand_eq hp, ha]

theorem TakesOldest.hostCommand_bound (h : TakesOldest s s1 fn c) (hp : p c = true) (ha : fnAuthority s1 fn = some ctx) :
    hostCommand fn c.slot p go s = go ctx c s1 := by
  simp only [hostCommand, h.oldestCommand_eq hp, ha]

/-- A command that is put back leaves its function as it was before the command was taken. -/
theorem TakesOldest.putBack_fn (h : TakesOldest s s1 fn c) : (putBack s1 fn c).fn fn = s.fn fn := by
  obtain ⟨rest, ha, rfl⟩ := h
  simp [putBack, ← ha]

theorem TakesOldest.putBack_ctl (h : TakesOldest s s1 fn c) : (putBack s1 fn c).ctl = s.ctl := by
  obtain ⟨rest, -, rfl⟩ := h
  rfl

/-- A command of the controller: what the controller answers to its request. -/
theorem TakesOldest.hostCtx_bound {code op : Nat} (h : TakesOldest s s1 fn c) (hp : coded fn code c = true)
    (ha : fnAuthority s1 fn = some ctx) :
    hostCtx code op fn c.slot s = answer s1 fn c (request s1 (hostRequest fn ctx op c)) :=
  h.hostCommand_bound hp ha
end

/-- The host commands that act as a context instruction: command, code, opcode of the instruction (R33). -/
def hostCtxCommands : List ((Nat → Nat → Instr) × Nat × Nat) :=
  [(.hostCtxnew, 0x01, 0x98), (.hostCtxgrant, 0x02, 0x99), (.hostCtxstart, 0x03, 0x9A), (.hostCtxstop, 0x04, 0x9B),
    (.hostCtxresume, 0x05, 0x9C), (.hostCtxrevoke, 0x06, 0x9D), (.hostCtxkill, 0x07, 0x9E), (.hostCtxquery, 0x08, 0x9F),
    (.partkill, 0x11, 0x9E)]

theorem exec_hostCtxCommand (fn slot : Nat) (s : State) :
    ∀ p ∈ hostCtxCommands, exec (p.1 fn slot) s = .next (hostCtx p.2.1 p.2.2 fn slot s) := by
  simp only [hostCtxCommands, List.forall_mem_cons, List.not_mem_nil, false_imp_iff, implies_true, and_true]
  exact ⟨rfl, rfl, rfl, rfl, rfl, rfl, rfl, rfl, rfl⟩

theorem exec_ping (fn slot : Nat) (s : State) : exec (.ping fn slot) s =
    .next (hostCommand fn slot (coded fn 0x20) (fun _ c s1 => completeSlot s1 fn c.slot c.tag stDoneCmd 0) s) := rfl

theorem exec_hostBadCommand (fn slot : Nat) (s : State) : exec (.hostBadCommand fn slot) s =
    .next (hostCommand fn slot (fun c => c.bad fn) (fun _ c s1 => completeSlot s1 fn c.slot c.tag stBadCommand 0) s) := rfl

theorem exec_mgmtkey (fn slot : Nat) (s : State) : exec (.mgmtkey fn slot) s =
    .next (hostCommand fn slot (coded fn 0x12) (fun _ c s1 => completeSlot
      (setKey s1 (BitVec.ofNat 384 (bytesToNat (wordsToBytes ((c.words.drop 1).take 6))))) fn c.slot c.tag stDoneCmd 0) s) := rfl

theorem exec_hostLinkup (fn slot : Nat) (s : State) :
    exec (.hostLinkup fn slot) s = .next (hostLinkCommand 0x13 fn slot bringUp s) := rfl

theorem exec_hostLinkdown (fn slot : Nat) (s : State) :
    exec (.hostLinkdown fn slot) s = .next (hostLinkCommand 0x14 fn slot dropLink s) := rfl

theorem hostLinkCommand_bound {s s1 : State} {fn ctx code : Nat} {c : HostCmd} (go : State → Nat → State)
    (h : TakesOldest s s1 fn c) (hp : coded fn code c = true) (ha : fnAuthority s1 fn = some ctx) :
    hostLinkCommand code fn c.slot go s =
      if (c.word 1).toNat < 16 then completeSlot (go s1 (c.word 1).toNat) fn c.slot c.tag stDoneCmd 0
      else completeSlot s1 fn c.slot c.tag stRefused 0 :=
  h.hostCommand_bound hp ha

theorem coded_iff (fn code : Nat) (c : HostCmd) : coded fn code c = true ↔ c.code = code ∧ c.bad fn = false := by
  simp [coded]

/-- R51, R57: the controller takes a command while no revocation of a range waits. -/
theorem partnew_bound {s s1 : State} {fn ctx : Nat} {c : HostCmd}
    (h : TakesOldest s s1 fn c) (hp : coded fn 0x10 c = true) (ha : fnAuthority s1 fn = some ctx) :
    exec (.partnew fn c.slot) s = .next (
      if revoking s1 then putBack s1 fn c
      else match newPartition s1 ((c.words.drop 1).take 6) with
        | some (id, vf, s2) => completeSlot s2 fn c.slot c.tag stDoneCmd (place 0 12 id ||| place 16 8 vf)
        | none => completeSlot s1 fn c.slot c.tag stRefused 0) :=
  congrArg Host.Outcome.next (h.hostCommand_bound hp ha)

/-- Settles O21: the oldest command is taken, and then what its code gives is done with the authority of its function. -/
theorem hostCommands : Obligations.HostCommands := by
  unfold Obligations.HostCommands
  intro s s1 fn slot ctx c rest hacc hslot hs1 code bad hcode hbad done hdone
  have h : TakesOldest s s1 fn c := ⟨rest, hacc, hs1⟩
  rw [← c.code_eq] at hcode
  replace hbad : bad = c.bad fn := by rw [hbad, hcode]; rfl
  clear hacc hs1
  subst hslot hcode hbad hdone
  have hp : ∀ n, c.bad fn = false → c.code = n → coded fn n c = true := fun n hb hc => (coded_iff fn n c).2 ⟨hc, hb⟩
  refine ⟨fun hb ha => ?_, fun hb ha => ?_, fun hb ha hc => ?_, fun hb ha => ⟨?_, fun hc hr => ?_, fun hc hr => ?_, ?_, ?_, ?_⟩⟩
  · rw [exec_hostBadCommand, h.hostCommand_unbound hb ha]; rfl
  · rw [exec_hostBadCommand, h.hostCommand_bound hb ha]; rfl
  · rw [exec_ping, h.hostCommand_unbound (hp _ hb hc) ha]; rfl
  · intro r hr p hm hc
    rw [exec_hostCtxCommand fn c.slot s p hm, h.hostCtx_bound (hp _ hb hc) ha]
    have hq : r p.2.2 = hostRequest fn ctx p.2.2 c := by rw [hr]; rfl
    rw [hq]
    exact ⟨fun w u e => by rw [e]; rfl, fun e => by rw [e]; rfl, fun e => by rw [e]; rfl, fun k u e => by rw [e]; rfl,
      fun e => by rw [e]; exact ⟨_, rfl, h.putBack_fn, h.putBack_ctl⟩⟩
  · rw [partnew_bound h (hp _ hb hc) ha, if_pos hr]
    exact ⟨_, rfl, h.putBack_fn, h.putBack_ctl⟩
  · rw [partnew_bound h (hp _ hb hc) ha, if_neg (by simp [hr])]
    exact ⟨fun id vf u e => by rw [e]; rfl, fun e => by rw [e]; rfl⟩
  · rintro hc k rfl
    exact ⟨setKey s1 _, by rw [exec_mgmtkey, h.hostCommand_bound (hp _ hb hc) ha]; rfl, rfl⟩
  · rintro a rfl
    refine ⟨fun hc => ?_, fun hc => ?_⟩
    · rw [exec_hostLinkup, hostLinkCommand_bound bringUp h (hp _ hb hc) ha, apply_ite Host.Outcome.next]
      rfl
    · rw [exec_hostLinkdown, hostLinkCommand_bound dropLink h (hp _ hb hc) ha, apply_ite Host.Outcome.next]
      rfl
  · intro hc
    rw [exec_ping, h.hostCommand_bound (hp _ hb hc) ha]; rfl

end Sys2Proof.Machine
end

section
/-! PROOFS. The state right after reset (R43), and O60. -/

namespace Sys2Proof.Machine

/-- The cap of 2,200 W at reset is one that PWRSET may set, and the main domain is off. -/
theorem powerSafe_reset : PowerSafe State.reset := ⟨by decide, fun h => absurd h (by decide)⟩

theorem memoriesWf_reset : State.reset.memoriesWf = true := rfl

theorem step_reset : step State.reset = .next State.reset := step_nil rfl

/-- Settles O60: both invariants hold at reset, and no turn is on the agenda. -/
theorem resetState : Obligations.ResetState := by
  unfold Obligations.ResetState
  exact ⟨memoriesWf_reset, powerSafe_reset, rfl, rfl, rfl, rfl, rfl, rfl, rfl, fun _ => rfl, fun _ => rfl, step_reset⟩

end Sys2Proof.Machine
end

section
/-! PROOFS. The registers of a function page, what is held on chip for its rings, and resets, and O51. -/

namespace Sys2Proof

/-- A table changed at every key holds, for each key, what it held there, changed; a default that the change keeps stays. -/
theorem Table.get_mapAll {α : Type} (g : Nat → α → α) (k : Nat) (d : α) (hd : g k d = d) (t : Table α) :
    (t.mapAll g).get k d = g k (t.get k d) := by
  induction t with
  | nil => exact hd.symm
  | cons e t ih =>
    obtain ⟨j, v⟩ := e
    by_cases h : j = k
    · subst h; simp [Table.mapAll, Table.get, Table.find]
    · simpa [Table.mapAll, Table.get, Table.find, h] using ih

end Sys2Proof

namespace Sys2Proof.Machine

/-! ## Registers of a function page (R28 to R32, R34) -/

@[simp] theorem HostFn.setRing_ring (f : HostFn) (k : RingKind) (r : Ring) : (f.setRing k r).ring k = r := by
  cases k <;> rfl

section
variable {s : State} {fn : Nat}

theorem hostReach_eq (hf : fn ≤ 192) (hu : s.pkg.hostUp = true) : hostReach s fn = true := by
  simp [hostReach, fnExists, hf, hu]

theorem onFn_reached (h : hostReach s fn = true) (g : HostFn → HostFn) : onFn s fn g = s.setFn fn (g (s.fn fn)) := by
  simp [onFn, h]

theorem exec_registerWrite_aligned (h : hostReach s fn = true) (off : Nat) (v : Word) (ha : off % 8 = 0) :
    exec (.registerWrite fn off 8 v) s = .next (writeRegister s fn off v) := by
  change Host.Outcome.next (registerWrite fn off 8 v s) = _
  simp [registerWrite, h, ha]

/-- R29: an access of another size, or one that is not aligned, is dropped. -/
theorem exec_registerWrite_dropped (off size : Nat) (v : Word) (h8 : ¬ (size = 8 ∧ off % 8 = 0))
    (h4 : ¬ (size = 4 ∧ off % 4 = 0)) : exec (.registerWrite fn off size v) s = .next s := by
  change Host.Outcome.next (registerWrite fn off size v s) = _
  simp [registerWrite, h8, h4]

/-- R34: a slot written while it is busy keeps its words. -/
theorem exec_commandSlotWrite (h : hostReach s fn = true) {slot word : Nat} (hs : slot < 64) (hw : word < 8) (v : Word) :
    exec (.commandSlotWrite fn slot word v) s = .next (s.setFn fn
      (if (s.fn fn).busy.getLsbD slot then { s.fn fn with status := (s.fn fn).status ||| 4 }
       else { s.fn fn with slots := (s.fn fn).slots.put (slot * 8 + word) v })) := by
  change Host.Outcome.next (onFn s fn _) = _
  rw [onFn_reached h]
  simp [Nat.not_le.2 hs, Nat.not_le.2 hw]

theorem field_ofNat_slot {slot : Nat} (hs : slot < 64) : field (BitVec.ofNat 64 slot) 0 6 = slot := by
  simp only [field, BitVec.toNat_ofNat]
  omega

/-- R34, R43: the doorbell copies a free slot once commands are accepted. -/
theorem ringDoorbell_published (hp : s.pkg.published = true) (f : HostFn) {slot : Nat} (hs : slot < 64) :
    ringDoorbell s f (BitVec.ofNat 64 slot) =
      if f.busy.getLsbD slot then { f with status := f.status ||| 4 }
      else { f with
        busy := f.busy ||| BitVec.ofNat 64 (2 ^ slot)
        accepted := f.accepted ++ [{ slot := slot, words := (List.range 8).map fun i => f.slots.get (slot * 8 + i) 0 }] } := by
  simp [ringDoorbell, field_ofNat_slot hs, hp]

/-! ## Ring control (R32) -/

variable {f : HostFn} {k : RingKind} {v : Word}

theorem ringControl_enabled (he : (f.ring k).en = false) (hv : v.getLsbD 63 = true)
    (hl : enableLegal s fn f k (field v 0 5) = true) :
    (ringControl s fn f k v).en = true ∧ (ringControl s fn f k v).log2n = field v 0 5 ∧ (ringControl s fn f k v).seq = 1 := by
  simp [ringControl, he, hv, hl]

theorem ringControl_illegal (he : (f.ring k).en = false) (hv : v.getLsbD 63 = true)
    (hl : enableLegal s fn f k (field v 0 5) = false) :
    (ringControl s fn f k v).en = false ∧ (ringControl s fn f k v).err = true := by
  simp [ringControl, he, hv, hl]

theorem ringControl_disabled (hv : v.getLsbD 63 = false) : (ringControl s fn f k v).en = false := by
  simp only [ringControl, hv, Bool.false_and]

/-! ## Consumer indices (R32, R41, R66) -/

variable {passed : Nat → HostFn → HostFn} {after : Nat → State → State} {n : Nat} {r : Ring}

theorem writeCons_legal (h : hostReach s fn = true) (hr : r = (s.fn fn).ring k) (hn : n = (v.setWidth 32 - r.cons).toNat)
    (hle : n ≤ (r.prod - r.cons).toNat) :
    writeCons fn k v passed after s =
      after n (rearm (s.setFn fn (passed n ((s.fn fn).setRing k { r with cons := v.setWidth 32 }))) fn k) := by
  subst hr hn
  have hstep : consStep ((s.fn fn).ring k) v = some (v.setWidth 32 - ((s.fn fn).ring k).cons).toNat := if_pos hle
  simp only [writeCons, h, hstep, Bool.not_true, Bool.false_eq_true, if_false]

theorem writeCons_illegal (h : hostReach s fn = true) (hr : r = (s.fn fn).ring k) (hn : n = (v.setWidth 32 - r.cons).toNat)
    (hlt : (r.prod - r.cons).toNat < n) :
    writeCons fn k v passed after s = s.setFn fn ((s.fn fn).setRing k { r with err := true }) := by
  subst hr hn
  have hstep : consStep ((s.fn fn).ring k) v = none := if_neg (Nat.not_le.2 hlt)
  simp only [writeCons, h, hstep, Bool.not_true, Bool.false_eq_true, if_false]

/-- A write of CONS moves it as far as PROD at most, and sets ERR beyond. -/
theorem exec_consWrite {i : Instr} (hi : exec i s = .next (writeCons fn k v passed after s)) (h : hostReach s fn = true)
    (hr : r = (s.fn fn).ring k) (hn : n = (v.setWidth 32 - r.cons).toNat) :
    (n ≤ (r.prod - r.cons).toNat → exec i s =
        .next (after n (rearm (s.setFn fn (passed n ((s.fn fn).setRing k { r with cons := v.setWidth 32 }))) fn k)))
      ∧ ((r.prod - r.cons).toNat < n → exec i s = .next (s.setFn fn ((s.fn fn).setRing k { r with err := true }))) :=
  ⟨fun hle => by rw [hi, writeCons_legal h hr hn hle], fun hlt => by rw [hi, writeCons_illegal h hr hn hlt]⟩

/-! ## What is held on chip, and resets (R28, R34, R35, R40) -/

theorem vfReset_reached (h : hostReach s fn = true) (h0 : fn ≠ 0) :
    vfReset fn s = (s.fn fn).frKeys.foldl consumeRecord (discardCompletions (s.setFn fn (clearedFn (s.fn fn))) fn) := by
  simp [vfReset, h, h0]

theorem heldCompletionWrite_cons {c : Completion} {rest : List Completion} (h : (s.fn fn).heldCpl = c :: rest) :
    heldCompletionWrite fn s =
      if (s.fn fn).cpl.room then writeCompletion (s.setFn fn { s.fn fn with heldCpl := rest }) fn c else s := by
  simp only [heldCompletionWrite, h]

theorem faultRecordDelivery_cons {r : Record} {rest : List Record} (h : (s.fn fn).heldFr = r :: rest) :
    faultRecordDelivery fn s =
      if (s.fn fn).fr.room then writeRecord (s.setFn fn { s.fn fn with heldFr := rest }) fn r else s := by
  simp only [faultRecordDelivery, h]

theorem quarantineItemWrite_cons {q : QuarItem} {rest : List QuarItem} (h : (s.fn fn).heldQr = q :: rest) :
    quarantineItemWrite fn s =
      ((tryWriteQuar (s.setFn fn { s.fn fn with heldQr := rest }) fn q).map settleRevokes).getD s := by
  simp only [quarantineItemWrite, h]
  cases tryWriteQuar (s.setFn fn { s.fn fn with heldQr := rest }) fn q <;> rfl

theorem tryWriteQuar_noRoom (h : (s.fn fn).qr.room = false) (q : QuarItem) : tryWriteQuar s fn q = none := by
  simp [tryWriteQuar, h]

/-- An interrupt leaves every ring as it is. -/
@[simp] theorem sendMsix_ring (s : State) (m vector : Nat) (fn : Nat) (k : RingKind) :
    ((sendMsix s m vector).fn fn).ring k = (s.fn fn).ring k := by
  unfold sendMsix
  dsimp only
  split
  · by_cases h : fn = m
    · subst h; rw [State.setFn_fn]; cases k <;> rfl
    · rw [State.setFn_fn_ne s h]
  · rfl

/-- Training of the host link leaves rings, host memory and launches as they are. -/
theorem hostTrain_frame (s : State) : (hostTrain s).hostMem = s.hostMem ∧ (hostTrain s).launches = s.launches
    ∧ ∀ (fn : Nat) (k : RingKind), ((hostTrain s).fn fn).ring k = (s.fn fn).ring k := by
  unfold hostTrain pageChanged
  dsimp only
  split
  · exact ⟨rfl, rfl, fun _ _ => rfl⟩
  · split
    · exact ⟨rfl, rfl, fun _ _ => rfl⟩
    · exact ⟨by rw [sendMsix_eq]; rfl, by rw [sendMsix_eq]; rfl, fun fn k => by rw [sendMsix_ring]; rfl⟩

end

/-- A function whose rings are disabled, as a reset of the host link leaves it. -/
def ringsDisabled (f : HostFn) : HostFn :=
  { f with cpl := { f.cpl with en := false }, fr := { f.fr with en := false }, qr := { f.qr with en := false } }

theorem ringsDisabled_ring (f : HostFn) (k : RingKind) : (ringsDisabled f).ring k = { f.ring k with en := false } := by
  cases k <;> rfl

theorem hostLinkReset_eq (s : State) :
    hostLinkReset s = hostTrain { s with fns := s.fns.mapAll fun _ f => ringsDisabled f } := rfl

theorem hostLinkReset_ring (s : State) (fn : Nat) (k : RingKind) :
    ((hostLinkReset s).fn fn).ring k = { (s.fn fn).ring k with en := false } := by
  obtain ⟨-, -, hring⟩ := hostTrain_frame { s with fns := s.fns.mapAll fun _ f => ringsDisabled f }
  rw [hostLinkReset_eq, hring, ← ringsDisabled_ring]
  exact congrArg (HostFn.ring · k) (Table.get_mapAll (fun _ f => ringsDisabled f) fn {} rfl s.fns)

/-- Settles O51, register by register, and then what is held on chip and the resets. -/
theorem hostRegisters : Obligations.HostRegisters := by
  unfold Obligations.HostRegisters
  refine ⟨?_, fun s => rfl, ?_, fun s => ?_⟩
  · rintro s fn f rfl hfn hup
    have hreach := hostReach_eq hfn hup
    refine ⟨fun slot word v hs hw => exec_commandSlotWrite hreach hs hw v, fun slot hs hp => ?_, fun v => ?_,
      fun off size v h8 h4 => exec_registerWrite_dropped off size v h8 h4, fun k v => ?_, fun v n r hr hn => ?_,
      fun v n r hr hn => ?_, fun v n r hr hn => ?_, fun h0 => ?_⟩
    · rw [exec_registerWrite_aligned hreach _ _ rfl, ← ringDoorbell_published hp _ hs]
      rfl
    · exact exec_registerWrite_aligned hreach _ _ rfl
    · refine ⟨(s.fn fn).setRing k (ringControl s fn (s.fn fn) k v), congrArg Host.Outcome.next (onFn_reached hreach _), ?_⟩
      rw [HostFn.setRing_ring]
      exact ⟨rfl, ringControl_enabled, ringControl_illegal, ringControl_disabled⟩
    · exact exec_consWrite (i := .cplConsWrite fn v) rfl hreach hr hn
    · exact exec_consWrite (i := .qrConsWrite fn v) rfl hreach hr hn
    · exact exec_consWrite (i := .frConsWrite fn v) rfl hreach hr hn
    · exact ⟨_, congrArg Host.Outcome.next (vfReset_reached hreach h0), rfl, rfl, rfl, rfl, rfl, rfl, rfl⟩
  · rintro s fn f rfl
    refine ⟨fun c rest h => congrArg Host.Outcome.next (heldCompletionWrite_cons h),
      fun r rest h => congrArg Host.Outcome.next (faultRecordDelivery_cons h), fun q rest h => ⟨fun hroom => ?_, fun u hu => ?_⟩⟩
    · refine congrArg Host.Outcome.next ((quarantineItemWrite_cons h).trans ?_)
      rw [tryWriteQuar_noRoom (by rw [State.setFn_fn]; exact hroom)]
      rfl
    · refine congrArg Host.Outcome.next ((quarantineItemWrite_cons h).trans ?_)
      rw [hu]
      rfl
  · obtain ⟨hmem, hlaunches, -⟩ := hostTrain_frame { s with fns := s.fns.mapAll fun _ f => ringsDisabled f }
    exact ⟨hostLinkReset s, rfl, hmem, hlaunches, hostLinkReset_ring s⟩

end Sys2Proof.Machine
end

section
/-! PROOFS. Management commands (R44 to R46): the checks that every command passes, what each one does, and O52. -/

namespace Sys2Proof.Machine

/-! ## The checks of a management command (R44 to R46) -/

/-- The boot ROM in recovery serves a command, or the part is not in recovery. -/
def Served (s : State) (code : Nat) : Prop := s.mgc.boot = .recovery → code ∈ [1, 9, 13, 14, 15]

theorem mgRecovery_iff (code : Nat) : mgRecovery code = true ↔ code ∈ [1, 9, 13, 14, 15] := by
  simp only [mgRecovery, List.contains_iff_mem, List.mem_cons, List.not_mem_nil, or_false]
  omega

/-- The first check of `manage` turns away exactly what is not served. -/
theorem served_iff (s : State) (code : Nat) :
    Served s code ↔ ¬ ((decide (s.mgc.boot = .recovery) && !mgRecovery code) = true) := by
  rw [Served, ← mgRecovery_iff]
  simp

section
variable {s : State} {code : Nat} {f : MgmtFrame} {fits : Nat → Bool} {go : List Byte → State → State × Nat × List Byte}

theorem manage_unserved (hs : s.mgc.standby = true) (h : ¬ Served s code) :
    manage code f fits go s = respond s code f mgBad [] := by
  rw [served_iff, Decidable.not_not] at h
  simp only [manage, hs, h, Bool.not_true, Bool.false_eq_true, if_false, if_true]

theorem manage_unauthentic (hs : s.mgc.standby = true) (h : Served s code) (hc : mgChanges code = true)
    (he : f.ethernet = true) (ha : authentic s code f = false) :
    manage code f fits go s = respond s code f mgAuth [] := by
  simp only [manage, hs, (served_iff s code).1 h, hc, he, ha, Bool.not_true, Bool.not_false, Bool.and_self,
    Bool.false_eq_true, if_false, if_true]

theorem manage_busy (hs : s.mgc.standby = true) (h : Served s code) (hc : mgChanges code = true)
    (ha : f.ethernet = true → authentic s code f = true) (hx : s.mgc.executing ≠ none) :
    manage code f fits go s = respond s code f mgBusy [] := by
  have hgate : ¬ ((f.ethernet && mgChanges code && !authentic s code f) = true) := by simpa [hc] using ha
  have hbusy : (mgChanges code && s.mgc.executing.isSome) = true := by simpa [hc, Option.isSome_iff_ne_none] using hx
  simp only [manage, hs, (served_iff s code).1 h, hgate, hbusy, Bool.not_true, Bool.false_eq_true, if_false, if_true]

/-- Over I3C with nothing in execution, and for a command that only reports, what is left is the check of the length. -/
theorem manage_plain (hs : s.mgc.standby = true) (h : Served s code)
    (hp : mgChanges code = false ∨ (f.ethernet = false ∧ s.mgc.executing = none)) :
    manage code f fits go s =
      if fits f.body.length then
        if mgChanges code then answerAtEnd (go f.body s).1 code f (go f.body s).2.1 (go f.body s).2.2
        else respond (go f.body s).1 code f (go f.body s).2.1 (go f.body s).2.2
      else respond s code f mgBad [] := by
  have hsealed : (f.ethernet && mgChanges code) = false := by
    obtain hc | ⟨he, -⟩ := hp
    · simp [hc]
    · simp [he]
  have hbusy : (mgChanges code && s.mgc.executing.isSome) = false := by
    obtain hc | ⟨-, hx⟩ := hp
    · simp [hc]
    · simp [hx]
  simp only [manage, hs, (served_iff s code).1 h, hsealed, hbusy, Bool.not_true, Bool.false_and, Bool.false_eq_true, if_false]
  cases fits f.body.length <;> rfl

theorem manage_badLength (hs : s.mgc.standby = true) (h : Served s code)
    (hp : mgChanges code = false ∨ (f.ethernet = false ∧ s.mgc.executing = none)) (hf : ¬ fits f.body.length = true) :
    manage code f fits go s = respond s code f mgBad [] := by
  rw [manage_plain hs h hp, if_neg hf]

variable {i : Instr} {u : State} {status : Nat} {fields : List Byte}

/-- A command that reports answers at once. -/
theorem exec_report (hi : exec i s = .next (manage code f fits go s)) (hs : s.mgc.standby = true) (h : Served s code)
    (hc : mgChanges code = false) (hf : fits f.body.length = true) (hr : go f.body s = (u, status, fields)) :
    exec i s = .next (respond u code f status fields) := by
  rw [hi, manage_plain hs h (.inl hc), if_pos hf, if_neg (by simp [hc]), hr]

/-- A command that changes state answers when it ends. -/
theorem exec_change (hi : exec i s = .next (manage code f fits go s)) (hs : s.mgc.standby = true) (he : f.ethernet = false)
    (hx : s.mgc.executing = none) (h : Served s code) (hc : mgChanges code = true) (hf : fits f.body.length = true)
    (hr : go f.body s = (u, status, fields)) : exec i s = .next (answerAtEnd u code f status fields) := by
  rw [hi, manage_plain hs h (.inr ⟨he, hx⟩), if_pos hf, if_pos hc, hr]

end

/-- A request over Ethernet without its counter, as it would stand over I3C. -/
def unsealed (f : MgmtFrame) : MgmtFrame := { f with ethernet := false, body := f.body.drop 8 }

/-- The state once the counter of a request is the highest accepted under a key. -/
def counted (s : State) (k : BitVec 384) (f : MgmtFrame) : State :=
  s.setMgc { s.mgc with
    counters := (k, BitVec.ofNat 64 (bytesToNat (f.body.take 8))) :: s.mgc.counters.filter fun e => e.1 != k }

theorem setMgc_accept {s : State} {k : BitVec 384} (hk : s.mgc.key = some k) (f : MgmtFrame) :
    s.setMgc (s.mgc.accept (BitVec.ofNat 64 (frameCounter f))) = counted s k f := by
  simp only [Mgc.accept, hk, counted, frameCounter]

/-- R45: an authentic command over Ethernet counts its counter and acts on the rest of its body as over I3C. -/
theorem manage_authentic {s : State} {code : Nat} {f : MgmtFrame} {fits : Nat → Bool}
    {go : List Byte → State → State × Nat × List Byte} {k : BitVec 384} (hs : s.mgc.standby = true) (h : Served s code)
    (hc : mgChanges code = true) (he : f.ethernet = true) (ha : authentic s code f = true) (hk : s.mgc.key = some k)
    (hx : s.mgc.executing = none) :
    manage code f fits go s = manage code (unsealed f) fits go (counted s k f) := by
  have hplain : manage code (unsealed f) fits go (counted s k f) = _ := manage_plain hs h (.inr ⟨rfl, hx⟩)
  rw [hplain]
  simp only [manage, hs, (served_iff s code).1 h, hc, he, ha, hx, setMgc_accept hk, Bool.not_true, Bool.and_self, Bool.and_false,
    Option.isSome_none, Bool.false_eq_true, if_false, if_true, unsealed]
  cases fits (f.body.drop 8).length <;> rfl

/-- A counter exceeds the highest accepted under a key when it exceeds the one that the table holds for the key. -/
theorem highest_all_iff (m : Mgc) (k : BitVec 384) (n : Nat) : (m.highest k).all (fun c => decide (c.toNat < n)) = true ↔
    ∀ c, (m.counters.find? fun e => e.1 == k) = some (k, c) → c.toNat < n := by
  rw [Mgc.highest]
  cases hf : m.counters.find? fun e => e.1 == k with
  | none => simp
  | some e =>
    obtain ⟨k', c⟩ := e
    have hk : k' = k := by simpa using List.find?_some hf
    simp [hk]

/-- R45: what makes a command over Ethernet authentic. -/
theorem authentic_iff (s : State) (code : Nat) (f : MgmtFrame) :
    authentic s code f = true ↔ ∃ k tag, s.mgc.key = some k ∧ f.tag = some tag ∧ 8 ≤ f.body.length
      ∧ tag = hmac384 k (requestHeader code f ++ f.body)
      ∧ ∀ c, (s.mgc.counters.find? fun e => e.1 == k) = some (k, c) → c.toNat < bytesToNat (f.body.take 8) := by
  unfold authentic
  split
  · next k tag hk ht =>
    rw [Bool.and_eq_true, Bool.and_eq_true, highest_all_iff, beq_iff_eq, decide_eq_true_eq]
    constructor
    · rintro ⟨⟨h1, h2⟩, h3⟩
      exact ⟨k, tag, hk, ht, h2, h1, h3⟩
    · rintro ⟨k', tag', hk', ht', h2, h1, h3⟩
      obtain rfl : k = k' := Option.some.inj (hk.symm.trans hk')
      obtain rfl : tag = tag' := Option.some.inj (ht.symm.trans ht')
      exact ⟨⟨h1, h2⟩, h3⟩
  · next hnone => exact ⟨fun h => absurd h Bool.false_ne_true, fun ⟨k, tag, hk, ht, _⟩ => (hnone k tag hk ht).elim⟩

/-! ## The commands, with the lengths of their bodies (R45) -/

/-- A command with its code and the lengths of body that it takes. -/
abbrev MgmtCommand := (MgmtFrame → Instr) × Nat × (Nat → Prop)

/-- `exec` gives a command to `manage`, which checks the length that the command takes. -/
def Managed (p : MgmtCommand) : Prop :=
  ∃ fits go, (∀ n, fits n = true ↔ p.2.2 n) ∧ ∀ f s, exec (p.1 f) s = .next (manage p.2.1 f fits go s)

def reportCommands : List MgmtCommand :=
  [(.ident, 1, (· = 0)), (.live, 2, (· = 0)), (.sensors, 3, (· = 0)), (.triplog, 4, (· = 0)), (.pwrget, 5, (· = 0)),
    (.attest, 12, (· = 32)), (.evlog, 15, (· = 4))]

def changeCommands (t : BootTest) : List MgmtCommand :=
  [(.pwrset, 6, (· = 2)), ((.mainon · t), 7, (· = 0)), (.mainoff, 8, (· = 0)), ((.reset · t), 9, (· = 0)),
    (.mgmtLinkup, 10, (· = 1)), (.mgmtLinkdown, 11, (· = 1)),
    (.fwstage, 13, fun k => 5 ≤ k ∧ k ≤ 4100), (.fwactivate, 14, (· = 4))]

theorem noBody_iff (n : Nat) : noBody n = true ↔ n = 0 := beq_iff_eq

theorem stageLength_iff (n : Nat) : (decide (5 ≤ n) && decide (n ≤ 4100)) = true ↔ 5 ≤ n ∧ n ≤ 4100 := by simp

theorem reportCommands_managed : ∀ p ∈ reportCommands, mgChanges p.2.1 = false ∧ Managed p := by
  simp only [reportCommands, List.forall_mem_cons, List.not_mem_nil, false_imp_iff, implies_true, and_true]
  exact ⟨⟨rfl, _, _, noBody_iff, fun _ _ => rfl⟩, ⟨rfl, _, _, noBody_iff, fun _ _ => rfl⟩,
    ⟨rfl, _, _, noBody_iff, fun _ _ => rfl⟩, ⟨rfl, _, _, noBody_iff, fun _ _ => rfl⟩, ⟨rfl, _, _, noBody_iff, fun _ _ => rfl⟩,
    ⟨rfl, _, _, fun _ => beq_iff_eq, fun _ _ => rfl⟩, ⟨rfl, _, _, fun _ => beq_iff_eq, fun _ _ => rfl⟩⟩

theorem changeCommands_managed (t : BootTest) : ∀ p ∈ changeCommands t, mgChanges p.2.1 = true ∧ Managed p := by
  simp only [changeCommands, List.forall_mem_cons, List.not_mem_nil, false_imp_iff, implies_true, and_true]
  exact ⟨⟨rfl, _, _, fun _ => beq_iff_eq, fun _ _ => rfl⟩, ⟨rfl, _, _, noBody_iff, fun _ _ => rfl⟩,
    ⟨rfl, _, _, noBody_iff, fun _ _ => rfl⟩, ⟨rfl, _, _, noBody_iff, fun _ _ => rfl⟩,
    ⟨rfl, _, _, fun _ => beq_iff_eq, fun _ _ => rfl⟩, ⟨rfl, _, _, fun _ => beq_iff_eq, fun _ _ => rfl⟩,
    ⟨rfl, _, _, stageLength_iff, fun _ _ => rfl⟩, ⟨rfl, _, _, fun _ => beq_iff_eq, fun _ _ => rfl⟩⟩

section
variable {s : State} {f : MgmtFrame} {p : MgmtCommand}

theorem Managed.exec_badLength (m : Managed p) (hs : s.mgc.standby = true) (h : Served s p.2.1)
    (hp : mgChanges p.2.1 = false ∨ (f.ethernet = false ∧ s.mgc.executing = none)) (hn : ¬ p.2.2 f.body.length) :
    exec (p.1 f) s = .next (respond s p.2.1 f mgBad []) := by
  obtain ⟨fits, go, hfits, hexec⟩ := m
  rw [hexec, manage_badLength hs h hp (mt (hfits _).1 hn)]

theorem Managed.exec_unserved (m : Managed p) (hs : s.mgc.standby = true) (h : ¬ Served s p.2.1) :
    exec (p.1 f) s = .next (respond s p.2.1 f mgBad []) := by
  obtain ⟨fits, go, -, hexec⟩ := m
  rw [hexec, manage_unserved hs h]

theorem Managed.exec_unauthentic (m : Managed p) (hs : s.mgc.standby = true) (h : Served s p.2.1)
    (hc : mgChanges p.2.1 = true) (he : f.ethernet = true) (ha : authentic s p.2.1 f = false) :
    exec (p.1 f) s = .next (respond s p.2.1 f mgAuth []) := by
  obtain ⟨fits, go, -, hexec⟩ := m
  rw [hexec, manage_unauthentic hs h hc he ha]

theorem Managed.exec_busy (m : Managed p) (hs : s.mgc.standby = true) (h : Served s p.2.1) (hc : mgChanges p.2.1 = true)
    (ha : f.ethernet = true → authentic s p.2.1 f = true) (hx : s.mgc.executing ≠ none) :
    exec (p.1 f) s = .next (respond s p.2.1 f mgBusy []) := by
  obtain ⟨fits, go, -, hexec⟩ := m
  rw [hexec, manage_busy hs h hc ha hx]

theorem Managed.exec_authentic {k : BitVec 384} (m : Managed p) (hs : s.mgc.standby = true) (h : Served s p.2.1)
    (hc : mgChanges p.2.1 = true) (he : f.ethernet = true) (ha : authentic s p.2.1 f = true) (hk : s.mgc.key = some k)
    (hx : s.mgc.executing = none) :
    exec (p.1 f) s = exec (p.1 (unsealed f)) (counted s k f) := by
  obtain ⟨fits, go, -, hexec⟩ := m
  rw [hexec, hexec, manage_authentic hs h hc he ha hk hx]

end

/-! ## What single commands answer and do (R45, R46) -/

section
variable {s : State} {f : MgmtFrame}

theorem sensors_length (die : Nat → BitVec 16) (a b : Nat) :
    ((List.range 10).flatMap (fun i => natToBytes (die i).toNat 2) ++ natToBytes a 4 ++ natToBytes b 4).length = 28 := by
  simp only [List.length_append, List.length_flatMap, natToBytes_length]
  rfl

/-- R44: the key for HSS signatures is used up after 2^30 of them. -/
theorem exec_attest (hs : s.mgc.standby = true) (h : Served s 12) (hn : f.body.length = 32) :
    (s.mgc.hssUsed < 2 ^ 30 → ∀ u r, u = s.setMgc { s.mgc with reports := s.mgc.reports + 1, hssUsed := s.mgc.hssUsed + 1 } →
      r = Config.signedReport (reportContents u f.body) → exec (.attest f) s = .next (respond u 12 f 0 (natToBytes r.length 4 ++ r)))
    ∧ (2 ^ 30 ≤ s.mgc.hssUsed → exec (.attest f) s = .next (respond s 12 f 4 [])) := by
  refine ⟨?_, fun hu => exec_report rfl hs h rfl (beq_iff_eq.2 hn) (if_pos hu)⟩
  rintro hu _ _ rfl rfl
  exact exec_report rfl hs h rfl (beq_iff_eq.2 hn) (if_neg (Nat.not_le.2 hu))

variable (hs : s.mgc.standby = true) (he : f.ethernet = false) (hx : s.mgc.executing = none)
include hs he hx

theorem exec_pwrset_legal (h : Served s 6) (hn : f.body.length = 2) {w : Nat} (hw : w = bytesToNat f.body) (h1 : 600 ≤ w)
    (h2 : w ≤ 2200) (h3 : (w - 600) % 25 = 0) :
    exec (.pwrset f) s = .next (answerAtEnd (s.setMgc { s.mgc with powerCap := w }) 6 f 0 []) := by
  subst hw
  refine exec_change rfl hs he hx h rfl (beq_iff_eq.2 hn) (if_neg ?_)
  simp only [Bool.or_eq_true, decide_eq_true_eq, bne_iff_ne]
  omega

theorem exec_pwrset_illegal (h : Served s 6) (hn : f.body.length = 2) {w : Nat} (hw : w = bytesToNat f.body)
    (hbad : w < 600 ∨ 2200 < w ∨ (w - 600) % 25 ≠ 0) : exec (.pwrset f) s = .next (answerAtEnd s 6 f 1 []) := by
  subst hw
  refine exec_change rfl hs he hx h rfl (beq_iff_eq.2 hn) (if_pos ?_)
  simp only [Bool.or_eq_true, decide_eq_true_eq, bne_iff_ne]
  omega

section
variable {i : Instr} {code k : Nat} {go : State → Nat → State} (hi : exec i s = .next (manageLink code f go s))
  (hc : mgChanges code = true) (h : Served s code) (hn : f.body.length = 1) (hk : k = bytesToNat f.body)
include hi hc h hn hk

theorem exec_link_legal (hlt : k < 16) :
    exec i s = .next (answerAtEnd (if s.mgc.mainOn then go s k else s) code f 0 []) := by
  subst hk
  exact exec_change hi hs he hx h hc (beq_iff_eq.2 hn) (if_neg (Nat.not_le.2 hlt))

theorem exec_link_illegal (hle : 16 ≤ k) : exec i s = .next (answerAtEnd s code f 1 []) := by
  subst hk
  exact exec_change hi hs he hx h hc (beq_iff_eq.2 hn) (if_pos hle)

end

theorem exec_fwstage (h : Served s 13) (h1 : 5 ≤ f.body.length) (h2 : f.body.length ≤ 4100) {off : Nat}
    (ho : off = bytesToNat (f.body.take 4)) :
    (off % 4096 = 0 → exec (.fwstage f) s = .next (answerAtEnd
        (s.setMgc { s.mgc with staging := cellWrites s.mgc.staging off (f.body.drop 4) }) 13 f 0 []))
      ∧ (off % 4096 ≠ 0 → exec (.fwstage f) s = .next (answerAtEnd s 13 f 1 [])) := by
  subst ho
  have hfits := (stageLength_iff f.body.length).2 ⟨h1, h2⟩
  exact ⟨fun h0 => exec_change rfl hs he hx h rfl hfits (if_neg (by simp [h0])),
    fun h0 => exec_change rfl hs he hx h rfl hfits (if_pos (by simp [h0]))⟩

theorem exec_fwactivate (h : Served s 14) (hn : f.body.length = 4) {image : List Byte}
    (hi : image = cellBytes s.mgc.staging 0 (bytesToNat f.body)) :
    exec (.fwactivate f) s = .next
      (if imageVerifies image then answerAtEnd (s.setMgc { s.mgc with marked := some image }) 14 f 0 []
       else answerAtEnd s 14 f 3 []) := by
  subst hi
  split
  · next hv => exact exec_change rfl hs he hx h rfl (beq_iff_eq.2 hn) (if_pos hv)
  · next hv => exact exec_change rfl hs he hx h rfl (beq_iff_eq.2 hn) (if_neg hv)

end

theorem exec_mgmtBadCommand {s : State} (hs : s.mgc.standby = true) (f : MgmtFrame) {code : BitVec 8}
    (hc : code = 0 ∨ 15 < code.toNat) : exec (.mgmtBadCommand code f) s = .next (respond s code.toNat f mgBad []) := by
  refine congrArg Host.Outcome.next (if_neg ?_)
  obtain rfl | hc := hc
  · simp [hs]
  · simp [hs, hc]

/-- R45: the answer of a command in execution goes out when the command ends. -/
theorem step_managementEnd {s : State} {r : List Byte} {rest : List Turn} (ha : s.agenda = .managementEnd :: rest)
    (hx : s.mgc.executing = some r) :
    step s = .next ((s.setAgenda rest).setMgc { s.mgc with executing := none, responses := r :: s.mgc.responses }) := by
  rw [step_cons ha]
  simp only [takeTurn, managementEnd, State.setAgenda_mgc, hx]

theorem served_recovery {s : State} {code : Nat} (h : code ∈ [1, 9, 13, 14, 15]) : Served s code := fun _ => h

/-- Settles O52: every command goes through `manage`, whose checks are taken in turn. -/
theorem managementCommands : Obligations.ManagementCommands := by
  unfold Obligations.ManagementCommands
  rintro s f n t hs rfl served hserved asks acts rfl rfl
  obtain rfl : served = Served s := hserved
  have hempty (hn : f.body.length = 0) : noBody f.body.length = true := (noBody_iff _).2 hn
  refine ⟨fun hn => ⟨fun h => ?_, fun h => ?_, fun h => ?_, fun h => ?_, fun h => ?_⟩, fun hn h => exec_attest hs h hn, ?_,
    fun he hx => ⟨fun hn => ⟨fun h => ?_, fun h => ?_, ?_⟩,
      fun hn h w hw => ⟨exec_pwrset_legal hs he hx h hn hw, exec_pwrset_illegal hs he hx h hn hw⟩,
      fun hn h k hk => ⟨fun hlt => ?_, fun hle => ?_⟩, fun h1 h2 off ho => ?_, fun hn image hi => ?_⟩,
    fun p hp hbad => ?_, fun p hp => ?_, fun code hc => exec_mgmtBadCommand hs f hc, fun code => authentic_iff s code f,
    fun r rest ha hx => step_managementEnd ha hx⟩
  · exact exec_report rfl hs h rfl (hempty hn) rfl
  · exact exec_report rfl hs h rfl (hempty hn) rfl
  · exact ⟨_, sensors_length _ _ _, exec_report rfl hs h rfl (hempty hn) rfl⟩
  · exact exec_report rfl hs h rfl (hempty hn) rfl
  · exact exec_report rfl hs h rfl (hempty hn) rfl
  · rintro hn h entries rfl
    exact exec_report rfl hs h rfl (beq_iff_eq.2 hn) rfl
  · exact exec_change rfl hs he hx h rfl (hempty hn) rfl
  · exact exec_change rfl hs he hx h rfl (hempty hn) rfl
  · exact exec_change rfl hs he hx (served_recovery (by decide)) rfl (hempty hn) rfl
  · exact ⟨exec_link_legal hs he hx rfl rfl h hn hk hlt,
      exec_link_legal hs he hx rfl rfl (code := 11) (fun hr => absurd (h hr) (by decide)) hn hk hlt⟩
  · exact ⟨exec_link_illegal hs he hx rfl rfl h hn hk hle,
      exec_link_illegal hs he hx rfl rfl (code := 11) (fun hr => absurd (h hr) (by decide)) hn hk hle⟩
  · exact exec_fwstage hs he hx (served_recovery (by decide)) h1 h2 ho
  · exact exec_fwactivate hs he hx (served_recovery (by decide)) hn hi
  · obtain ⟨hc, m⟩ := reportCommands_managed p hp
    by_cases h : Served s p.2.1
    · exact m.exec_badLength hs h (.inl hc) (hbad.resolve_left (not_not_intro h))
    · exact m.exec_unserved hs h
  · obtain ⟨hc, m⟩ := changeCommands_managed t p hp
    exact ⟨m.exec_unserved hs, fun h => ⟨fun he hx => m.exec_badLength hs h (.inr ⟨he, hx⟩), m.exec_unauthentic hs h hc,
      m.exec_busy hs h hc, fun k he ha hk hx => m.exec_authentic hs h hc he ha hk hx⟩⟩

end Sys2Proof.Machine
end

section
/-! PROOFS. What the context controller answers to a request (R50, R51, R67, R303), and O39. -/

namespace Sys2Proof

theorem Table.mem_keys_of_find {α : Type} {k : Nat} {v : α} {t : Table α} (h : t.find k = some v) : k ∈ t.map (·.1) := by
  induction t with
  | nil => cases h
  | cons e t ih =>
    obtain ⟨j, w⟩ := e
    by_cases hj : j = k
    · simp [hj]
    · rw [Table.find, if_neg hj] at h
      exact List.mem_cons_of_mem _ (ih h)

/-- A put keeps every key. -/
theorem Table.mem_keys_put {α : Type} {j : Nat} (k : Nat) (v : α) {t : Table α} (h : j ∈ t.map (·.1)) :
    j ∈ (t.put k v).map (·.1) := by
  induction t with
  | nil => cases h
  | cons e t ih =>
    obtain ⟨i, w⟩ := e
    simp only [Table.put]
    split
    · exact List.mem_cons_of_mem _ h
    · split
      · next hi => simpa [hi] using h
      · rcases List.mem_cons.1 h with h | h
        · exact List.mem_cons.2 (.inl h)
        · exact List.mem_cons_of_mem _ (ih h)

end Sys2Proof

namespace Sys2Proof.Machine

/-! ## Subtrees -/

section
variable {s s' : State} {k ctx : Nat} {c : Ctx}

theorem isAncestorIn_congr (h : s'.ctx = s.ctx) (a n k : Nat) : s'.isAncestorIn a n k = s.isAncestorIn a n k := by
  induction n generalizing k with
  | zero => rfl
  | succ n ih => simp only [State.isAncestorIn, State.parentOf, h, ih]

theorem mem_subtree : k ∈ s.subtree ctx ↔ k ∈ s.ctl.ctxs.map (·.1) ∧ (k = ctx ∨ s.isAncestor ctx k = true) := by
  simp [State.subtree]

theorem mem_subtree_self (h : s.ctx ctx = some c) : ctx ∈ s.subtree ctx :=
  mem_subtree.2 ⟨Table.mem_keys_of_find h, .inl rfl⟩

theorem setCtx_self_ctx (h : s.ctx ctx = some c) : (s.setCtx ctx c).ctx = s.ctx := by
  funext k
  by_cases hk : k = ctx
  · rw [hk, State.setCtx_ctx, h]
  · exact State.setCtx_ctx_ne s hk c

/-- A context put back as it is keeps every subtree. -/
theorem mem_subtree_setCtx_self (h : s.ctx ctx = some c) (hk : k ∈ s.subtree ctx) : k ∈ (s.setCtx ctx c).subtree ctx := by
  obtain ⟨hkey, hup⟩ := mem_subtree.1 hk
  refine mem_subtree.2 ⟨Table.mem_keys_put ctx c hkey, hup.imp_right fun ha => ?_⟩
  rwa [State.isAncestor, isAncestorIn_congr (setCtx_self_ctx h)]

/-! ## Changes of contexts one by one -/

/-- A step that applies `f` to the context it is given, and keeps every other context. -/
def ChangesCtx (f : Nat → Ctx → Ctx) (step : State → Nat → State) : Prop :=
  ∀ s k j, (step s k).ctx j = if j = k then (s.ctx j).map (f j) else s.ctx j

theorem ChangesCtx.foldl_ctx {f : Nat → Ctx → Ctx} {step : State → Nat → State} (h : ChangesCtx f step)
    (hf : ∀ k c, f k (f k c) = f k c) (ks : List Nat) (s : State) (j : Nat) :
    (ks.foldl step s).ctx j = if j ∈ ks then (s.ctx j).map (f j) else s.ctx j := by
  induction ks generalizing s with
  | nil => rfl
  | cons k ks ih =>
    rw [List.foldl_cons, ih, h]
    by_cases hj : j = k
    · subst hj
      cases s.ctx j <;> simp [hf]
    · simp [hj]

theorem setStates_ctx {f : Nat → Ctx → Ctx} (hf : ∀ k c, f k (f k c) = f k c) (ks : List Nat) (s : State) (j : Nat) :
    (setStates ks f s).ctx j = if j ∈ ks then (s.ctx j).map (f j) else s.ctx j := by
  refine ChangesCtx.foldl_ctx (fun s k j => ?_) hf ks s j
  by_cases hj : j = k
  · subst hj
    cases h : s.ctx j <;> simp [h]
  · cases s.ctx k <;> simp [hj, State.setCtx_ctx_ne]

/-- What the start of a stop of `top` makes of a context below it (R50). -/
def stopState (top k : Nat) (c : Ctx) : Ctx :=
  if c.st = .idle ∨ c.st = .running then { c with st := .stopping, nested := k != top } else c

theorem stopState_idem (top k : Nat) (c : Ctx) : stopState top k (stopState top k c) = stopState top k c := by
  by_cases h : c.st = .idle ∨ c.st = .running <;> simp [stopState, h]

theorem beginStop_ctx (s : State) (top j : Nat) :
    (beginStop s top).ctx j = if j ∈ s.subtree top then (s.ctx j).map (stopState top j) else s.ctx j := by
  refine ChangesCtx.foldl_ctx (fun s k j => ?_) (stopState_idem top) (s.subtree top) s j
  cases h : s.ctx k with
  | none => by_cases hj : j = k <;> simp [hj, h]
  | some c =>
    by_cases hst : c.st = .idle ∨ c.st = .running <;> by_cases hj : j = k <;>
      simp [stopState, hst, hj, h, State.setCtx_ctx_ne]

/-! ## Requests -/

variable {r : CtxReq}

theorem revoking_iff : revoking s = true ↔ ∃ o ∈ s.ctl.ops, o.drops ≠ [] := by simp [revoking]

theorem request_revoking (h : revoking s = true) : request s r = .later := by simp [request, h]

theorem request_denied (hs : revoking s = false) (hop : r.op ≠ 0x98)
    (h : ∀ c, s.ctx r.target = some c → c.parent ≠ r.issuerCtx) : request s r = .denied := by
  cases hc : s.ctx r.target with
  | none => simp [request, hs, hop, hc]
  | some c => simp [request, hs, hop, hc, h c hc]

theorem request_child (hs : revoking s = false) (hop : r.op ≠ 0x98) (hc : s.ctx r.target = some c)
    (hp : c.parent = r.issuerCtx) : request s r = requestOn s r c := by
  simp [request, hs, hop, hc, hp]

theorem requestOn_start (h : r.op = 0x9A) (hi : c.st ≠ .idle) (hr : c.st ≠ .running) : requestOn s r c = .refused := by
  simp [requestOn, h, hi, hr]

theorem requestOn_stop (h : r.op = 0x9B) : requestOn s r c = requestStop s r c := by simp [requestOn, h]

theorem requestOn_resume (h : r.op = 0x9C) : requestOn s r c = requestResume s r c := by simp [requestOn, h]

theorem requestOn_query (h : r.op = 0x9F) (hk : c.st ≠ .killing) :
    requestOn s r c = .done (queryWord s r.target c (r.arg 0).toNat) s := by simp [requestOn, h, hk]

/-- R67: a first CTXSTOP, with no new image, is refused once the child has left IDLE and RUNNING. -/
theorem requestStop_first_refused (h0 : r.arg 0 = 0) (hi : c.st ≠ .idle) (hr : c.st ≠ .running) :
    requestStop s r c = .refused := by simp [requestStop, h0, hi, hr]

theorem requestStop_first (h0 : r.arg 0 = 0) (h : c.st = .idle ∨ c.st = .running) :
    requestStop s r c = .pending s.ticket (beginStop (startOp (s.setCtx r.target c) r .stop true) r.target) := by
  simp [requestStop, h0, h]

/-- R50: nothing is accepted for a context that is being killed. -/
theorem requestOn_killing (hk : c.st = .killing) (hop : r.op ∈ [0x99, 0x9A, 0x9B, 0x9C, 0x9D, 0x9E, 0x9F]) :
    requestOn s r c = .refused := by
  simp only [List.mem_cons, List.not_mem_nil, or_false] at hop
  rcases hop with h | h | h | h | h | h | h <;>
    simp [requestOn, requestStop, requestResume, requestKill, h, hk]

theorem requestResume_unstopped (h : c.st ≠ .stopped) : requestResume s r c = .refused := by simp [requestResume, h]

/-- The contexts that a resume brings back are RESUMING, and their launches' ranks in transit (R70, R199). -/
def beginResume (s : State) (r : CtxReq) : State :=
  (resumedLaunches s (resumedTree s r.target)).foldl (transitRanks true)
    (setStates (resumedTree s r.target) (fun _ x => { x with st := .resuming })
      (startOp s r (.resume (r.arg 0).toInt (r.arg 1).toInt) true))

theorem requestResume_stopped (h : c.st = .stopped) (hchip : c.onChip = true → r.arg 0 = 0 ∧ r.arg 1 = 0)
    (hmay : (resumedLaunches s (resumedTree s r.target)).all (mayResume s (r.arg 0).toInt (r.arg 1).toInt) = true) :
    requestResume s r c = .pending s.ticket (beginResume s r) := by
  cases hc : c.onChip with
  | false => simp only [requestResume, beginResume, h, hc, hmay]; simp
  | true =>
    obtain ⟨h0, h1⟩ := hchip hc
    rw [h0, h1] at hmay
    simp only [requestResume, beginResume, h, hc, h0, h1, hmay]; simp

theorem foldl_transitRanks_ctl (on : Bool) (ks : List Nat) (s : State) : (ks.foldl (transitRanks on) s).ctl = s.ctl := by
  induction ks generalizing s with
  | nil => rfl
  | cons k ks ih => rw [List.foldl_cons, ih]; rfl

theorem mem_resumedTree_self (h : s.ctx ctx = some c) : ctx ∈ resumedTree s ctx :=
  List.mem_filter.2 ⟨mem_subtree_self h, by simp [nestedIn]⟩

theorem beginResume_ctx (h : s.ctx r.target = some c) : (beginResume s r).ctx r.target = some { c with st := .resuming } := by
  rw [beginResume, State.ctx, foldl_transitRanks_ctl, ← State.ctx,
    setStates_ctx (f := fun _ x => { x with st := .resuming }) (fun _ _ => rfl), if_pos (mem_resumedTree_self h)]
  exact congrArg (Option.map _) h

/-- R50: a stop that begins takes every context of the subtree that is IDLE or RUNNING with it. -/
theorem firstStop_ctx (h : s.ctx r.target = some c) {x : Ctx} (hk : k ∈ s.subtree r.target) (hx : s.ctx k = some x)
    (hst : x.st = .idle ∨ x.st = .running) :
    ∃ x', (beginStop (startOp (s.setCtx r.target c) r .stop true) r.target).ctx k = some x' ∧ x'.st = .stopping := by
  have hmem : k ∈ (startOp (s.setCtx r.target c) r .stop true).subtree r.target := mem_subtree_setCtx_self h hk
  have hctx : (startOp (s.setCtx r.target c) r .stop true).ctx k = some x := (congrFun (setCtx_self_ctx h) k).trans hx
  refine ⟨stopState r.target k x, ?_, by simp [stopState, hst]⟩
  rw [beginStop_ctx, if_pos hmem, hctx, Option.map_some]

/-! ## CTXQUERY (R303) -/

theorem queryWord_descriptor (s : State) (k : Nat) (c : Ctx) {sel : Nat} (h : sel < 8) :
    queryWord s k c sel = descriptorWord s k c sel := by simp [queryWord, h]

theorem queryWord_range {i j : Nat} (s : State) (k : Nat) (c : Ctx) (hi : i < 64) (hj : j < 3) :
    queryWord s k c (0x100 + 3 * i + j) = (s.ctl.ranges.find (c.part * 64 + i)).elim 0 fun e =>
      if e.owner = k ∨ s.isAncestor k e.owner = true then entryWord e j else 0 := by
  have h1 : (0x100 + 3 * i + j - 0x100) / 3 = i := by omega
  have h2 : (0x100 + 3 * i + j - 0x100) % 3 = j := by omega
  have h3 : 0x100 + 3 * i + j < 0x100 + 192 := by omega
  have h4 : ¬ 0x100 + 3 * i + j < 8 := by omega
  have h5 : 0x100 ≤ 0x100 + 3 * i + j := by omega
  rw [queryWord, if_neg h4, h1, h2, if_pos (by simp only [h3, h5, decide_true, Bool.and_true])]
  cases s.ctl.ranges.find (c.part * 64 + i) <;> simp

theorem queryWord_other (s : State) (k : Nat) (c : Ctx) {sel : Nat} (h8 : 8 ≤ sel) (h : sel < 0x100 ∨ 0x1C0 ≤ sel) :
    queryWord s k c sel = 0 := by
  have h1 : ¬ sel < 8 := by omega
  have h2 : ¬ (0x100 ≤ sel ∧ sel < 0x100 + 192) := by omega
  simp [queryWord, h1, h2]

theorem entryWord_getD (e : RangeEntry) {j : Nat} (h : j < 3) :
    entryWord e j = [
      place 63 1 1 ||| place 62 1 e.derived.toNat ||| place 56 6 e.src ||| place 16 40 e.base ||| place 4 12 e.owner,
      place 16 40 e.limit ||| place 0 5 e.attr.toNat, BitVec.ofInt 64 (e.offset * 65536)].getD j 0 := by
  match j, h with
  | 0, _ => rfl
  | 1, _ => rfl
  | 2, _ => rfl

theorem descriptorWord_getD (s : State) (k : Nat) (c : Ctx) {n : Nat} (h : n < 8) :
    descriptorWord s k c n = [
      place 52 12 k ||| place 40 12 c.parent ||| place 37 3 c.depth ||| place 32 5 c.part
        ||| place 28 4 (ctxStateCode c.st) ||| place 20 8 c.claim.toNat ||| place 13 7 (ownedEntries s k),
      (match c.benches with
      | some b => rectWord b
      | none => place 63 1 1),
      place 32 11 c.issue ||| place 0 13 c.bw, place 32 11 c.issueCh ||| place 0 13 c.bwCh,
      place 32 11 (largestDebt s false k) ||| place 0 13 (largestDebt s true k), c.image,
      place 40 24 c.imageSize ||| place 16 24 c.qres ||| place 8 8 c.vf ||| place 0 8 c.spares.length,
      c.allow].getD n 0 := by
  match n, h with
  | 0, _ => rfl
  | 1, _ => rfl
  | 2, _ => rfl
  | 3, _ => rfl
  | 4, _ => rfl
  | 5, _ => rfl
  | 6, _ => rfl
  | 7, _ => rfl

end

/-- Settles O39: a waiting revocation, then the target, and then each operation on a child of the issuer. -/
theorem contextRules : Obligations.ContextRules := by
  unfold Obligations.ContextRules
  intro s r
  refine ⟨fun o ho hd => request_revoking (revoking_iff.2 ⟨o, ho, hd⟩), fun hdrops => ?_⟩
  have hs : revoking s = false := by
    rw [← Bool.not_eq_true, revoking_iff]
    rintro ⟨o, ho, hd⟩
    exact hd (hdrops o ho)
  refine ⟨request_denied hs, fun c hc hp => ?_⟩
  have hon : r.op ≠ 0x98 → request s r = requestOn s r c := fun hop => request_child hs hop hc hp
  refine ⟨fun h hi hr => ?_, fun h h0 hi hr => ?_, fun h hst => ?_, fun hk hop => ?_, fun h hk sel hsel => ?_,
    fun h hst hchip hmay => ?_, fun h h0 hst => ?_⟩
  · rw [hon (by omega), requestOn_start h hi hr]
  · rw [hon (by omega), requestOn_stop h, requestStop_first_refused h0 hi hr]
  · rw [hon (by omega), requestOn_resume h, requestResume_unstopped hst]
  · rw [hon (fun h => by simp [h] at hop), requestOn_killing hk hop]
  · refine ⟨queryWord s r.target c sel, by rw [hon (by omega), requestOn_query h hk, hsel], fun hlt => ?_,
      fun i j hi hj he => ?_, queryWord_other s r.target c⟩
    · exact (queryWord_descriptor s _ c hlt).trans (descriptorWord_getD s _ c hlt)
    · rw [he, queryWord_range s _ c hi hj]
      exact ⟨fun hf => by rw [hf, Option.elim_none], fun e hf => by rw [hf, Option.elim_some, ← entryWord_getD e hj]⟩
  · rw [hon (by omega), requestOn_resume h, requestResume_stopped hst hchip hmay]
    exact ⟨_, _, _, rfl, beginResume_ctx hc, rfl⟩
  · rw [hon (by omega), requestOn_stop h, requestStop_first h0 hst]
    exact ⟨_, _, rfl, fun k x hk hx hxst => firstStop_ctx hc hk hx hxst⟩

end Sys2Proof.Machine
end

section
/-! PROOFS. The drawer controller (R154, R159 to R162), the ends of stops and kills (R67, R71), scrubs (R58), and O50. -/

namespace Sys2Proof.Machine

/-! ## The best of a list -/

/-- A better-than test follows a transitive relation: of two elements, the one that it does not prefer is `le` the other. -/
structure Prefers (better : Nat × Block → Nat × Block → Bool) (le : Nat × Block → Nat × Block → Prop) : Prop where
  trans : ∀ {x y z}, le x y → le y z → le x z
  of_true : ∀ {b x}, better b x = true → le x b
  of_false : ∀ {b x}, better b x = false → le b x

section
variable {better : Nat × Block → Nat × Block → Bool} {le : Nat × Block → Nat × Block → Prop} {b : Nat × Block}
  {bs : List (Nat × Block)}

theorem Prefers.refl (p : Prefers better le) (x : Nat × Block) : le x x := by
  cases h : better x x with
  | true => exact p.of_true h
  | false => exact p.of_false h

/-- One step of `bestOf`: what is preferred so far, against the next element. -/
def prefer (better : Nat × Block → Nat × Block → Bool) (o : Option (Nat × Block)) (b : Nat × Block) : Option (Nat × Block) :=
  match o with
  | none => some b
  | some x => if better b x then some b else some x

theorem Prefers.foldl_spec (p : Prefers better le) (x : Nat × Block) (h : bs.foldl (prefer better) (some x) = some b) :
    (b = x ∨ b ∈ bs) ∧ le x b ∧ ∀ y ∈ bs, le y b := by
  induction bs generalizing x with
  | nil =>
    obtain rfl : x = b := Option.some.inj h
    exact ⟨.inl rfl, p.refl x, fun y hy => absurd hy List.not_mem_nil⟩
  | cons z bs ih =>
    cases hz : better z x with
    | true =>
      rw [List.foldl_cons, prefer, if_pos hz] at h
      obtain ⟨hb, hzb, hall⟩ := ih z h
      exact ⟨.inr (List.mem_cons.2 hb), p.trans (p.of_true hz) hzb, List.forall_mem_cons.2 ⟨hzb, hall⟩⟩
    | false =>
      rw [List.foldl_cons, prefer, if_neg (by simp [hz])] at h
      obtain ⟨hb, hxb, hall⟩ := ih x h
      exact ⟨hb.imp_right (List.mem_cons_of_mem _), hxb, List.forall_mem_cons.2 ⟨p.trans (p.of_false hz) hxb, hall⟩⟩

/-- The best of a list is an element of it, and no other is better. -/
theorem Prefers.bestOf_spec (p : Prefers better le) (h : bestOf better bs = some b) : b ∈ bs ∧ ∀ y ∈ bs, le y b := by
  cases bs with
  | nil => cases h
  | cons x bs =>
    obtain ⟨hb, hxb, hall⟩ := p.foldl_spec x h
    exact ⟨List.mem_cons.2 hb, List.forall_mem_cons.2 ⟨hxb, hall⟩⟩

end

/-! ## Selection (R159) -/

/-- R159: of the queues at the threshold, the eldest. -/
theorem selectQueue_aged {threshold : Nat} {cands : List (Nat × Block)} {b : Nat × Block}
    (h : selectQueue threshold cands = some b) (hold : ∃ x ∈ cands, threshold ≤ x.2.age) :
    b ∈ cands ∧ threshold ≤ b.2.age ∧ ∀ x ∈ cands, threshold ≤ x.2.age → x.2.age ≤ b.2.age := by
  obtain ⟨x, hx, hxa⟩ := hold
  have hne : (cands.filter fun b => decide (threshold ≤ b.2.age)).isEmpty = false := by
    simpa using ⟨x.1, x.2, hx, hxa⟩
  rw [selectQueue, hne] at h
  obtain ⟨hmem, hmax⟩ := Prefers.bestOf_spec (le := fun x y => x.2.age ≤ y.2.age)
    ⟨Nat.le_trans, by simp; omega, by simp; omega⟩ h
  obtain ⟨hb, hba⟩ := List.mem_filter.1 hmem
  exact ⟨hb, of_decide_eq_true hba, fun x hx hxa => hmax x (List.mem_filter.2 ⟨hx, decide_eq_true hxa⟩)⟩

/-- R159: with no queue at the threshold, the longest. -/
theorem selectQueue_young {threshold : Nat} {cands : List (Nat × Block)} {b : Nat × Block}
    (h : selectQueue threshold cands = some b) (hyoung : ∀ x ∈ cands, x.2.age < threshold) :
    b ∈ cands ∧ ∀ x ∈ cands, x.2.queue.length ≤ b.2.queue.length := by
  have he : (cands.filter fun b => decide (threshold ≤ b.2.age)).isEmpty = true := by
    simpa using fun n x hx => hyoung (n, x) hx
  rw [selectQueue, he] at h
  exact Prefers.bestOf_spec (le := fun x y => x.2.queue.length ≤ y.2.queue.length)
    ⟨Nat.le_trans, by simp; omega, by simp; omega⟩ h

theorem selectQueue_mem {threshold : Nat} {cands : List (Nat × Block)} {b : Nat × Block}
    (h : selectQueue threshold cands = some b) : b ∈ cands := by
  by_cases hold : ∃ x ∈ cands, threshold ≤ x.2.age
  · exact (selectQueue_aged h hold).1
  · exact (selectQueue_young h fun x hx => Nat.not_le.1 fun hle => hold ⟨x, hx, hle⟩).1

/-- R154, R159: the victim may be evicted, and became evictable earliest. -/
theorem selectVictim_spec {bs : List (Nat × Block)} {v : Nat × Block} (h : selectVictim bs = some v) :
    v ∈ bs ∧ v.2.st = .resident ∧ v.2.snap = 0 ∧ v.2.hold = 0
      ∧ ∀ x ∈ bs, x.2.st = .resident → x.2.snap = 0 → x.2.hold = 0 → v.2.since ≤ x.2.since := by
  obtain ⟨hmem, hmin⟩ := Prefers.bestOf_spec (le := fun x y => y.2.since ≤ x.2.since)
    ⟨fun h1 h2 => Nat.le_trans h2 h1, by simp; omega, by simp⟩ h
  simp only [List.mem_filter, Bool.and_eq_true, decide_eq_true_eq, beq_iff_eq] at hmem hmin
  obtain ⟨hv, ⟨hst, hsnap⟩, hhold⟩ := hmem
  exact ⟨hv, hst, hsnap, hhold, fun x hx h1 h2 h3 => hmin x ⟨hx, ⟨h1, h2⟩, h3⟩⟩

section
variable {s : State} {k region block : Nat} {l : Launch} {g : Region}

/-- A fill may be selected for the launch now (R36, R50, R67). -/
def maySelect (s : State) (l : Launch) : Bool := !(l.stopped || startsNothing s l.ctx || fillRecordHeld s l)

/-- The queue that R159 selects in a region. -/
def pickQueue (l : Launch) (g : Region) (region : Nat) : Option (Nat × Block) :=
  selectQueue (if g.thr = 0 then 8 else g.thr) ((regionBlocks l region).filter fun b => !b.2.queue.isEmpty && b.2.heldOut.isNone)

/-- The range-lock tables take a selection's ranges (R112). -/
def selectionFree (s : State) (wants : List (Nat × Span)) : Bool := tablesFree s wants && !registersLater s none none wants

/-- The ranges of a fill that is registered with its selection. -/
def fillWants (l : Launch) (region : Nat) (b : Nat × Block) : List (Nat × Span) :=
  if b.2.leaving then [] else blockWants l (region, b.1) true

theorem fetchSelection_none (hg : (s.launch k).regions[region]? = some g)
    (h : maySelect s (s.launch k) = false ∨ pickQueue (s.launch k) g region = none) : fetchSelection k region s = s := by
  unfold fetchSelection
  simp only [hg]
  split
  · rfl
  · next hm =>
    rcases h with h | h
    · exact absurd (by simpa only [maySelect, Bool.not_eq_false'] using h) hm
    · simp only [pickQueue] at h
      rw [h]

theorem fetchSelection_some {b : Nat × Block} (hg : (s.launch k).regions[region]? = some g)
    (hm : maySelect s (s.launch k) = true) (hp : pickQueue (s.launch k) g region = some b) :
    fetchSelection k region s =
      if framesUsed (s.launch k) region < g.frames then
        if selectionFree s (fillWants (s.launch k) region b) then openFill s k region b.1 none else s
      else
        (selectVictim (regionBlocks (s.launch k) region)).elim (dropNewestHolds s k region) fun v =>
          if selectionFree s (fillWants (s.launch k) region b ++ blockWants (s.launch k) (region, v.1) false) then
            openFill (openEviction s k region v.1) k region b.1 (some v.1)
          else s := by
  have hm' : ((s.launch k).stopped || startsNothing s (s.launch k).ctx || fillRecordHeld s (s.launch k)) = false := by
    simpa only [maySelect, Bool.not_eq_true'] using hm
  simp only [pickQueue] at hp
  unfold fetchSelection
  simp only [hg, hm', hp]
  cases selectVictim (regionBlocks (s.launch k) region) <;> rfl

/-! ## Fills and evictions (R160 to R162) -/

theorem fillReady_iff : fillReady s k region block = true ↔
    ((s.launch k).block (region, block)).st = .filling ∧ ((s.launch k).block (region, block)).waitsFor = none
      ∧ ((s.launch k).block (region, block)).leaving = false := by
  simp [fillReady, and_assoc]

theorem fillComplete_unready (h : fillReady s k region block = false) : fillComplete k region block s = s := by
  simp [fillComplete, h]

theorem fillFault_unready (h : fillReady s k region block = false) : fillFault k region block s = s := by
  simp [fillFault, h]

theorem fillComplete_ok {ls : List LlcLine} {u : State} (h : fillReady s k region block = true)
    (hl : fillLines s (s.launch k).ctx (blockLines (s.launch k) (region, block)) = .ok ls u) :
    ∀ s1, s1 = unlockAll (fillFrame s ls) k (.fill k region block) → fillComplete k region block s =
      releaseSnapshot (s1.changeBlock k (region, block) fun x =>
        { x with st := .resident, snapshot := [], since := s1.ticket, age := 0 }).nextTicket k region block
        ((s.launch k).block (region, block)).snapshot := by
  rintro _ rfl
  simp only [fillComplete, h, hl, Bool.not_true, Bool.false_eq_true, if_false]

theorem fillFault_ok {ls : List LlcLine} {u : State}
    (hl : fillLines s (s.launch k).ctx (blockLines (s.launch k) (region, block)) = .ok ls u) :
    fillFault k region block s = s := by simp [fillFault, hl]

theorem fillComplete_trap {ti : TrapInfo} {u : State}
    (hl : fillLines s (s.launch k).ctx (blockLines (s.launch k) (region, block)) = .trap ti u) :
    fillComplete k region block s = s := by simp [fillComplete, hl]

theorem fillFault_trap {ti : TrapInfo} {u : State} (h : fillReady s k region block = true)
    (hl : fillLines s (s.launch k).ctx (blockLines (s.launch k) (region, block)) = .trap ti u) :
    ∀ r, r = postDeviceRecord s { ti with addr := some (BitVec.ofNat 64 (blockRange (s.launch k) (region, block)).1) }
        (s.launch k).ctx { item := true } → fillFault k region block s =
      (unlockAll r.1 k (.fill k region block)).changeBlock k (region, block) fun x =>
        { x with st := .waiting, queue := x.snapshot ++ x.queue, snapshot := [], snap := 0, heldOut := some r.2 } := by
  rintro _ rfl
  simp only [fillFault, h, hl, Bool.not_true, Bool.false_eq_true, if_false]

theorem evictionDone_waits
    (h : ((s.launch k).block (region, block)).leaving = false ∨ frameWaits s k (region, block) = true) :
    evictionDone k region block s = s := by
  simp only [evictionDone]
  rw [if_pos (by simpa using h)]

theorem evicted_eq : Block.evicted = fun y : Block => { y with
    leaving := false, st := if y.st ≠ .evicting then y.st else if y.queue.isEmpty then .absent else .waiting } := by
  funext y
  simp [Block.evicted]

/-! ## The ends of stops and kills (R67, R71) -/

variable {ctx : Nat} {o : CtxOp} {c : Ctx}

theorem killComplete_none (h : killOp s ctx = none) : killComplete ctx s = s := by simp [killComplete, h]

theorem killComplete_some (h : killOp s ctx = some o) : killComplete ctx s =
    if !revoking s && s.ctl.ops.all (fun x => x.target != ctx || unwrittenItems s x.key == 0) then finishKill s o else s := by
  simp only [killComplete, h]

theorem stopComplete_waits (hc : s.ctx ctx = some c)
    (h : c.st ≠ .stopping ∨ subtreeQuiet s ctx = false ∨ revoking s = true) : stopComplete ctx s = s := by
  unfold stopComplete
  split
  · next o x _ hx =>
    obtain rfl : c = x := Option.some.inj (hc.symm.trans hx)
    refine if_pos ?_
    rcases h with h | h | h <;> simp [h]
  · rfl

/-! ## Scrubs (R58) -/

variable {line : Nat}

theorem scrubLine_done (h : unscrubbed s.mem line = false) : scrubLine line s = s := by simp [scrubLine, h]

/-- Zeros written to a line are read there, and every other byte is as before. -/
theorem cellRead_zeroLine {m : List Host.Cell} (w : cellsWf m = true) (line a : Nat) :
    cellRead (cellWrites m (line * 256) (List.replicate 256 0)) a =
      if line * 256 ≤ a ∧ a < line * 256 + 256 then 0 else cellRead m a := by
  rw [cellRead_writes w, List.length_replicate]
  by_cases h : line * 256 ≤ a ∧ a < line * 256 + 256
  · rw [if_pos h, if_pos h, List.getD_eq_getElem?_getD, List.getElem?_replicate]
    split <;> rfl
  · rw [if_neg h, if_neg h]

theorem memWrite_zeroLine {m : Memory} (w : m.wf = true) (h : unscrubbed m line = true) (a : Nat) :
    cellRead (memWrite m (line * 256) (List.replicate 256 0)).bytes a =
      if line * 256 ≤ a ∧ a < line * 256 + 256 then 0 else cellRead m.bytes a := by
  have hw : cellsWf m.bytes = true := w
  simp only [memWrite, Nat.mul_div_cancel _ (Nat.succ_pos 255), h, if_true]
  rw [cellRead_zeroLine (cellWrites_wf _ _ hw), cellRead_zeroLine hw]
  split <;> rfl

theorem scrubLine_owed (h : unscrubbed s.mem line = true) : ∃ scrubs, scrubLine line s =
    s.setMem { memWrite s.mem (line * 256) (List.replicate 256 0) with scrubs := scrubs } :=
  ⟨_, if_neg (by simp [h])⟩

theorem memWrite_llc (m : Memory) (pa : Nat) (bs : List Byte) : (memWrite m pa bs).llc = m.llc := by
  unfold memWrite
  dsimp only
  split <;> rfl

end

/-- Settles O50, event by event. -/
theorem drawerAndController : Obligations.DrawerAndController := by
  unfold Obligations.DrawerAndController
  refine ⟨?_, fun threshold cands b h => ⟨selectQueue_mem h, fun ho => (selectQueue_aged h ho).2,
      fun hy => (selectQueue_young h hy).2⟩, fun bs v h => selectVictim_spec h, ?_, ?_, ?_⟩
  · rintro s k region _ g b rfl hg may rfl pick rfl free rfl fill rfl
    refine ⟨fun h => congrArg Host.Outcome.next (fetchSelection_none hg h), fun hm hp hf => ?_,
      fun hm hp hf => ⟨fun hv => ?_, ?_⟩⟩
    · refine congrArg Host.Outcome.next ((fetchSelection_some hg hm hp).trans ?_)
      rw [if_pos hf]; rfl
    · refine congrArg Host.Outcome.next ((fetchSelection_some hg hm hp).trans ?_)
      rw [if_neg (Nat.not_lt.2 hf), hv]; rfl
    · rintro v w hv rfl
      refine congrArg Host.Outcome.next ((fetchSelection_some hg hm hp).trans ?_)
      rw [if_neg (Nat.not_lt.2 hf), hv]; rfl
  · rintro s k region block b rfl
    refine ⟨fun h => ?_, fun hst hw hl => ⟨fun ls u hok s1 hs1 => ?_, fun ti u r htrap hr => ?_⟩, fun h => ?_, fun hl hf => ?_⟩
    · have hr : fillReady s k region block = false := by
        rw [← Bool.not_eq_true, fillReady_iff]
        rintro ⟨hst, hw, hl⟩
        simp [hst, hw, hl] at h
      exact ⟨congrArg Host.Outcome.next (fillComplete_unready hr), congrArg Host.Outcome.next (fillFault_unready hr)⟩
    · exact ⟨congrArg Host.Outcome.next (fillFault_ok hok),
        congrArg Host.Outcome.next (fillComplete_ok (fillReady_iff.2 ⟨hst, hw, hl⟩) hok s1 hs1)⟩
    · exact ⟨congrArg Host.Outcome.next (fillComplete_trap htrap),
        congrArg Host.Outcome.next (fillFault_trap (fillReady_iff.2 ⟨hst, hw, hl⟩) htrap r hr)⟩
    · exact congrArg Host.Outcome.next (evictionDone_waits h)
    · refine ⟨_, _, _, ?_, rfl, rfl, rfl⟩
      rw [← evicted_eq]
      exact congrArg Host.Outcome.next (if_neg (by simp [hl, hf]))
  · intro s ctx o c
    exact ⟨fun h => congrArg Host.Outcome.next (killComplete_none h), fun h => congrArg Host.Outcome.next (killComplete_some h),
      fun hc h => congrArg Host.Outcome.next (stopComplete_waits hc h)⟩
  · intro s line
    refine ⟨fun h => congrArg Host.Outcome.next (scrubLine_done h), fun hwf h => ?_⟩
    have hm : s.mem.wf = true := by
      simp only [State.memoriesWf, Bool.and_eq_true] at hwf
      exact hwf.1.1.1.1
    obtain ⟨scrubs, hs⟩ := scrubLine_owed h
    refine ⟨_, congrArg Host.Outcome.next hs, fun a => memWrite_zeroLine hm h a, memWrite_llc _ _ _, rfl, rfl, rfl⟩

end Sys2Proof.Machine
end

section
/-! PROOFS. The bench scheduler (R123, R135 to R138), token periods (R60, R87, R136), and O48. -/

namespace Sys2Proof

theorem Table.find_filter_none {α : Type} {p : Nat × α → Bool} {k : Nat} (h : ∀ v, p (k, v) = false) (t : Table α) :
    Table.find k (t.filter p) = none := by
  induction t with
  | nil => rfl
  | cons e t ih =>
    obtain ⟨j, w⟩ := e
    cases hp : p (j, w) with
    | false => rw [List.filter_cons_of_neg (by simp [hp]), ih]
    | true =>
      have hj : j ≠ k := fun e => by simp [e, h] at hp
      rw [List.filter_cons_of_pos hp, Table.find, if_neg hj, ih]

/-- A table that lists a value for the number after each of a list. -/
theorem Table.get_map_succ {α : Type} (v : Nat → α) (d : α) (is : List Nat) (j : Nat) :
    Table.get (is.map fun i => (i + 1, v i)) (j + 1) d = if j ∈ is then v j else d := by
  induction is with
  | nil => rfl
  | cons i is ih =>
    by_cases h : i = j
    · subst h; simp [Table.get, Table.find]
    · have h' : ¬ j = i := fun e => h e.symm
      simpa [Table.get, Table.find, h, h'] using ih

end Sys2Proof

namespace Sys2Proof.Machine

section
variable {s s1 : State} {k r b : Nat} {m : Message} {l : Launch}

/-! ## Choosing a message (R137, R66) -/

/-- The messages of a rank that may be dispatched, in the order of its mailbox. -/
def readyMessages (l : Launch) (r : Nat) : List Message := (l.mailboxes.get r []).filter fun m => undispatched m && !m.defer

/-- R124: a message is dispatched only once the task that it started before has ended. -/
def unlessRunning (l : Launch) (m : Message) : Option Message := if taskOver l m then some m else none

theorem nextMessage_device (h : (readyMessages l r).find? (fun x => !x.ordinary) = some m) :
    nextMessage l r = unlessRunning l m := by
  simp only [readyMessages] at h
  simp only [nextMessage, h, Option.some_or]
  rfl

theorem nextMessage_ordinary (h : ∀ m ∈ readyMessages l r, m.ordinary = true) :
    nextMessage l r = if rankHeld l r then none else (readyMessages l r).head?.bind (unlessRunning l) := by
  have hn : (readyMessages l r).find? (fun x => !x.ordinary) = none := by
    simpa using h
  simp only [readyMessages] at hn
  simp only [nextMessage, hn, Option.none_or, readyMessages]
  split
  · rfl
  · cases ((l.mailboxes.get r []).filter fun m => undispatched m && !m.defer).head? <;> rfl

/-! ## Dispatch (R136, R137) -/

/-- R123: a message whose handler exists, and a migrant, starts its strands. -/
theorem startMessage_activate (h : m.cls = 1 ∨ m.hidx < (s.launch k).handlerCount) (places : List Focus) :
    startMessage s k m places = activate s k m places := by
  refine if_neg ?_
  rcases h with h | h
  · simp [h]
  · simp [Nat.not_le.2 h]

/-- The rank of the present seat has chosen a message to start on the present hardware context, which is free and which no
reservation keeps. -/
def Chooses (s : State) (k : Nat) (m : Message) : Prop :=
  launchOn s s.cur.bench = some k ∧ s.strandAt s.cur = none ∧ mayStart s k = true
    ∧ unreserved s s.cur.bench s.cur.seat = true
    ∧ ∃ r, rankAt (s.launch k) s.cur.bench s.cur.seat = some r ∧ nextMessage (s.launch k) r = some m

theorem Chooses.dispatchAt_eq (h : Chooses s k m) (pay : Nat → State → Option State) :
    dispatchAt s s.cur pay =
      if m.cls = 3 then reserveGang s s.cur.bench k
      else if m.ordinary = false then startMessage s k m [s.cur]
      else (pay k s).elim s fun s1 => startMessage s1 k m [s.cur] := by
  obtain ⟨hl, hfree, hmay, hun, r, hr, hm⟩ := h
  unfold dispatchAt
  simp only [hl, hfree, hmay, hun, hr, hm, Option.isSome_none, Bool.not_true, Bool.or_self, Bool.false_eq_true, if_false,
    beq_iff_eq, Bool.not_eq_true']
  cases pay k s <;> rfl

theorem throttlePay_early (h : (s.bench b).idleClocks < 4096) : throttlePay b 1 s = none := if_neg (by omega)

theorem throttlePay_due (h : 4096 ≤ (s.bench b).idleClocks) :
    throttlePay b 1 s = some (s.setBench b { s.bench b with idleClocks := 0 }) := if_pos (by omega)

/-- R136: what the budget does not pay, 4,096 clocks of waiting may. -/
theorem Chooses.throttled_eq (h : Chooses s k m) (hc : m.cls ≠ 3) (ho : m.ordinary = true)
    (hb : takeBudget s.cur.bench k 1 s = none) (hg : gangReady s s.cur.bench = false) :
    exec .throttledActivation s =
      .next ((throttlePay s.cur.bench 1 s).elim s fun s1 => startMessage s1 k m [s.cur]) := by
  refine congrArg Host.Outcome.next ((if_neg (by simp [hg])).trans ?_)
  rw [h.dispatchAt_eq, if_neg hc, if_neg (by simp [ho])]
  simp only [hb, Option.isSome_none, Bool.false_eq_true, if_false]

theorem exec_taskDispatch (s : State) :
    exec .taskDispatch s = .next (dispatchAt s s.cur fun k s1 => takeBudget s.cur.bench k 1 s1) := rfl

/-! ## Gangs (R138) -/

variable {pay : Nat → Nat → State → Option State}

theorem gangStart_none (h : reservedGang s b = none) : gangStart s b pay = s.setBench b { s.bench b with gang := none } := by
  simp only [gangStart, h]

theorem gangStart_held (h : reservedGang s b = some (k, m)) (hr : rankHeld (s.launch k) m.dest = true) :
    gangStart s b pay = s := by
  simp [gangStart, h, hr]

theorem gangStart_reserved (h : reservedGang s b = some (k, m)) (hm : mayStart s k = true)
    (hr : rankHeld (s.launch k) m.dest = false) :
    gangStart s b pay = (gangPlaces s b (s.launch k) m).elim s fun places =>
      (pay k (s.launch k).gangSize s).elim s fun s1 =>
        startMessage (s1.setBench b { s1.bench b with gang := none }) k m places := by
  simp only [gangStart, h, hm, hr]
  cases gangPlaces s b (s.launch k) m with
  | none => rfl
  | some places => cases pay k (s.launch k).gangSize s <;> rfl

theorem exec_gangActivation (s : State) :
    exec .gangActivation s = .next (gangStart s s.cur.bench fun k n s1 => takeBudget s.cur.bench k n s1) := rfl

/-! ## Activation (R123) -/

theorem setLaunch_handlers (h : l.handlers = (s.launch k).handlers) :
    ((s.setLaunch k l).launch k).handlers = (s.launch k).handlers := by
  cases hk : (s.launches.find k).isSome with
  | true => rw [State.setLaunch_launch s hk, h]
  | false => rw [State.setLaunch_over s (by simpa using hk)]

theorem markActive_handlers (s : State) (k : Nat) (m : Message) :
    ((markActive s k m).launch k).handlers = (s.launch k).handlers := setLaunch_handlers rfl

/-- The strand that is put on a hardware context. -/
def placedStrand (s : State) (k : Nat) (m : Message) (size : Nat) (f : Focus) (i : Nat) : Strand :=
  { launch := k, message := m, rank := m.dest, gangIndex := i, gangSize := size, xs := startRegs m, pc := startPc (s.launch k) m
    group := startPc (s.launch k) m, capsule := m.capsule
    born := (settleBanks (dropRc s f.core) f.core (if m.cls == 1 then none else some m.hidx)).ticket + 1
    touches := (m.holds.filter fun h => h.strand == i).map fun h => (h.region, h.block) }

theorem placeStrand_strandAt (s : State) (k : Nat) (m : Message) (size : Nat) (f : Focus) (i : Nat) :
    (placeStrand s k m size f i).strandAt f = some (placedStrand s k m size f i) :=
  State.setStrandAt_strandAt (settleBanks (dropRc s f.core) f.core (if m.cls == 1 then none else some m.hidx)).nextTicket f _

/-- A message of one strand starts it on its place. -/
theorem activate_single_strandAt (s : State) (k : Nat) (m : Message) (f : Focus) :
    ∃ s1, (s1.launch k).handlers = (s.launch k).handlers
      ∧ (activate s k m [f]).strandAt f = some (placedStrand s1 k m 1 f 0) := by
  refine ⟨_, ?_, placeStrand_strandAt _ k m 1 f 0⟩
  exact (markActive_handlers _ k m).trans (setLaunch_handlers rfl)

theorem startRegs_get (h : m.capsule = none) (j : Nat) :
    (startRegs m).get (j + 1) 0 = if j < 8 then if 8 * j < 32 * m.plen then byteWord m.payload j else 0 else 0 := by
  simp only [startRegs, h]
  rw [Table.get_map_succ]
  simp

theorem startPc_handler (h : m.cls ≠ 1) : startPc l m = l.handlers.getD m.hidx 0 := by simp [startPc, h]

/-! ## Periods (R60, R61, R136) -/

variable {port : Bool} {unit ctx : Nat}

theorem setSpending_spending (s : State) (port port' : Bool) (unit unit' ctx ctx' : Nat) (x : Spending) :
    (s.setSpending port unit ctx x).spending port' unit' ctx' =
      if spendKey port' unit' ctx' = spendKey port unit ctx then x else s.spending port' unit' ctx' := by
  by_cases h : spendKey port' unit' ctx' = spendKey port unit ctx
  · rw [if_pos h, State.spending, h]; exact Table.get_put_same _ _ _ _
  · rw [if_neg h]; exact Table.get_put_ne h _ _ _

/-- The benches are the same, and so is what every context has spent on every unit. -/
def SameSpent (s u : State) : Prop :=
  u.benches = s.benches ∧ u.cur = s.cur ∧ ∀ port unit ctx, (u.spending port unit ctx).spent = (s.spending port unit ctx).spent
    ∧ (u.spending port unit ctx).activations = (s.spending port unit ctx).activations

theorem SameSpent.refl (s : State) : SameSpent s s := ⟨rfl, rfl, fun _ _ _ => ⟨rfl, rfl⟩⟩

/-- Credits and deductions are not spent. -/
theorem SameSpent.setSpending {u : State} {x : Spending} (h : SameSpent s u) (hs : x.spent = (u.spending port unit ctx).spent)
    (ha : x.activations = (u.spending port unit ctx).activations) : SameSpent s (u.setSpending port unit ctx x) := by
  obtain ⟨hb, hc, hall⟩ := h
  refine ⟨hb, hc, fun port' unit' ctx' => ?_⟩
  rw [setSpending_spending]
  split
  · next e =>
    have hkey : u.spending port unit ctx = u.spending port' unit' ctx' := by rw [State.spending, ← e]; rfl
    rw [hs, ha, hkey]
    exact hall port' unit' ctx'
  · exact hall port' unit' ctx'

/-- A period of a unit forgets what was spent there; what borrowers then pay back is no spending. -/
theorem newPeriod_sameSpent (s : State) (port : Bool) (unit : Nat) :
    ∃ s1, SameSpent s1 (newPeriod s port unit) ∧ s1.benches = s.benches ∧ s1.cur = s.cur
      ∧ ∀ ctx < 4096, s1.spending port unit ctx = {} := by
  refine ⟨_, List.foldlRecOn _ _ (SameSpent.refl _) fun u hu c _ => ?_, ?_, ?_, fun ctx hctx => ?_⟩
  · refine List.foldlRecOn _ _ (SameSpent.setSpending hu rfl rfl) fun v hv p _ => ?_
    exact hv.setSpending rfl rfl
  · split <;> rfl
  · split <;> rfl
  · have hnone : Table.find (spendKey port unit ctx) (s.ctl.spending.filter fun e =>
        !(decide (spendKey port unit 0 ≤ e.1) && decide (e.1 < spendKey port unit 0 + 4096))) = none :=
      Table.find_filter_none (fun v => by simp [spendKey, hctx]) _
    have hempty := congrArg (Option.getD · ({} : Spending)) hnone
    split <;> exact hempty

theorem newPeriod_spending (s : State) (port : Bool) (unit : Nat) (h : ctx < 4096) :
    ((newPeriod s port unit).spending port unit ctx).spent = 0
      ∧ ((newPeriod s port unit).spending port unit ctx).activations = 0 := by
  obtain ⟨s1, ⟨-, -, hsame⟩, -, -, hnew⟩ := newPeriod_sameSpent s port unit
  have h1 := hsame port unit ctx
  rwa [hnew ctx h] at h1

theorem newPeriod_curBench (s : State) (port : Bool) (unit : Nat) : (newPeriod s port unit).curBench = s.curBench := by
  obtain ⟨s1, ⟨hb, hc, -⟩, hb1, hc1, -⟩ := newPeriod_sameSpent s port unit
  simp only [State.curBench, State.bench, hb, hc, hb1, hc1]

theorem issuePeriod_early (h : s.curBench.periodClocks < 65536) : issuePeriod s = s := if_pos h

theorem issuePeriod_due (h : 65536 ≤ s.curBench.periodClocks) :
    issuePeriod s = newPeriod (s.setCurBench { s.curBench with periodClocks := 0 }) false s.cur.bench :=
  if_neg (Nat.not_lt.2 h)

/-! ## Bandwidth (R87, R125) -/

variable {w : Who} {va : Nat}

theorem hasToken_iff : hasToken s port unit ctx = true ↔
    (s.spending port unit ctx).spent + (s.spending port unit ctx).lent < ownTokens s port unit ctx := by simp [hasToken]

theorem chargePort_own (h : hasToken s true (sliceOf s va) w.ctx = true) (cap : (s.launch w.launch).bwCap = 0) :
    chargePort w va s = s.setSpending true (sliceOf s va) w.ctx
      { s.spending true (sliceOf s va) w.ctx with spent := (s.spending true (sliceOf s va) w.ctx).spent + 1 } := by
  rw [chargePort, payPort_own w va s h cap]; rfl

/-- A launch that caps its context's tokens counts the token that it spends (R125). -/
theorem chargePort_capped (h : hasToken s true (sliceOf s va) w.ctx = true) (cap : (s.launch w.launch).bwCap ≠ 0)
    (hlt : (s.launch w.launch).portSpent.get (sliceOf s va) 0 < (s.launch w.launch).bwCap) :
    chargePort w va s = (s.setSpending true (sliceOf s va) w.ctx
      { s.spending true (sliceOf s va) w.ctx with
        spent := (s.spending true (sliceOf s va) w.ctx).spent + 1 }).setLaunch w.launch
      { s.launch w.launch with portSpent := (s.launch w.launch).portSpent.change (sliceOf s va) 0 (· + 1) } := by
  have hpay : payPort w va s = _ := (if_pos (by simp [h, hlt])).trans (if_neg (by simp [cap]))
  rw [chargePort, hpay]; rfl

theorem chargePort_unpaid (h : hasToken s true (sliceOf s va) w.ctx = false ∨ (s.launch w.launch).bwCap ≠ 0
      ∧ (s.launch w.launch).bwCap ≤ (s.launch w.launch).portSpent.get (sliceOf s va) 0)
    (hb : borrowToken s true (sliceOf s va) w.ctx = none) : chargePort w va s = s := by
  have hpay : payPort w va s = s := by
    refine (if_neg ?_).trans (by rw [hb])
    rcases h with h | ⟨hcap, hle⟩
    · simp [h]
    · simp [hcap, Nat.not_lt.2 hle]
  rw [chargePort, hpay]

/-! ## Arrival (R135, R196, R199) -/

variable {h : HeldMessage} {rest : List HeldMessage}

/-- A bench's interface without a message that it held. -/
def unheld (s : State) (b : Nat) (h : HeldMessage) : State :=
  s.setBench b { s.bench b with held := (s.bench b).held.filter fun x =>
    !(x.launch == h.launch && x.message.key == h.message.key) }

theorem arrival_held (hh : (s.bench b).held = h :: rest) (hs : (s.launch h.launch).stopped = false) :
    arrival b 0 s = (deliverMessage (unheld s b h) h.launch h.message).elim (holdFlight s b h.launch h.message.dest) fun u =>
      slotFreed u h.launch h.message.dest := by
  simp only [arrival, unheld, hh, List.cons_append, List.getElem?_cons_zero, List.find?_cons, beq_self_eq_true, Bool.and_self,
    List.any_cons, Bool.true_or, hs, Bool.false_eq_true, if_false, if_true]
  cases deliverMessage _ h.launch h.message <;> rfl

theorem deliverMessage_invalid (h : ((s.launch k).rank m.dest).st = rankInvalid) :
    deliverMessage s k m = some (quarantine s k m 2 none) := if_pos (beq_iff_eq.2 h)

theorem deliverMessage_transit (h : ((s.launch k).rank m.dest).st = rankTransit) : deliverMessage s k m = none := by
  simp [deliverMessage, h, rankTransit, rankInvalid]

theorem deliverMessage_valid (h : ((s.launch k).rank m.dest).st = rankValid) :
    deliverMessage s k m = placeMessage s k m := by
  simp [deliverMessage, h, rankTransit, rankInvalid, rankValid]

end

/-- Settles O48, event by event. -/
theorem scheduling : Obligations.Scheduling := by
  unfold Obligations.Scheduling
  refine ⟨?_, ?_, ?_, ?_, ?_, ?_, ?_⟩
  · intro s s1 k r m hl hfree hmay hun hr hm
    have hch : Chooses s k m := ⟨hl, hfree, hmay, hun, r, hr, hm⟩
    refine ⟨fun hc => ?_, fun hc ho hh => ?_, fun hc ho hb => ⟨?_, fun hg ht => ?_, fun hg ht hh => ?_⟩, fun hc ho hb hh => ?_⟩
    · rw [exec_taskDispatch, hch.dispatchAt_eq, if_pos hc]
    · rw [exec_taskDispatch, hch.dispatchAt_eq, if_neg hc, if_pos ho, startMessage_activate hh]
    · rw [exec_taskDispatch, hch.dispatchAt_eq, if_neg hc, if_neg (by simp [ho]), hb, Option.elim_none]
    · rw [hch.throttled_eq hc ho hb hg, throttlePay_early ht, Option.elim_none]
    · rw [hch.throttled_eq hc ho hb hg, throttlePay_due ht, Option.elim_some, startMessage_activate (by simpa using hh)]
    · rw [exec_taskDispatch, hch.dispatchAt_eq, if_neg hc, if_neg (by simp [ho]), hb, Option.elim_some, startMessage_activate hh]
  · rintro s s1 _ k m places rfl
    refine ⟨fun h => ?_, fun h hr => ?_, fun h hm hr => ⟨fun hp => ?_, fun hp hb hh => ?_⟩⟩
    · rw [exec_gangActivation, gangStart_none h]
    · rw [exec_gangActivation, gangStart_held h hr]
    · rw [exec_gangActivation, gangStart_reserved h hm hr, hp, Option.elim_none]
    · rw [exec_gangActivation, gangStart_reserved h hm hr, hp, Option.elim_some, hb, Option.elim_some,
        startMessage_activate (by simpa using hh)]
  · intro s k m f hc hcap
    obtain ⟨s1, hhandlers, hstrand⟩ := activate_single_strandAt s k m f
    refine ⟨_, hstrand, rfl, rfl, rfl, ?_, fun i hi => ?_, fun n hn => ?_, rfl, rfl⟩
    · rw [placedStrand, startPc_handler hc, hhandlers]
    · exact (if_neg (Nat.succ_ne_zero i)).trans ((startRegs_get hcap i).trans (if_pos hi))
    · obtain ⟨j, rfl⟩ : ∃ j, n = j + 1 := ⟨n - 1, by omega⟩
      exact (if_neg (Nat.succ_ne_zero j)).trans ((startRegs_get hcap j).trans (if_neg (by omega)))
  · intro s c hc
    refine ⟨fun h => congrArg Host.Outcome.next (issuePeriod_early h),
      fun h => ⟨_, congrArg Host.Outcome.next (issuePeriod_due h), ?_, ?_, ?_⟩, ⟨_, rfl, (newPeriod_spending s true _ hc).1⟩⟩
    · exact (newPeriod_spending _ false _ hc).1
    · exact (newPeriod_spending _ false _ hc).2
    · rw [newPeriod_curBench, State.setCurBench_curBench]
  · rintro s w va _ _ _ rfl rfl rfl
    refine ⟨fun ht => ⟨chargePort_own (hasToken_iff.2 ht), chargePort_capped (hasToken_iff.2 ht)⟩, fun h hb => ?_, rfl, rfl, rfl⟩
    refine chargePort_unpaid (h.imp_left fun hle => ?_) hb
    rw [← Bool.not_eq_true, hasToken_iff]
    exact Nat.not_lt.2 hle
  · rintro s _ b h rest _ hh rfl hs rfl
    have harr := arrival_held hh hs
    refine ⟨fun hst => ?_, fun hst => ?_, fun hst => ⟨fun hp => ?_, fun u hp => ?_⟩⟩
    · rw [deliverMessage_invalid (s := unheld s b h) hst] at harr
      exact congrArg Host.Outcome.next harr
    · rw [deliverMessage_transit (s := unheld s b h) hst] at harr
      exact congrArg Host.Outcome.next harr
    · rw [deliverMessage_valid (s := unheld s b h) hst, unheld, hp] at harr
      exact congrArg Host.Outcome.next harr
    · rw [deliverMessage_valid (s := unheld s b h) hst, unheld, hp] at harr
      exact congrArg Host.Outcome.next harr
  · rintro l r _ rfl
    refine ⟨fun m hm => nextMessage_device hm, fun h => ⟨fun hr => ?_, fun hr m rest hm => ?_⟩⟩
    · rw [nextMessage_ordinary h, if_pos hr]
    · refine (nextMessage_ordinary h).trans ((if_neg (by simp [hr])).trans ?_)
      rw [readyMessages, hm]; rfl

end Sys2Proof.Machine
end

section
/-! PROOFS. The reopening of a collective step (R298), and the refutation of O46. -/

namespace Sys2Proof.Machine

/-- Where no post waits, a launch that stands has its step open anew; one that is over stays over. -/
theorem reopenStep_collective {s : State} {launch step : Nat} {c : Collective} (hc : c = (s.launch launch).collective step)
    (hw : c.waiting = []) :
    ((reopenStep s launch step).launch launch).collective step =
      if (s.launches.find launch).isSome then
        { instance_ := (c.instance_ + 1) % 2 ^ 32, previous := c.counted, count := c.count, links := c.links }
      else c := by
  subst hc
  unfold reopenStep
  simp only [hw, List.foldl_nil, State.setCollective]
  split
  case isTrue h => rw [State.setLaunch_launch s h, Launch.collective, Table.get_put_same]
  case isFalse h => rw [State.setLaunch_over s (by simpa using h)]

/-- Refutes O46: the last part names any launch, and one that is not there (here: launch 0 right after reset) has no step to open, so
that its `instance_` stays 0. -/
theorem not_collectiveSteps : ¬ Obligations.CollectiveSteps := by
  rintro ⟨_, _, _, _, hopen⟩
  have hopened := hopen State.reset 0 0 {} rfl rfl
  rw [reopenStep_collective (c := {}) rfl rfl] at hopened
  exact absurd (congrArg Collective.instance_ hopened) (by decide)

end Sys2Proof.Machine
end

section
/-! PROOFS. The turn that a step takes (R139, R228, R229, R349), and O1. -/

namespace Sys2Proof.Machine

/-! ## The meaning of an instruction is a next state -/

theorem execIllegal_isNext (s : State) : ∃ u, execIllegal s = .next u := by
  unfold execIllegal
  split <;> exact ⟨_, rfl⟩

/-- Every arm of `exec` answers with a next state: none faults, and none refuses its instruction. -/
theorem exec_isNext (i : Instr) (s : State) : ∃ u, exec i s = .next u := by
  cases i
  case illegal => exact execIllegal_isNext s
  all_goals exact ⟨_, rfl⟩

theorem next_outState_exec (i : Instr) (s u : State) : .next (outState u (exec i s)) = exec i s := by
  obtain ⟨v, hv⟩ := exec_isNext i s
  rw [hv, outState]

section
variable {s s1 : State} {t : Strand} {i : Instr} {bench seat : Nat} {rest : List Turn}

/-! ## An event and a walker (R349) -/

theorem step_event {unit : Focus} (ha : s.agenda = .event unit i :: rest) (hi : isEvent i = true) :
    step s = exec i ((s.setAgenda rest).setCur unit) :=
  (step_cons ha).trans (if_pos hi)

theorem step_walker {r : WalkerRun} (ha : s.agenda = .walker bench :: rest) (hr : (s.bench bench).run = some r) :
    step s = exec (decodeWalker ((s.bench bench).store.get r.pc 0).toNat) ((s.setAgenda rest).setCur { bench := bench }) := by
  rw [step_cons ha, takeTurn, walkerTurn]
  simp only [State.setCur_bench, State.setAgenda_bench, hr]
  exact next_outState_exec _ _ _

/-! ## A core's clock (R139) -/

theorem tickStrand_frame (s : State) (f : Focus) : (tickStrand s f).mgc = s.mgc ∧ (tickStrand s f).cores = s.cores := by
  unfold tickStrand
  split <;> exact ⟨rfl, rfl⟩

theorem tickStrands_frame (fs : List Focus) (s : State) :
    (fs.foldl tickStrand s).mgc = s.mgc ∧ (fs.foldl tickStrand s).cores = s.cores := by
  induction fs generalizing s with
  | nil => exact ⟨rfl, rfl⟩
  | cons f fs ih =>
    obtain ⟨hmgc, hcores⟩ := tickStrand_frame s f
    rw [List.foldl_cons, (ih _).1, (ih _).2]
    exact ⟨hmgc, hcores⟩

theorem tickStrands_core (fs : List Focus) (s : State) (k : Nat) : (fs.foldl tickStrand s).core k = s.core k := by
  rw [State.core, (tickStrands_frame fs s).2, State.core]

/-- The counts of a clock touch neither the MGC nor more of the core whose clock it is than its cycle count. -/
theorem tick_frame (bench seat : Nat) (s : State) : (tick bench seat s).mgc = s.mgc
    ∧ (tick bench seat s).core (bench * 8 + seat) =
      { s.core (bench * 8 + seat) with cycle := (s.core (bench * 8 + seat)).cycle + 1 } := by
  unfold tick
  split <;> simp only [State.setBench_mgc, State.setBench_core, tickStrands_frame, tickStrands_core, State.setCore_mgc,
    State.setCore_core, and_self]

/-- Without issue gaps, a clock of a core that has power tries the contexts on the counted state. -/
theorem step_core (ha : s.agenda = .core bench seat :: rest) (hon : s.mgc.mainOn = true) (hgaps : s.mgc.throttled = false) :
    step s = .next (tryContexts exec (issueOrder bench seat (s.core (bench * 8 + seat)).lastIssued) (clocked bench seat rest s)) := by
  obtain ⟨hmgc, hcore⟩ := tick_frame bench seat (((s.setAgenda rest).setCur { bench := bench, seat := seat }).setIssue .none)
  rw [step_cons ha, takeTurn, coreTurn]
  simp only [State.setIssue_mgc, State.setCur_mgc, State.setAgenda_mgc, hon, hmgc, hgaps, hcore, Bool.not_true, Bool.false_and,
    Bool.false_eq_true, if_false, State.setIssue_core, State.setCur_core, State.setAgenda_core, clocked]

theorem issueOrder_cons (bench seat last : Nat) :
    ∃ later, issueOrder bench seat last = { bench := bench, seat := seat, hc := (last + 1) % 8 } :: later := ⟨_, rfl⟩

variable {ex : Exec} {f : Focus} {later : List Focus}

/-- The first context in order that may issue has the clock, unless its group only waits. -/
theorem tryContexts_cons (hm : mayIssue s f = true) (ht : s.strandAt f = some t)
    (hi : ∀ w, (issueGroup ex (s.setCur f)).issue ≠ .waiting w) :
    tryContexts ex (f :: later) s = noteIssued t.launch (issueGroup ex (s.setCur f)) := by
  simp only [tryContexts, hm, ht, Bool.not_true, Bool.false_eq_true, if_false]

/-- A strand that waits for no end of its own, and whose line gives a single slot, does what that slot's instruction does. -/
theorem issueGroup_single (ht : s.strand = some t)
    (hw : ∀ w x g b held, t.wait = some w → w.why ≠ .trap x ∧ w.why ≠ .park g b held) (hf : fetchGroup t s = .ok (.single i) s1) :
    issueGroup ex s = outState (s1.setStrand (entered t (.single i))) (ex i (s1.setStrand (entered t (.single i)))) := by
  unfold issueGroup
  simp only [ht]
  split
  · exact absurd rfl (hw _ _ 0 0 [] ‹_›).1
  · exact absurd rfl (hw _ { cause := .watchdog } _ _ _ ‹_›).2
  · simp only [hf]

end

/-- Settles O1, by the kind of the turn: an event, a walker's, and a core's clock. -/
theorem stepRunsInstruction : Obligations.StepRunsInstruction := by
  refine ⟨fun s unit i rest ha hi => step_event ha hi, fun s bench rest r ha hr => step_walker ha hr, ?_⟩
  intro s s1 s2 bench seat rest f t i ha hon hgaps hf hm ht hw hg hx hi
  obtain ⟨later, horder⟩ := issueOrder_cons bench seat (s.core (bench * 8 + seat)).lastIssued
  rw [step_core ha hon hgaps, horder, ← hf]
  generalize clocked bench seat rest s = c at hm ht hg
  have hgroup : issueGroup exec (c.setCur f) = s2 := by rw [issueGroup_single (s := c.setCur f) ht hw hg, hx, outState]
  rw [tryContexts_cons hm ht (hgroup ▸ hi), hgroup]

end Sys2Proof.Machine
end

section
/-! PROOFS. Waits that an event of their own ends (R168, R169, R180, R268, R295), and O47. -/

namespace Sys2Proof.Machine

/-- A strand with its wait marked served. -/
def servedStrand (t : Strand) (w : Wait) : Strand := { t with wait := some { w with served := true } }

section
variable {s : State} {t : Strand} {w : Wait}

theorem serveWait_waiting (ht : s.strand = some t) (hw : t.wait = some w) : serveWait s = s.setStrand (servedStrand t w) := by
  simp only [serveWait, ht, hw, Option.map_some, servedStrand]

theorem performServed_next (ht : s.strand = some t) (u : State) : performServed s.strand s (.next u) = countIssue t.launch u := by
  rw [performServed, ht]
  rfl

/-! ## LDW (R268) -/

/-- The word that an LDW waits for is full, and no other context of the core has waited longer for it. -/
def ldwReady (s : State) (off : Nat) : Bool :=
  s.curCore.full.contains (off / 8) && !olderWaiter s s.cur (upFrom (s.cur.core * 8) 8) (.ldw off)

theorem ldwServed_eq {off : Nat} (ht : s.strand = some t) (hw : t.wait = some w) (hwhy : w.why = .ldw off) :
    ldwServed s = if ldwReady s off then
      w.slot.elim (serveWait s) fun f => performServed s.strand s (execLdw f s) else s := by
  have hcur : curWait s = some w := by rw [curWait, ht]; exact hw
  have hready : (!s.curCore.full.contains (off / 8) || olderWaiter s s.cur (coreSharers s.cur) (.ldw off)) = !ldwReady s off := by
    rw [ldwReady, Bool.not_and, Bool.not_not, coreSharers]
  obtain ⟨why, ticket, clock, served, slot⟩ := w
  subst hwhy
  simp only [ldwServed, hcur, hready]
  cases ldwReady s off with
  | false => rfl
  | true => cases slot <;> rfl

/-! ## Queues (R180) -/

theorem queueWaitServed_eq {n : Nat} (ht : s.strand = some t) (hw : t.wait = some w)
    (hwhy : w.why = .queueRead n ∨ w.why = .queueWrite n) :
    queueWaitServed s =
      if queueReady s t w.why && !olderWaiter s s.cur (queueSharers s.cur n) w.why then serveWait s else s := by
  rcases hwhy with h | h <;> simp only [queueWaitServed, ht, hw, h]

/-- What a queue's wait is for: a word, or a fault that every read meets, or room. -/
theorem queueReady_eq {n : Nat} (hwhy : w.why = .queueRead n ∨ w.why = .queueWrite n) :
    queueReady s t w.why = if w.why = .queueRead n then !(queueWords s t n).isEmpty || (queueFault t n).isSome
      else decide ((queueWords s t n).length < queueDepth (s.launch t.launch) n) := by
  rcases hwhy with h | h
  · rw [h, if_pos rfl, queueReady]
  · rw [h, if_neg (by simp), queueReady]

/-! ## BARWAIT (R295) -/

theorem barwaitRelease_eq {object : Nat} {f : Slot} (ht : s.strand = some t) (hw : t.wait = some w)
    (hwhy : w.why = .barwait object) (hslot : w.slot = some f) :
    barwaitRelease s =
      if barwaitReady s s.cur.bench t object (some f) then performServed s.strand s (execBarwait f s) else s := by
  obtain ⟨why, ticket, clock, served, slot⟩ := w
  subst hwhy hslot
  simp only [barwaitRelease, ht, hw]

theorem barwaitReady_iff (s : State) (bench : Nat) (t : Strand) (object : Nat) (f : Slot) :
    barwaitReady s bench t object (some f) = true ↔
      barwaitOver (t.handle (selNum f.a)) (s.barrier bench (t.handle (selNum f.a)).object) = true
        ∨ barrierPoisoned s bench (t.handle (selNum f.a)).object = true := by
  rw [barwaitReady, Bool.or_eq_true, or_comm]

/-! ## The claim (R168, R169) -/

theorem claimHandover_held {x : Nat} (h : s.curCore.claim = some x) : claimHandover s = s := by
  simp only [claimHandover, h]

theorem claimHandover_noHeir (h : claimHeir s = none) : claimHandover s = s := by
  unfold claimHandover
  split
  · simp [h] at *
  · rfl

/-- The heir's wait is served, on the core that it has claimed. -/
theorem claimHandover_heir {h : Nat} (hfree : s.curCore.claim = none) (hh : claimHeir s = some h)
    (ht : s.strandAt { s.cur with hc := h } = some t) (hw : t.wait = some w) :
    claimHandover s =
      (s.setCurCore (claimed s.curCore h)).setStrandAt { s.cur with hc := h } (some (servedStrand t w)) := by
  simp only [claimHandover, hfree, hh]
  exact congrArg (State.setCur · s.cur)
    (serveWait_waiting (s := (s.setCurCore (claimed s.curCore h)).setCur { s.cur with hc := h }) ht hw)

end

/-- Settles O47, event by event. -/
theorem servedWaits : Obligations.ServedWaits := by
  refine ⟨?_, ?_⟩
  · rintro s t w ht hw _ rfl
    refine ⟨?_, ?_, ?_⟩
    · rintro off hwhy _ rfl
      have hldw := ldwServed_eq ht hw hwhy
      refine ⟨fun hr => ?_, fun hr hslot => ?_, fun hr f hslot => ⟨_, rfl, ?_⟩⟩
      · exact congrArg Host.Outcome.next (hldw.trans (if_neg (by rw [ldwReady, hr]; exact Bool.false_ne_true)))
      · rw [ldwReady, if_pos hr, hslot, Option.elim_none, serveWait_waiting ht hw] at hldw
        exact congrArg Host.Outcome.next hldw
      · rw [ldwReady, if_pos hr, hslot, Option.elim_some, execLdw, performServed_next ht] at hldw
        exact congrArg Host.Outcome.next hldw
    · rintro n hwhy _ rfl
      rw [← queueReady_eq hwhy]
      have hqueue := queueWaitServed_eq ht hw hwhy
      rw [serveWait_waiting ht hw] at hqueue
      exact congrArg Host.Outcome.next hqueue
    · rintro object f hwhy hslot _ rfl
      have hbar := barwaitRelease_eq ht hw hwhy hslot
      refine ⟨fun hover hpoison => ?_, fun h => ⟨_, rfl, ?_⟩⟩
      · exact congrArg Host.Outcome.next (hbar.trans (if_neg (by simp [barwaitReady_iff, hover, hpoison])))
      · rw [if_pos ((barwaitReady_iff ..).2 h), execBarwait, performServed_next ht] at hbar
        exact congrArg Host.Outcome.next hbar
  · rintro s k h t w rfl
    refine ⟨fun x hx => congrArg Host.Outcome.next (claimHandover_held hx),
      fun _ hn => congrArg Host.Outcome.next (claimHandover_noHeir hn), fun hfree hh ht hw => ?_⟩
    refine ⟨_, congrArg Host.Outcome.next (claimHandover_heir hfree hh ht hw), ?_, ?_, fun n hn => ?_, rfl, rfl⟩
    · exact State.setCore_core s _ _
    · exact State.setStrandAt_strandAt _ _ _
    · exact State.setHc_hc_ne _ hn _

end Sys2Proof.Machine
end

section
/-! PROOFS. The ends of tasks and launches (R124, R130), control nodes (R133), watchdogs and gang deadlock (R141, R144), and O49. -/

namespace Sys2Proof

@[simp] theorem Table.find_drop_same {α : Type} (k : Nat) (t : Table α) : (Table.drop k t).find k = none := by
  induction t with
  | nil => rfl
  | cons e t ih =>
    obtain ⟨j, v⟩ := e
    rw [Table.drop]
    split
    case isTrue => exact ih
    case isFalse h => rw [Table.find, if_neg h, ih]

end Sys2Proof

namespace Sys2Proof.Machine

section
variable {s s2 : State} {k n : Nat}

/-! ## The end of a task (R124) -/

section
variable {x : Task}

/-- A task leaves the table of its launch. -/
def dropTask (s : State) (k n : Nat) : State := s.setLaunch k { s.launch k with tasks := (s.launch k).tasks.drop n }

/-- What is left of a task that has ended: its slot is given back (R124, R160). -/
def taskEnded (s : State) (k n : Nat) (x : Task) : State := slotFreed (snapEnded (dropTask s k n) k x.snapshot) k x.rank

theorem taskEnd_busy (hx : (s.launch k).tasks.find n = some x)
    (h : x.live ≠ 0 ∨ taskStrands s k n ≠ [] ∨ taskEngineWork s x.bench k n = true) : taskEnd k n s = s := by
  have hbusy : (x.live != 0 || !(taskStrands s k n).isEmpty || taskEngineWork s x.bench k n) = true := by
    simpa [or_assoc] using h
  simp only [taskEnd, hx, hbusy, if_true]

/-- A task of which nothing is left at work. -/
structure TaskIdle (s : State) (k n : Nat) (x : Task) : Prop where
  found : (s.launch k).tasks.find n = some x
  live : x.live = 0
  strands : taskStrands s k n = []
  engines : taskEngineWork s x.bench k n = false

/-- It ends with its message kept or removed, as its fate has it; a task that halts decrements its descriptor's tasks first. -/
theorem TaskIdle.taskEnd_eq (h : TaskIdle s k n x) (hd : x.fate = .halted → x.descriptor = none) :
    taskEnd k n s = taskEnded (if x.fate = .halted ∨ x.fate = .failed then removeMessage s x.bench k x.rank n else s) k n x := by
  have hends : (if x.fate = .halted then endDescriptor s k x.descriptor else s) = s := by
    split
    · rw [hd ‹_›, endDescriptor]
    · rfl
  simp only [taskEnd, h.found, h.live, h.strands, h.engines, hends, bne_self_eq_false, List.isEmpty_nil, Bool.not_true,
    Bool.or_self, Bool.false_eq_true, if_false, Bool.or_eq_true, decide_eq_true_eq]
  rfl

theorem removeMessage_some {bench rank : Nat} {m : Message} (h : (s.launch k).boxMessage rank n = some m) :
    removeMessage s bench k rank n = freeBody (dropMessage s k rank n) bench m := by
  simp only [removeMessage, h]

end

/-! ## Control nodes (R133) -/

/-- The only descriptor that waits is a control node that no record holds up: its word is read, and it is evaluated. -/
theorem controlNode_ready {u : Unread} {d : Descriptor} {bs : List Byte} (hs : (s.launch k).stopped = false)
    (hu : (s.launch k).unread = [u]) (hr : u.record = none) (hd : (s.launch k).descriptors[u.task]? = some d) (hk : 2 ≤ d.kind)
    (hw : deviceRead (s.setLaunch k { s.launch k with unread := [] }) (s.launch k).ctx d.control 8 = .ok bs s2) :
    controlNode k s = evaluateNode s2 k u.task d (byteWord bs 0) := by
  refine (if_neg (by simp [hs])).trans ?_
  simp [hu, hr, hd, hk, hw]

/-- The arm that a word chooses: by its value in a node of kind 4, else by whether it is zero. -/
theorem evaluateNode_arm {d : Descriptor} (h : d.kind ≠ 3) (s : State) (k n : Nat) (w : Word) :
    evaluateNode s k n d w = decrementAll (s.setLaunch k { s.launch k with deps := (s.launch k).deps.put n d.deps }) k
      (d.arms.getD (if d.kind = 4 then min w.toNat (d.armCount - 1) else if w = 0 then 1 else 0) []) := by
  unfold evaluateNode
  simp only [beq_eq_false_iff_ne.2 h, Bool.false_and, Bool.false_eq_true, if_false]
  split
  case h_1 h4 => rw [if_pos h4]
  case h_2 h4 => rw [if_neg h4]; by_cases hw : w = 0 <;> simp [hw]

/-! ## Strands that wait too long (R141, R144) -/

variable {t : Strand} {f : Focus}

theorem watchdog_holds (ht : s.strand = some t) (h : t.clocks < (s.launch t.launch).budget
      ∨ (taskStrands s t.launch t.message.key).any (inCtxOp s) = true) : watchdog s = s := by
  simp only [watchdog, ht]
  exact if_pos (by simpa using h)

theorem watchdog_expires (ht : s.strand = some t) (hb : (s.launch t.launch).budget ≤ t.clocks)
    (hop : (taskStrands s t.launch t.message.key).any (inCtxOp s) = false)
    (hf : lowestStrand s t.launch t.message.key = some f) : watchdog s = countEvent
      (abortTask s { first := f, info := { cause := .watchdog }, expire := true }) t.launch f.bench 9 1 := by
  simp only [watchdog, ht, hop, hf, Nat.not_lt.2 hb, decide_false, Bool.or_self, Bool.false_eq_true, if_false]

theorem gangDeadlock_moves (ht : s.strand = some t) (h : gangStuck s s.cur = false) : gangDeadlock s = s := by
  simp only [gangDeadlock, ht, h, Bool.not_false, Bool.true_or, if_true]

theorem gangDeadlock_stuck {live : List Focus} (ht : s.strand = some t)
    (hl : taskStrands s t.launch t.message.key = f :: live) (h : gangStuck s s.cur = true)
    (hlong : ∀ g ∈ f :: live, ∃ x, s.strandAt g = some x ∧ 256 ≤ x.gangWait) : gangDeadlock s = abortTask s
      { first := f, info := { cause := .gangDeadlock }, others := .gangDeadlock, expire := true } := by
  simp only [gangDeadlock, ht, hl, h, Bool.not_true, Bool.false_or, Bool.not_eq_true']
  refine if_neg (Bool.not_eq_false _ ▸ List.all_eq_true.2 fun g hg => ?_)
  obtain ⟨x, hx, hw⟩ := hlong g hg
  simp only [hx, hw, decide_true]

/-! ## Launch completion (R130) -/

variable {l : Launch}

theorem launchComplete_goesOn (hl : s.launches.find k = some l) (h : l.stopped = true ∨ launchDone s k = false) :
    launchComplete k s = s := by
  simp only [launchComplete, hl]
  exact if_pos (by simpa using h)

theorem launchComplete_done (hl : s.launches.find k = some l) (hs : l.stopped = false) (h : launchDone s k = true) :
    launchComplete k s = tellIssuer (idleIfDone (releaseLaunch s k) l.ctx) l (launchFailed l) := by
  simp only [launchComplete, hl, hs, h, Bool.not_true, Bool.or_self, Bool.false_eq_true, if_false]

theorem idleIfDone_launches (s : State) (ctx : Nat) : (idleIfDone s ctx).launches = s.launches := by
  unfold idleIfDone
  split
  · split <;> rfl
  · rfl

theorem releaseLaunch_find (s : State) (k : Nat) : (releaseLaunch s k).launches.find k = none := Table.find_drop_same k _

end

/-- Settles O49, event by event. -/
theorem taskAndLaunchEnds : Obligations.TaskAndLaunchEnds := by
  refine ⟨?_, ?_, fun s k n d w h => evaluateNode_arm h s k n w, ?_, ?_⟩
  · intro s k n x hx
    refine ⟨fun h => congrArg Host.Outcome.next (taskEnd_busy hx h), ?_⟩
    rintro hlive hstrands hengines _ rfl
    have idle : TaskIdle s k n x := ⟨hx, hlive, hstrands, hengines⟩
    refine ⟨fun hh hf => congrArg Host.Outcome.next ?_, fun m hfate hm => congrArg Host.Outcome.next ?_⟩
    · rw [idle.taskEnd_eq fun h => absurd h hh, if_neg (by simp [hh, hf])]; rfl
    · rw [idle.taskEnd_eq fun h => ?_, if_pos (hfate.imp_left And.left), removeMessage_some hm]; rfl
      rcases hfate with ⟨_, hd⟩ | hf
      · exact hd
      · rw [h] at hf; contradiction
  · rintro s _ s2 k u d bs hs hu hr hd hk rfl hw
    exact congrArg Host.Outcome.next (controlNode_ready hs hu hr hd hk hw)
  · intro s t f ht
    exact ⟨fun h => congrArg Host.Outcome.next (watchdog_holds ht h),
      fun hb hop hf => congrArg Host.Outcome.next (watchdog_expires ht hb hop hf),
      fun h => congrArg Host.Outcome.next (gangDeadlock_moves ht h),
      fun live hl h hlong => congrArg Host.Outcome.next (gangDeadlock_stuck ht hl h hlong)⟩
  · intro s k l hl
    refine ⟨fun h => congrArg Host.Outcome.next (launchComplete_goesOn hl h),
      fun hs h => ⟨_, congrArg Host.Outcome.next (launchComplete_done hl hs h), rfl, fun hi => ?_⟩⟩
    simp only [tellIssuer, hi, idleIfDone_launches, releaseLaunch_find]

end Sys2Proof.Machine
end

section
/-! PROOFS. Rounding and NaN results (R208, R209, R218, R219, R221): what a code stands for and how it rounds back, rounding to a
multiple of a power of two, the special operands of each operation, and O34. -/

namespace Sys2Proof.Machine

/-! ## Bit length -/

theorem bitLen_le_iff {m n : Nat} : bitLen m ≤ n ↔ m < 2 ^ n := by
  unfold bitLen
  split
  · next h => exact iff_of_true (Nat.zero_le n) (h ▸ Nat.two_pow_pos n)
  · next h => exact Nat.log2_lt h

theorem bitLen_eq_succ {m n : Nat} (hlo : 2 ^ n ≤ m) (hhi : m < 2 ^ (n + 1)) : bitLen m = n + 1 := by
  have hle : bitLen m ≤ n + 1 := bitLen_le_iff.2 hhi
  have hgt : ¬ bitLen m ≤ n := fun h => absurd (bitLen_le_iff.1 h) (Nat.not_lt.2 hlo)
  omega

theorem bitLen_mul_two_pow_le (m d : Nat) : bitLen (m * 2 ^ d) ≤ bitLen m + d := by
  rw [bitLen_le_iff, Nat.pow_add]
  exact Nat.mul_lt_mul_of_pos_right (bitLen_le_iff.1 (Nat.le_refl _)) (Nat.two_pow_pos d)

/-! ## Rounding to a multiple of a power of two (R218) -/

theorem roundAt_of_le (rm : Rnd) (neg : Bool) (m : Nat) {e q : Int} (h : q ≤ e) :
    roundAt rm neg m e q = (m * 2 ^ (e - q).toNat, false) := if_pos h

theorem roundAt_self (rm : Rnd) (neg : Bool) (m : Nat) (e : Int) : roundAt rm neg m e e = (m, false) := by
  simp [roundAt_of_le]

/-- Rounding `m` to a multiple of 2^k takes the multiple above its magnitude. -/
def roundsUp (rm : Rnd) (neg : Bool) (m k : Nat) : Bool :=
  match rm with
  | .rtz => false
  | .rup => m % 2 ^ k != 0 && !neg
  | .rdn => m % 2 ^ k != 0 && neg
  | _ => decide (2 ^ k < 2 * (m % 2 ^ k)) || (2 * (m % 2 ^ k) == 2 ^ k && m / 2 ^ k % 2 == 1)

theorem roundAt_add (rm : Rnd) (neg : Bool) (m k : Nat) (e : Int) :
    roundAt rm neg m e (e + k) = (m / 2 ^ k + (roundsUp rm neg m k).toNat, m % 2 ^ k != 0) := by
  cases k with
  | zero => cases rm <;> simp [roundAt_self, roundsUp, Nat.mod_one]
  | succ k =>
    have hq : ¬ e + ((k + 1 : Nat) : Int) ≤ e := by omega
    have hs : (e + ((k + 1 : Nat) : Int) - e).toNat = k + 1 := by omega
    have hgt (r : Nat) : 2 ^ (k + 1) < 2 * r ↔ 2 ^ k < r := by rw [Nat.pow_succ]; omega
    have hbeq (r : Nat) : (2 * r == 2 ^ (k + 1)) = (r == 2 ^ k) := by
      rw [Bool.eq_iff_iff, beq_iff_eq, beq_iff_eq, Nat.pow_succ]; omega
    have htoNat (b : Bool) (h : Nat) : (if b then h + 1 else h) = h + b.toNat := by cases b <;> rfl
    simp only [roundAt, if_neg hq, hs, Nat.add_sub_cancel, htoNat]
    cases rm <;> simp only [roundsUp, hgt, hbeq]

theorem roundAt_inexact_iff (rm : Rnd) (neg : Bool) (m k : Nat) (e : Int) :
    (roundAt rm neg m e (e + k)).2 = true ↔ m % 2 ^ k ≠ 0 := by
  rw [roundAt_add, bne_iff_ne]

section
variable {neg : Bool} {m k : Nat} {e : Int}

/-- Not rounded up, the multiple is the last one at or below the magnitude. -/
theorem roundAt_floor {rm : Rnd} (h : roundsUp rm neg m k = false) :
    (roundAt rm neg m e (e + k)).1 * 2 ^ k ≤ m ∧ m < ((roundAt rm neg m e (e + k)).1 + 1) * 2 ^ k := by
  rw [roundAt_add, h]
  exact ⟨Nat.div_mul_le_self m _, by simpa using Nat.lt_mul_of_div_lt (Nat.lt_succ_self (m / 2 ^ k)) (Nat.two_pow_pos k)⟩

/-- Rounded up whenever it is inexact, the multiple is the first one at or above the magnitude. -/
theorem roundAt_ceil {rm : Rnd} (h : roundsUp rm neg m k = (m % 2 ^ k != 0)) :
    m ≤ (roundAt rm neg m e (e + k)).1 * 2 ^ k ∧ (roundAt rm neg m e (e + k)).1 * 2 ^ k < m + 2 ^ k := by
  have hdiv := Nat.div_add_mod' m (2 ^ k)
  have hlt := Nat.mod_lt m (Nat.two_pow_pos k)
  rw [roundAt_add, h, Nat.add_mul]
  by_cases hr : m % 2 ^ k = 0
  · simp only [hr, bne_self_eq_false, Bool.toNat_false]; omega
  · simp only [bne_iff_ne.2 hr, Bool.toNat_true]; omega

theorem roundAt_rne_nearest :
    2 * ((roundAt .rne neg m e (e + k)).1 * 2 ^ k) ≤ 2 * m + 2 ^ k
      ∧ 2 * m ≤ 2 * ((roundAt .rne neg m e (e + k)).1 * 2 ^ k) + 2 ^ k
      ∧ (2 * ((roundAt .rne neg m e (e + k)).1 * 2 ^ k) = 2 * m + 2 ^ k
          ∨ 2 * m = 2 * ((roundAt .rne neg m e (e + k)).1 * 2 ^ k) + 2 ^ k → (roundAt .rne neg m e (e + k)).1 % 2 = 0) := by
  have hdiv := Nat.div_add_mod' m (2 ^ k)
  have hlt := Nat.mod_lt m (Nat.two_pow_pos k)
  rw [roundAt_add, Nat.add_mul]
  by_cases hup : roundsUp .rne neg m k = true
  · have h : 2 ^ k < 2 * (m % 2 ^ k) ∨ 2 * (m % 2 ^ k) = 2 ^ k ∧ m / 2 ^ k % 2 = 1 := by simpa [roundsUp] using hup
    simp only [hup, Bool.toNat_true]
    omega
  · have h : ¬ (2 ^ k < 2 * (m % 2 ^ k) ∨ 2 * (m % 2 ^ k) = 2 ^ k ∧ m / 2 ^ k % 2 = 1) := by simpa [roundsUp] using hup
    simp only [hup, Bool.toNat_false]
    omega

end

/-- Taking an exact multiple of a smaller unit moves no leading bit up. -/
theorem bitLen_roundAt_add_le (rm : Rnd) (neg : Bool) (m : Nat) {e q : Int} (h : q ≤ e) :
    (bitLen (roundAt rm neg m e q).1 : Int) + q ≤ bitLen m + e := by
  have := bitLen_mul_two_pow_le m (e - q).toNat
  simp only [roundAt_of_le rm neg m h]
  omega

/-! ## What a code stands for (R208, R209) -/

theorem code_eq_fields {f : Fmt} {w : Nat} (hw : w < 2 ^ f.bits) :
    w = signBit f (w / 2 ^ (f.eb + f.fb) % 2 == 1) + w / 2 ^ f.fb % 2 ^ f.eb * 2 ^ f.fb + w % 2 ^ f.fb := by
  have hsign : w / 2 ^ (f.eb + f.fb) < 2 := by
    rw [Nat.div_lt_iff_lt_mul (Nat.two_pow_pos _), ← Nat.pow_succ']
    exact Nat.lt_of_lt_of_eq hw (congrArg _ (by simp only [Fmt.bits]; omega))
  have hbit : signBit f (w / 2 ^ (f.eb + f.fb) % 2 == 1) = w / 2 ^ (f.eb + f.fb) * 2 ^ (f.eb + f.fb) := by
    rcases Nat.lt_succ_iff_lt_or_eq.1 hsign with h | h
    · simp [Nat.lt_one_iff.1 h, signBit]
    · simp [h, signBit]
  have hexp := Nat.div_add_mod' (w / 2 ^ f.fb) (2 ^ f.eb)
  rw [Nat.div_div_eq_div_mul, ← Nat.pow_add, Nat.add_comm f.fb] at hexp
  rw [hbit, Nat.pow_add, ← Nat.mul_assoc, ← Nat.add_mul, ← Nat.pow_add, hexp, Nat.div_add_mod']

/-- A finite code outside the zero exponent is no larger than the code of the largest finite value. -/
theorem code_le_maxCode {f : Fmt} {ex frac : Nat} (hex : ex < 2 ^ f.eb) (hfrac : frac < 2 ^ f.fb)
    (hnan : ¬ (ex = 2 ^ f.eb - 1 ∧ f = fmtE4m3 ∧ frac = 7))
    (htop : ¬ (ex = 2 ^ f.eb - 1 ∧ ¬ (f = fmtE4m3 ∨ f = fmtF6e2))) : ex * 2 ^ f.fb + frac ≤ maxCode f := by
  unfold maxCode
  split
  · next h =>
    subst h
    have hnan' : ¬ (ex = 15 ∧ frac = 7) := fun h => hnan ⟨h.1, rfl, h.2⟩
    simp only [fmtE4m3] at hex hfrac ⊢
    omega
  · split
    · next h => subst h; simp only [fmtF6e2] at hex hfrac ⊢; omega
    · next h4 h6 =>
      have hlt : ex + 1 ≤ 2 ^ f.eb - 1 := by
        have hne : ex ≠ 2 ^ f.eb - 1 := fun h => htop ⟨h, by simp [h4, h6]⟩
        omega
      have := Nat.mul_le_mul_right (2 ^ f.fb) hlt
      rw [Nat.add_mul] at this
      omega

/-- What a finite code is: a zero or subnormal with its magnitude in the fraction, or a normal number with a leading one. -/
theorem decodeFp_fin_cases {f : Fmt} {w : Nat} {neg : Bool} {m : Nat} {e : Int} (hw : w < 2 ^ f.bits)
    (h : decodeFp f w = .fin neg m e) :
    (m < 2 ^ f.fb ∧ e = 1 - (f.bias : Int) - f.fb ∧ w = signBit f neg + m ∧ isSubnormal f w = (m != 0))
      ∨ ∃ ex frac, 0 < ex ∧ frac < 2 ^ f.fb ∧ ex * 2 ^ f.fb + frac ≤ maxCode f ∧ m = 2 ^ f.fb + frac
          ∧ e = (ex : Int) - f.bias - f.fb ∧ w = signBit f neg + ex * 2 ^ f.fb + frac := by
  have hfields := code_eq_fields hw
  have hfrac := Nat.mod_lt w (Nat.two_pow_pos f.fb)
  have hex := Nat.mod_lt (w / 2 ^ f.fb) (Nat.two_pow_pos f.eb)
  unfold decodeFp at h
  unfold isSubnormal
  generalize w / 2 ^ f.fb % 2 ^ f.eb = ex at *
  generalize w % 2 ^ f.fb = frac at *
  simp only at h
  split at h
  · next h0 =>
    obtain ⟨rfl, rfl, rfl⟩ := Fv.fin.inj h
    simp only [beq_iff_eq] at h0
    subst h0
    exact .inl ⟨hfrac, rfl, by simpa using hfields, by simp⟩
  · next h0 =>
    split at h
    · cases h
    · next hnan =>
      split at h
      · split at h <;> cases h
      · next htop =>
        obtain ⟨rfl, rfl, rfl⟩ := Fv.fin.inj h
        simp only [beq_iff_eq, Bool.and_eq_true, Bool.not_eq_true', decide_eq_true_eq, and_assoc] at h0 hnan htop
        exact .inr ⟨ex, frac, by omega, hfrac, code_le_maxCode hex hfrac hnan (by simpa using htop), rfl, rfl, hfields⟩

/-! ## A representable value rounds to itself (R218, R219) -/

/-- The seven formats of R208 and R209. -/
def formats : List Fmt := [fmtF64, fmtF32, fmtF16, fmtBf16, fmtE4m3, fmtE5m2, fmtF6e2]

theorem decodeFp_maxCode : ∀ f ∈ formats, decodeFp f (maxCode f)
    = .fin false (2 ^ f.fb + maxCode f % 2 ^ f.fb) (((maxCode f / 2 ^ f.fb : Nat) : Int) - f.bias - f.fb) := by decide

/-- Normal numbers are in the order of their codes. -/
theorem normal_le_of_code_le {b ex frac ex' frac' : Nat} (hfrac : frac < 2 ^ b) (hfrac' : frac' < 2 ^ b)
    (hle : ex * 2 ^ b + frac ≤ ex' * 2 ^ b + frac') :
    ex ≤ ex' ∧ 2 ^ b + frac ≤ (2 ^ b + frac') * 2 ^ (ex' - ex) := by
  rcases Nat.lt_trichotomy ex ex' with hlt | rfl | hgt
  · refine ⟨Nat.le_of_lt hlt, ?_⟩
    calc 2 ^ b + frac ≤ 2 ^ b * 2 := by omega
      _ ≤ (2 ^ b + frac') * 2 ^ (ex' - ex) :=
        Nat.mul_le_mul (Nat.le_add_right _ _) (Nat.le_self_pow (Nat.sub_ne_zero_of_lt hlt) 2)
  · simpa using hle
  · have := Nat.mul_le_mul_right (2 ^ b) (Nat.succ_le_of_lt hgt)
    rw [Nat.succ_mul] at this
    omega

theorem dyadicGt_eq_false {m1 m2 : Nat} {e1 e2 : Int} (he : e1 ≤ e2) (h : m1 ≤ m2 * 2 ^ (e2 - e1).toNat) :
    dyadicGt m1 e1 m2 e2 = false := by
  simpa [dyadicGt, Int.min_eq_left he] using h

section
variable {f : Fmt} {c : FpCtl} {neg : Bool} {m ex frac : Nat}

/-- Below 2^fb a multiple of the smallest subnormal stays tiny in the first rounding, and the second one has nothing to round. -/
theorem roundFin_subnormal (hm : m < 2 ^ f.fb) (hftz : c.ftz = false ∨ m = 0) :
    roundFin f c neg m (1 - (f.bias : Int) - f.fb) = (signBit f neg + m, {}) := by
  have hlen : bitLen m ≤ f.fb := bitLen_le_iff.2 hm
  rw [roundFin]
  split
  · next h => simp [h]
  · next h =>
    refine (if_pos (Int.le_trans (bitLen_roundAt_add_le c.rm neg m ?_) ?_)).trans ?_
    · omega
    · omega
    · simp [hftz.resolve_right h, roundAt_self]

/-- With its leading one at bit fb a significand is already a multiple of its last place. -/
theorem roundFin_normal (hf : f ∈ formats) (hex : 0 < ex) (hfrac : frac < 2 ^ f.fb)
    (hmax : ex * 2 ^ f.fb + frac ≤ maxCode f) :
    roundFin f c neg (2 ^ f.fb + frac) ((ex : Int) - f.bias - f.fb) = (signBit f neg + ex * 2 ^ f.fb + frac, {}) := by
  have hpos := Nat.two_pow_pos f.fb
  have hlen : bitLen (2 ^ f.fb + frac) = f.fb + 1 :=
    bitLen_eq_succ (Nat.le_add_right _ _) (by rw [Nat.pow_succ]; omega)
  have hq (e : Int) : e + ((f.fb + 1 : Nat) : Int) - ((f.fb + 1 : Nat) : Int) = e := by omega
  obtain ⟨hexp, hsig⟩ := normal_le_of_code_le hfrac (Nat.mod_lt (maxCode f) hpos)
    (by rwa [Nat.div_add_mod'])
  have hgt : dyadicGt (2 ^ f.fb + frac) ((ex : Int) - f.bias - f.fb) (2 ^ f.fb + maxCode f % 2 ^ f.fb)
      (((maxCode f / 2 ^ f.fb : Nat) : Int) - f.bias - f.fb) = false := by
    have hdiff : (((maxCode f / 2 ^ f.fb : Nat) : Int) - f.bias - f.fb - ((ex : Int) - f.bias - f.fb)).toNat
        = maxCode f / 2 ^ f.fb - ex := by omega
    exact dyadicGt_eq_false (by omega) (by rwa [hdiff])
  have htop : ¬ (((f.fb + 1 : Nat) : Int) + ((ex : Int) - f.bias - f.fb) ≤ 1 - f.bias) := by omega
  have hcode : (((f.fb + 1 : Nat) : Int) + ((ex : Int) - f.bias - f.fb) - 1 + f.bias).toNat = ex := by omega
  rw [roundFin, if_neg (by omega)]
  simp only [hlen, hq, roundAt_self, if_neg htop, decodeFp_maxCode f hf, hgt, hcode]
  simp

/-- A finite value that FTZ leaves alone is exact in its own format. -/
theorem roundFp_decodeFp {w : Nat} {e : Int} (hf : f ∈ formats) (hw : w < 2 ^ f.bits) (h : decodeFp f w = .fin neg m e)
    (hftz : c.ftz = false ∨ isSubnormal f w = false) : roundFp f c (.fin neg m e) = (w, {}) := by
  rcases decodeFp_fin_cases hw h with ⟨hm, rfl, hcode, hsub⟩ | ⟨ex, frac, hex, hfrac, hmax, rfl, rfl, hcode⟩
  · rw [hsub, bne_eq_false_iff_eq] at hftz
    exact (roundFin_subnormal hm hftz).trans (by rw [hcode])
  · exact (roundFin_normal hf hex hfrac hmax).trans (by rw [hcode])

end

/-! ## NaN operands, invalid operations and division by zero (R208, R221) -/

theorem Fv.isNan_iff {a : Fv} : a.isNan = true ↔ ∃ s, a = .nan s := by cases a <;> simp [Fv.isNan]

@[simp] theorem Fv.isNan_negate (a : Fv) : a.negate.isNan = a.isNan := by cases a <;> rfl

@[simp] theorem Fv.signals_negate (a : Fv) : a.negate.signals = a.signals := by cases a <;> rfl

section
variable {rm : Rnd} {a b x : Fv}

theorem addFv_of_isNan (h : a.isNan = true ∨ b.isNan = true) :
    addFv rm a b = (quietNan, { nv := a.signals || b.signals }) := by
  rcases h.imp Fv.isNan_iff.1 Fv.isNan_iff.1 with ⟨s, rfl⟩ | ⟨s, rfl⟩
  · rfl
  · cases a <;> rfl

theorem mulFv_of_isNan (h : a.isNan = true ∨ b.isNan = true) :
    mulFv a b = (quietNan, { nv := a.signals || b.signals }) := by
  rcases h.imp Fv.isNan_iff.1 Fv.isNan_iff.1 with ⟨s, rfl⟩ | ⟨s, rfl⟩
  · rfl
  · cases a <;> rfl

theorem divFv_of_isNan (h : a.isNan = true ∨ b.isNan = true) :
    divFv a b = (quietNan, { nv := a.signals || b.signals }) := by
  rcases h.imp Fv.isNan_iff.1 Fv.isNan_iff.1 with ⟨s, rfl⟩ | ⟨s, rfl⟩
  · rfl
  · cases a <;> rfl

theorem sqrtFv_of_isNan (h : a.isNan = true) : sqrtFv a = (quietNan, { nv := a.signals }) := by
  obtain ⟨s, rfl⟩ := Fv.isNan_iff.1 h
  rfl

/-- A product is no signalling NaN and raises no flag but NV. -/
theorem mulFv_raises_nv_only (a b : Fv) : (mulFv a b).1.signals = false ∧ (mulFv a b).2 = { nv := (mulFv a b).2.nv } := by
  cases a with
  | nan s => exact ⟨rfl, rfl⟩
  | inf n =>
    cases b with
    | nan s => exact ⟨rfl, rfl⟩
    | inf k => exact ⟨rfl, rfl⟩
    | fin k m e => rw [mulFv]; split <;> exact ⟨rfl, rfl⟩
  | fin n m e =>
    cases b with
    | nan s => exact ⟨rfl, rfl⟩
    | inf k => rw [mulFv]; split <;> exact ⟨rfl, rfl⟩
    | fin k m' e' => exact ⟨rfl, rfl⟩

theorem fmaFv_of_mulFv_nan {v : Bool} (h : mulFv a b = (quietNan, { nv := v })) :
    fmaFv rm a b x = (quietNan, { nv := v || x.signals }) := by
  rw [fmaFv, h, addFv_of_isNan (.inl rfl)]
  rfl

theorem fmaFv_of_isNan_addend (h : x.isNan = true) :
    fmaFv rm a b x = (quietNan, { nv := (mulFv a b).2.nv || x.signals }) := by
  obtain ⟨hquiet, hflags⟩ := mulFv_raises_nv_only a b
  rw [fmaFv, addFv_of_isNan (.inr h), hquiet, hflags]
  rfl

theorem addFv_opposite_inf (n : Bool) : addFv rm (.inf n) (.inf !n) = (quietNan, { nv := true }) := by cases n <;> rfl

theorem mulFv_zero_inf {n m : Bool} {e : Int} : mulFv (.fin n 0 e) (.inf m) = (quietNan, { nv := true }) := rfl

theorem mulFv_inf_zero {n m : Bool} {e : Int} : mulFv (.inf m) (.fin n 0 e) = (quietNan, { nv := true }) := rfl

theorem divFv_zero_zero {n k : Bool} {e e' : Int} : divFv (.fin n 0 e) (.fin k 0 e') = (quietNan, { nv := true }) := rfl

theorem divFv_inf_inf {n k : Bool} : divFv (.inf n) (.inf k) = (quietNan, { nv := true }) := rfl

theorem divFv_by_zero {n k : Bool} {m : Nat} {e e' : Int} (hm : m ≠ 0) :
    divFv (.fin n m e) (.fin k 0 e') = (.inf (n != k), { dz := true }) := by simp [divFv, hm]

theorem sqrtFv_negative {m : Nat} {e : Int} (hm : m ≠ 0) : sqrtFv (.fin true m e) = (quietNan, { nv := true }) := by
  simp [sqrtFv, hm]

theorem sqrtFv_neg_inf : sqrtFv (.inf true) = (quietNan, { nv := true }) := rfl

end

/-! ## Operations on codes: the exact result, narrowed once (R218) -/

/-- An exact result rounded to a format, with the flags of both. -/
def narrow (f : Fmt) (c : FpCtl) (r : Fv × Flags) : Nat × Flags := ((roundFp f c r.1).1, r.2.or (roundFp f c r.1).2)

section
variable {f : Fmt} {c : FpCtl} {a b x : Nat}

theorem fpAdd_eq_narrow : fpAdd f c a b = narrow f c (addFv c.rm (readFp f c.daz a) (readFp f c.daz b)) := rfl

theorem fpSub_eq_narrow : fpSub f c a b = narrow f c (addFv c.rm (readFp f c.daz a) (readFp f c.daz b).negate) := rfl

theorem fpMul_eq_narrow : fpMul f c a b = narrow f c (mulFv (readFp f c.daz a) (readFp f c.daz b)) := rfl

theorem fpFma_eq_narrow :
    fpFma f c a b x = narrow f c (fmaFv c.rm (readFp f c.daz a) (readFp f c.daz b) (readFp f c.daz x)) := rfl

theorem fpDiv_eq_narrow : fpDiv f c a b = narrow f c (divFv (readFp f c.daz a) (readFp f c.daz b)) := rfl

theorem fpSqrt_eq_narrow : fpSqrt f c a = narrow f c (sqrtFv (readFp f c.daz a)) := rfl

theorem Flags.or_none (x : Flags) : x.or {} = x := by simp [Flags.or]

theorem narrow_quietNan (hf : f ≠ fmtF6e2) (x : Flags) : narrow f c (quietNan, x) = (canonicalNan f, x) := by
  simp [narrow, quietNan, roundFp, hf, Flags.or_none]

theorem narrow_inf (h6 : f ≠ fmtF6e2) (h4 : f ≠ fmtE4m3) (h5 : f ≠ fmtE5m2) (n : Bool) (x : Flags) :
    narrow f c (.inf n, x) = (signBit f n + infCode f, x) := by
  simp [narrow, roundFp, h6, h4, h5, Flags.or_none]

end

/-- The formats of scalar arithmetic have infinities and a NaN. -/
theorem arithmetic_format_ne : ∀ f ∈ [fmtF64, fmtF32, fmtBf16], f ≠ fmtF6e2 ∧ f ≠ fmtE4m3 ∧ f ≠ fmtE5m2 := by decide

/-- Settles O34: the round trip, the modes, and then the operands of each operation whose exact result is a NaN or an infinity. -/
theorem floatRounding : Obligations.FloatRounding := by
  refine ⟨⟨fun f c w neg m e hf hw h hftz => roundFp_decodeFp hf hw h hftz, fun rm neg m k e => ?_⟩, ?_⟩
  · refine ⟨roundAt_inexact_iff rm neg m k e, ?_, ?_, ?_, ?_⟩
    · rintro rfl
      exact roundAt_floor rfl
    · rintro rfl
      cases neg with
      | true => exact roundAt_floor (by simp [roundsUp])
      | false => exact roundAt_ceil (by simp [roundsUp])
    · rintro rfl
      cases neg with
      | true => exact roundAt_ceil (by simp [roundsUp])
      | false => exact roundAt_floor (by simp [roundsUp])
    · rintro rfl
      exact roundAt_rne_nearest
  · rintro f c a b x hf A B X hA hB hX _ rfl
    obtain ⟨h6, h4, h5⟩ := arithmetic_format_ne f hf
    have hnan := narrow_quietNan (c := c) h6
    simp only [fpAdd_eq_narrow, fpSub_eq_narrow, fpMul_eq_narrow, fpFma_eq_narrow, fpDiv_eq_narrow, fpSqrt_eq_narrow,
      ← hA, ← hB, ← hX]
    refine ⟨?_, ?_, ?_, ?_, ?_, ?_, ?_, ?_, ?_, ?_, ?_, ?_⟩
    · intro h
      have hsub := addFv_of_isNan (rm := c.rm) (a := A) (b := B.negate) (by simpa using h)
      simp [addFv_of_isNan h, hsub, mulFv_of_isNan h, divFv_of_isNan h, hnan]
    · intro h
      rw [fmaFv_of_mulFv_nan (mulFv_of_isNan h), hnan]
    · intro h _ _
      rw [fmaFv_of_isNan_addend h, hnan]
    · intro h
      rw [sqrtFv_of_isNan h, hnan]
    · rintro n rfl rfl
      rw [addFv_opposite_inf, hnan]
    · rintro n rfl rfl
      rw [Fv.negate, addFv_opposite_inf, hnan]
    · rintro n m e k (⟨rfl, rfl⟩ | ⟨rfl, rfl⟩)
      · exact ⟨by rw [mulFv_zero_inf, hnan], by rw [fmaFv_of_mulFv_nan mulFv_zero_inf, hnan, Bool.true_or]⟩
      · exact ⟨by rw [mulFv_inf_zero, hnan], by rw [fmaFv_of_mulFv_nan mulFv_inf_zero, hnan, Bool.true_or]⟩
    · rintro n k e e' rfl rfl
      rw [divFv_zero_zero, hnan]
    · rintro n k rfl rfl
      rw [divFv_inf_inf, hnan]
    · rintro m e rfl hm
      rw [sqrtFv_negative hm, hnan]
    · rintro rfl
      rw [sqrtFv_neg_inf, hnan]
    · rintro n m e k e' rfl hm rfl
      rw [divFv_by_zero hm, narrow_inf h6 h4 h5, infCode]

end Sys2Proof.Machine
end
